-- ==== Sys2Proof/Word.lean ====
section
/-! DEFINITION. The word types of the KMA-9100-M (R4, R7) and their plainest arithmetic. -/

namespace Sys2Proof

/-- A byte of memory or scratchpad (R4). -/
abbrev Byte := BitVec 8
/-- A general register (R7). -/
abbrev Word := BitVec 32
/-- A register pair, a rejoin mask, a tile entry (R7). -/
abbrev DWord := BitVec 64

/-- A thread, by its identities of R57. -/
structure ThreadId where
  grid : Nat
  team : Nat
  group : Nat
  tid : Nat
deriving DecidableEq, Repr

/-- A group, by its identities of R57. -/
structure GroupId where
  grid : Nat
  team : Nat
  group : Nat
deriving DecidableEq, Repr

/-- A team, by its identities of R57. -/
structure TeamId where
  grid : Nat
  team : Nat
deriving DecidableEq, Repr

/-- A core: compute die 0..3 and core 0..47 within it (R9). -/
structure CoreId where
  die : Nat
  core : Nat
deriving DecidableEq, Repr

/-- A quadrant: its core and 0..3 within it (R11). -/
structure QuadId where
  die : Nat
  core : Nat
  quad : Nat
deriving DecidableEq, Repr

/-- The group of a thread (R56). -/
def ThreadId.gid (t : ThreadId) : GroupId := { grid := t.grid, team := t.team, group := t.group }
/-- The team of a thread (R56). -/
def ThreadId.tmid (t : ThreadId) : TeamId := { grid := t.grid, team := t.team }
/-- The team of a group (R56). -/
def GroupId.tmid (g : GroupId) : TeamId := { grid := g.grid, team := g.team }
/-- The core of a quadrant (R11). -/
def QuadId.cid (q : QuadId) : CoreId := { die := q.die, core := q.core }

end Sys2Proof
end

