-- ==== Sys2Proof/Syntax.lean ====
section
/-! DEFINITION. The instructions of R53 and the device events of spec/95, one constructor per row of the opcode
table, with the operand codes of R48 to R52 decoded to names. Register fields are the raw fields of R42. -/

namespace Sys2Proof

/-- The type codes of R51. -/
inductive Ty where
  | s32 | n32 | s64 | n64 | s16 | n16 | s8 | n8 | f32 | f16 | bf16 | f64 | e4m3 | e5m2 | e2m1 | s4 | n4
  | cb2 | e8m0 | f16x2 | bf16x2 | s8x4 | n8x4 | s16x2 | n16x2 | e4m3x4 | e5m2x4
deriving DecidableEq, Repr

/-- The rounding modes of R52 (RM[2:0]). -/
inductive Rm where
  | rne | rz | rdn | rup | rna | sto | dyn
deriving DecidableEq, Repr

/-- Element widths of INT3 (R99). -/
inductive EWidth where
  | w32 | w16 | w8 | w64
deriving DecidableEq, Repr

/-- Types CMP accepts (R48). -/
inductive IntTy where
  | s32 | n32 | s64 | n64 | s16 | n16 | s8 | n8
deriving DecidableEq, Repr

/-- Types FCMP accepts (R48). -/
inductive FltTy where
  | f32 | f16 | bf16 | f64
deriving DecidableEq, Repr

/-- Types PACK and SAD accept (R105, R107). -/
inductive PackTy where
  | s8x4 | n8x4 | s16x2 | n16x2
deriving DecidableEq, Repr

/-- Types FP1 and FRND accept (R121, R123). -/
inductive F1Ty where
  | f32 | f64 | f16x2 | bf16x2
deriving DecidableEq, Repr

/-- Types the approximate functions and the tile moves accept (R123, R266). -/
inductive F2Ty where
  | f32 | f16x2 | bf16x2
deriving DecidableEq, Repr

/-- Conditions of CMP (R50). -/
inductive IntCond where
  | eq | ne | lt | le | gt | ge | lo | ls | hi | hs | bits | nbits
deriving DecidableEq, Repr

/-- Conditions of FCMP (R50). -/
inductive FltCond where
  | eq | ne | lt | le | gt | ge | un | ord | equ | ltu | leu | gtu | geu
deriving DecidableEq, Repr

/-- Combining types of a compare (R49). -/
inductive Ct where
  | set | nest | meet | join | meetn | joinn | one
deriving DecidableEq, Repr

/-- The second operand of a compare: a register field or IMM16 (R48). -/
inductive CmpB where
  | reg (b : Nat)
  | imm (v : Nat)
deriving DecidableEq, Repr

/-- A guard (R28, R47): predicate and negate. -/
structure Guard where
  q : Nat
  neg : Bool
deriving DecidableEq, Repr

/-- The count of SPAN (R109): a register or an immediate. -/
inductive SpanCount where
  | reg (c : Nat)
  | imm (n : Nat)
deriving DecidableEq, Repr

/-- The index or delta of LGET (R132): a register or an immediate. -/
inductive LaneSel where
  | reg (b : Nat)
  | imm (n : Nat)
deriving DecidableEq, Repr

/-- The delta of LGET.shift (R132): a register or a signed immediate. -/
inductive ShiftSel where
  | reg (b : Nat)
  | imm (n : Int)
deriving DecidableEq, Repr

/-- CENSUS modes (R132). -/
inductive CensusMode where
  | all | any | same | mask | count | first | rank
deriving DecidableEq, Repr

/-- Integer operators of RED, SCAN and CRED (R132, R311). -/
inductive IntRed where
  | add | min | max | and | or | xor
deriving DecidableEq, Repr

/-- Word types of the integer reductions (R132). -/
inductive RedTy where
  | s32 | n32 | s64 | n64
deriving DecidableEq, Repr

/-- An operator with its type and rounding (R132). -/
inductive RedOp where
  | int (op : IntRed) (ty : RedTy)
  | fadd (dbl : Bool) (rm : Rm)
  | fmax (dbl : Bool)
deriving DecidableEq, Repr

/-- Access sizes of LD and LDS (R183). -/
inductive LdSize where
  | n8 | s8 | n16 | s16 | n32 | n64 | n128
deriving DecidableEq, Repr

/-- Access sizes of ST and STS (R183). -/
inductive StSize where
  | n8 | n16 | n32 | n64 | n128
deriving DecidableEq, Repr

/-- Cache hints (R183, R204). -/
inductive Hint where
  | none | ev | nl1 | keep
deriving DecidableEq, Repr

/-- Scopes (R73). -/
inductive Scope where
  | thread | group | team | cluster | device | domain
deriving DecidableEq, Repr

/-- Scopes of ATOM (R186). -/
inductive AtomScope where
  | team | cluster | device | domain
deriving DecidableEq, Repr

/-- Atomic operations (R186). -/
inductive AtomOp where
  | ld | xchg | cas | add | smin | smax | nmin | nmax | and | or | xor | fadd
deriving DecidableEq, Repr

/-- Operations of 64-bit ATOMS (R189). -/
inductive AtomsOp where
  | w (op : AtomOp)
  | xchg64 | cas64 | add64
deriving DecidableEq, Repr

/-- A set of operation classes of FENCE (R192). -/
structure ClassSet where
  ld : Bool
  st : Bool
  atom : Bool
  iss : Bool
  cm : Bool
deriving DecidableEq, Repr

/-- CMAINT operations (R192). -/
inductive MaintOp where
  | clean | inv | cinv
deriving DecidableEq, Repr

/-- CAPQ fields (R176). -/
inductive CapField where
  | base | extent | stride | swz | tenant | perm | device | valid
deriving DecidableEq, Repr

/-- The target array of WLD and WLDS (R266). -/
inductive LatchTarget where
  | self
  | quad (q : Nat)
deriving DecidableEq, Repr

/-- TQRY kinds (R291). -/
inductive TqKind where
  | tile
  | cnt (clr : Bool)
  | slot
deriving DecidableEq, Repr

/-- GRES modes (R291). -/
inductive GresMode where
  | lead | any | all
deriving DecidableEq, Repr

/-- The awaited value of SEQW (R305): a register or an immediate. -/
inductive SeqSrc where
  | reg (a : Nat)
  | imm (v : Nat)
deriving DecidableEq, Repr

/-! Operands of the device events. -/

/-- What a PREEMPT_COMMAND names (R237). -/
inductive PreemptTarget where
  | grid (g : Nat)
  | vf (v : Nat)
  | partition (p : Nat)
deriving DecidableEq, Repr

/-- A link end: a fabric port, or a die-to-die link (R316, R336). -/
inductive LinkRef where
  | port (p : Nat)
  | die (l : Nat)
deriving DecidableEq, Repr

/-- Packet types (R316). -/
inductive PktType where
  | write | readReq | readResp | atomic | ackOnly | keyMarker | collective | reserved
deriving DecidableEq, Repr

/-- A fabric packet: the header fields of R316, whether its CRC and tag verify under the key that KPH names, and
its payload bytes. -/
structure Packet where
  dest : Nat
  src : Nat
  seq : Nat
  ack : Nat
  ackv : Bool
  kph : Nat
  type : PktType
  reqtag : Nat
  authOk : Bool
  flits : Nat
  tenant : Nat
  vaddr : Nat
  payload : List Nat
deriving DecidableEq, Repr

/-- A remote copy that reaches this device (R296): the receiving port, the sender's number for it, its tenant, where its
bytes go, the bytes as (offset or virtual address, byte) in visiting order, how many of them have arrived, the swizzle code
of a tile's offsets, and the flag write. -/
structure Transfer where
  port : Nat
  num : Nat
  tenant : Nat
  toTile : Bool
  die : Nat
  core : Nat
  tile : Nat
  bytes : List (Nat × Nat)
  got : Nat
  swz : Nat
  flag : Option (Nat × Bool × Nat)
deriving DecidableEq, Repr

/-- A host access (R356): a read, a write or an atomic through the root of one virtual function. -/
inductive HostOp where
  | read (addr len : Nat)
  | write (addr : Nat) (bytes : List Nat)
  | atomic (addr : Nat) (dbl : Bool) (op : AtomOp) (s c : Nat)
deriving DecidableEq, Repr

/-- An entry of the domain table (R359). -/
structure DomainEntry where
  dev : Nat
  port : Nat
  latency : Nat
deriving DecidableEq, Repr

/-- A record queue: a partition's, or the device's (R343). -/
inductive QueueRef where
  | part (p : Nat)
  | device
deriving DecidableEq, Repr

/-- A location of the classification table (R345): storage code and row of R342. -/
structure Location where
  storage : Nat
  row : Nat
deriving DecidableEq, Repr

/-- Storage an uncorrectable error poisons (R215, R344): a line at the device point, in the L2 of a die, or in the L1 of a
core; a register; an accumulator tile. -/
inductive PoisonAt where
  | line (addr : Nat)
  | l2line (d addr : Nat)
  | l1line (d c addr : Nat)
  | reg (t : ThreadId) (r : Nat)
  | tile (d c t : Nat)
  /-- An epilogue entry of a quadrant; a byte of a team's scratchpad. -/
  | epi (q : QuadId) (i : Nat)
  | spad (t : TeamId) (off : Nat)
deriving DecidableEq, Repr

/-- What the scrubber finds in a word (R346). -/
inductive ScrubFind where
  | clean
  | corrected
  | uncorrectable (at_ : PoisonAt)
deriving DecidableEq, Repr

/-- Functions of a derived event (R354). -/
inductive DerFn where
  | and | or | andnot | edge
  | thresh (n : Nat)
  | hist (edges : List Nat)
deriving DecidableEq, Repr

/-- An input of a derived event (R354). -/
inductive DerIn where
  | raw (n : Nat)
  | derived (i : Nat)
deriving DecidableEq, Repr

/-- A derived event (R354). -/
structure Derived where
  a : DerIn
  b : DerIn
  fn : DerFn
deriving DecidableEq, Repr

/-- What a counter view shows (R353): an event, over the reading thread's quadrant or over the partition; for a HIST
event the bin. -/
structure View where
  ev : DerIn
  quadrant : Bool
  bin : Nat
deriving DecidableEq, Repr

/-- A collective group: member devices in order, each with its route tag (R311). -/
structure CollGroup where
  members : List (Nat × Nat)
deriving DecidableEq, Repr

/-- Partition-interface settings without a table row of their own (R216, R224, R227, R233, R236, R238, R311, R326,
R338, R343, R345, R351 to R353, R356). -/
inductive Setting where
  | partitionCreate (p : Nat) (quads : List QuadId) (saveBase : Nat)
  | vfCreate (v tenant p root : Nat)
  | chainSet (c v first tail done compaddr notify : Nat) (enable : Bool)
  | overflowArea (core : CoreId) (base size : Nat)
  | saveArea (p base : Nat)
  | lostlocThreshold (p n : Nat)
  | frameTable (base : Nat)
  | coldWatermark (io n : Nat)
  | coldAge (io n : Nat)
  | schedMode (p m : Nat)
  | hangLimit (p n : Nat)
  | collGroup (p i : Nat) (g : CollGroup)
  | bindingRange (p lo hi : Nat)
  | classWindow (n t : Nat)
  | rollInterval (t : Nat)
  | recordNotify (q : QueueRef) (addr : Nat)
  | view (p i : Nat) (v : Option View)
  | viewClear (p i : Nat)
  | countStop (g : GroupId) (n : Option Nat)
  | replayArea (p base size interval : Nat)
  | tileEntry (d c m : Nat) (v : DWord)
  | frameColdClear (frame : Nat)
  | hostAttach (agent v : Nat)
  | codeObject (p base : Nat) (descs : List Nat)
deriving DecidableEq, Repr

/-- The instructions (MISC to PRIO) and the device events (PICK_BUNDLE to PACKAGE_POWER_OFF): one constructor per row
of spec/opcode_table.json. -/
inductive Instr where
  -- MISC, WAIT, CTRL (R53, R55, R140, R149, R151, R191)
  | nop
  | exit
  | trap (c : Nat)
  | bkpt
  | yield
  | rsys (d n : Nat)
  | wsys (n a : Nat)
  | sleep (n : Nat)
  | wait (nl ns nc nt : Nat)
  | wbase (b : Nat)
  | rjarm (n : Nat)
  | rjwait (n : Nat)
  | rjdrop (l h : Nat)
  | rjrd (d n : Nat)
  -- control flow, compares, predicates (R142 to R148)
  | br (g : Guard) (off : Int)
  | jal (d : Nat) (off : Int)
  | jr (g : Guard) (a l : Nat)
  | cmp (cc : IntCond) (ct : Ct) (ty : IntTy) (q1 q2 a : Nat) (b : CmpB)
  | fcmp (cc : FltCond) (ct : Ct) (ty : FltTy) (q1 q2 a : Nat) (b : CmpB)
  | plog (qd qa qb tt : Nat)
  | sel (p d a b : Nat)
  -- INT0 to INT3 (R95 to R100)
  | add (d a b : Nat)
  | sub (d a b : Nat)
  | and (d a b : Nat)
  | or (d a b : Nat)
  | xor (d a b : Nat)
  | andn (d a b : Nat)
  | orn (d a b : Nat)
  | xnor (d a b : Nat)
  | shl (d a b : Nat)
  | shr (d a b : Nat)
  | sra (d a b : Nat)
  | rol (d a b : Nat)
  | ror (d a b : Nat)
  | min (d a b : Nat)
  | max (d a b : Nat)
  | minn (d a b : Nat)
  | mul (d a b : Nat)
  | mulh (d a b : Nat)
  | mulhn (d a b : Nat)
  | div (d a b : Nat)
  | divn (d a b : Nat)
  | rem (d a b : Nat)
  | remn (d a b : Nat)
  | maxn (d a b : Nat)
  | clz (e : EWidth) (d a : Nat)
  | ctz (e : EWidth) (d a : Nat)
  | ffs (e : EWidth) (d a : Nat)
  | popc (e : EWidth) (d a : Nat)
  | brev (e : EWidth) (d a : Nat)
  | abs (e : EWidth) (d a : Nat)
  | sext (e : EWidth) (d a : Nat)
  | zext (e : EWidth) (d a : Nat)
  | add64 (d a b : Nat)
  | sub64 (d a b : Nat)
  | and64 (d a b : Nat)
  | or64 (d a b : Nat)
  | xor64 (d a b : Nat)
  | andn64 (d a b : Nat)
  | orn64 (d a b : Nat)
  | xnor64 (d a b : Nat)
  | shl64 (d a b : Nat)
  | shr64 (d a b : Nat)
  | sra64 (d a b : Nat)
  | rol64 (d a b : Nat)
  | ror64 (d a b : Nat)
  | min64 (d a b : Nat)
  | max64 (d a b : Nat)
  | minn64 (d a b : Nat)
  | mul64 (d a b : Nat)
  | mulh64 (d a b : Nat)
  | mulhn64 (d a b : Nat)
  | div64 (d a b : Nat)
  | divn64 (d a b : Nat)
  | rem64 (d a b : Nat)
  | remn64 (d a b : Nat)
  | maxn64 (d a b : Nat)
  -- PACK (R105, R106)
  | packAdd (ty : PackTy) (sat : Bool) (d a b : Nat)
  | packSub (ty : PackTy) (sat : Bool) (d a b : Nat)
  | packMin (ty : PackTy) (sat : Bool) (d a b : Nat)
  | packMax (ty : PackTy) (sat : Bool) (d a b : Nat)
  | avg (ty : PackTy) (sat : Bool) (d a b : Nat)
  | absd (ty : PackTy) (sat : Bool) (d a b : Nat)
  | packMul (ty : PackTy) (sat : Bool) (d a b : Nat)
  | packShl (ty : PackTy) (sat : Bool) (d a b : Nat)
  -- MAD (R107, R108)
  | mad (d a b c : Nat)
  | madh (d a b c : Nat)
  | madhn (d a b c : Nat)
  | mad64 (sgn : Bool) (d a b c : Nat)
  | dp4 (sgn bs sat : Bool) (d a b c : Nat)
  | dp2 (sgn bs sat : Bool) (d a b c : Nat)
  | sad (ty : PackTy) (sat : Bool) (d a b c : Nat)
  -- BITF (R109 to R113)
  | bfx (d a pos len : Nat)
  | bfxn (d a pos len : Nat)
  | bfi (d a b pos len : Nat)
  | bgath (d a b sel : Nat)
  | span (rot : Bool) (d a b : Nat) (n : SpanCount)
  | lut3 (d a b c tt : Nat)
  -- immediates (R101 to R104)
  | addi (d a : Nat) (i : Int)
  | addiImm32 (d a v : Nat)
  | andi (d a : Nat) (i : Int)
  | andiImm32 (d a v : Nat)
  | ori (d a : Nat) (i : Int)
  | oriImm32 (d a v : Nat)
  | xori (d a : Nat) (i : Int)
  | xoriImm32 (d a v : Nat)
  | shli (d a n : Nat)
  | shri (d a n : Nat)
  | srai (d a n : Nat)
  | muli (d a : Nat) (i : Int)
  | muliImm32 (d a v : Nat)
  | li (d : Nat) (i : Int)
  | liImm32 (d v : Nat)
  | li64 (d v : Nat)
  | liu (d v : Nat)
  | addl (d a : Nat) (i : Int)
  -- FP0 (R120)
  | fadd (d a b : Nat)
  | fsub (d a b : Nat)
  | fmul (d a b : Nat)
  | fmin (d a b : Nat)
  | fmax (d a b : Nat)
  | fcpys (d a b : Nat)
  | fabs (d a : Nat)
  | fneg (d a : Nat)
  -- FP1 (R121, R122)
  | faddFp1 (ty : F1Ty) (rm : Rm) (sat : Bool) (d a b : Nat)
  | fsubFp1 (ty : F1Ty) (rm : Rm) (sat : Bool) (d a b : Nat)
  | fmulFp1 (ty : F1Ty) (rm : Rm) (sat : Bool) (d a b : Nat)
  | ffma (ty : F1Ty) (rm : Rm) (sat : Bool) (d a b c : Nat)
  | ffms (ty : F1Ty) (rm : Rm) (sat : Bool) (d a b c : Nat)
  | fnma (ty : F1Ty) (rm : Rm) (sat : Bool) (d a b c : Nat)
  | fnms (ty : F1Ty) (rm : Rm) (sat : Bool) (d a b c : Nat)
  | fdot2 (bf : Bool) (rm : Rm) (sat : Bool) (d a b c : Nat)
  -- FP2, FP3 (R123 to R126)
  | fdiv (dbl : Bool) (rm : Rm) (sat : Bool) (d a b : Nat)
  | fsqrt (dbl : Bool) (rm : Rm) (d a : Nat)
  | frcp (dbl : Bool) (d a : Nat)
  | frsq (dbl : Bool) (d a : Nat)
  | fexp2 (ty : F2Ty) (d a : Nat)
  | flog2 (ty : F2Ty) (d a : Nat)
  | fsin (ty : F2Ty) (d a : Nat)
  | fcos (ty : F2Ty) (d a : Nat)
  | ftanh (ty : F2Ty) (d a : Nat)
  | fsigm (ty : F2Ty) (d a : Nat)
  | frnd (ty : F1Ty) (rm : Rm) (d a : Nat)
  | fclass (dbl : Bool) (d a : Nat)
  | fscale (dbl : Bool) (rm : Rm) (sat : Bool) (d a b : Nat)
  | fgetx (dbl : Bool) (d a : Nat)
  -- CVT (R127 to R131)
  | cvt (dt st : Ty) (rm : Rm) (sat : Bool) (d a : Nat)
  | cvtp (dt : Ty) (rm : Rm) (sat : Bool) (d a b c h : Nat)
  | cvte (dt st : Ty) (rm : Rm) (sat : Bool) (d a i : Nat)
  -- XLANE (R132 to R136)
  | lgetIdx (dbl : Bool) (d a : Nat) (s : LaneSel) (j : Nat)
  | lgetRot (dbl : Bool) (d a : Nat) (s : LaneSel) (j : Nat)
  | lgetShift (dbl : Bool) (d a : Nat) (s : ShiftSel) (j : Nat)
  | lgetXor (dbl : Bool) (d a : Nat) (s : LaneSel) (j : Nat)
  | census (m : CensusMode) (d a j : Nat)
  | red (op : RedOp) (d a j : Nat)
  | scan (op : RedOp) (excl : Bool) (d a j : Nat)
  | peers (dbl : Bool) (d a j : Nat)
  -- RCP (R156, R160, R167, R168)
  | slice (d n : Nat)
  | matz (d : Nat)
  | rcpst (d a : Nat)
  | rcppol (g : Nat)
  -- load-store (R183 to R192)
  | ld (sz : LdSize) (h : Hint) (s k a : Nat) (disp : Int)
  | st (g : Guard) (sz : StSize) (h : Hint) (k a : Nat) (disp : Int) (s : Nat)
  | atom (g : Guard) (op : AtomOp) (dbl : Bool) (sc : AtomScope) (k a : Nat) (disp : Int) (s c : Nat)
  | ldf (h : Hint) (s k a : Nat) (disp : Int)
  | stf (h : Hint) (k a : Nat) (disp : Int) (s : Nat)
  | lds (sz : LdSize) (s m a : Nat) (disp : Int) (c : Nat)
  | sts (sz : StSize) (m a : Nat) (disp : Int) (s c : Nat)
  | atoms (op : AtomsOp) (m a : Nat) (disp : Int) (s c : Nat)
  | phaseRel (sc : Scope)
  | phaseAcq (sc : Scope)
  | phaseAr (sc : Scope)
  | fence (e l : ClassSet)
  | cmaint (op : MaintOp) (lv k a b : Nat)
  | pref (lv k a : Nat)
  | lease (a : Nat)
  | capld (x i : Nat)
  | capnar (x y a b mask : Nat)
  | capq (f : CapField) (d y : Nat)
  | capswz (x y swz : Nat)
  | capdrop (x : Nat)
  -- matrix (R266)
  | wld (ty : Ty) (t : LatchTarget) (f : Nat)
  | wlds (t : LatchTarget) (s : Nat)
  | tmm (p : Nat)
  | tzero (t : Nat)
  | trd (ty : F2Ty) (rm : Rm) (sat : Bool) (d t : Nat)
  | twr (ty : F2Ty) (t a : Nat)
  | tepi (p : Nat)
  | tfuse (m : Nat)
  | cbld (f b : Nat)
  | tstat (clr : Bool) (d t : Nat)
  -- copy (R291)
  | cpy (d p : Nat)
  | cpyr (d p : Nat)
  | tsetFill (m n : Nat) (rw : Bool)
  | tsetReady (m : Nat)
  | tsetEmpty (m : Nat)
  | twait (m : Nat)
  | tqry (k : TqKind) (d idx : Nat)
  | gslot (n : Nat)
  | gres (m : GresMode) (n p : Nat) (neg : Bool)
  -- sync (R305)
  | barArrive (b a : Nat)
  | barWait (b : Nat)
  | barSync (b a : Nat)
  | tbar (t : Nat) (ar : Bool)
  | cred (d p : Nat)
  | seqw (n : Nat) (v : SeqSrc)
  | seqrd (d n : Nat)
  -- sched (R234)
  | spawn (d k x a : Nat)
  | qstat (d sel : Nat)
  | prio (p : Nat)
  -- events of threads and their accesses
  | pickBundle
  | sleepExpiry (t : ThreadId)
  | yieldRelease (t : ThreadId)
  | loadResultArrival (op : Nat)
  | storePerform (op : Nat)
  | atomicPerform (op : Nat)
  | dataFaultPark (iss : Nat)
  | remoteAccessFailure (op : Nat)
  | phaseRelComplete (t : ThreadId)
  | phaseAcqComplete (t : ThreadId)
  | cmaintComplete (op : Nat)
  | capWriteEffect (t : TeamId)
  | l1Eviction (d c addr : Nat)
  | l2Eviction (d addr : Nat)
  | recipeConversion (g : GroupId) (x : Nat)
  | reserveRefill (g : GroupId)
  | laneMigration (t : ThreadId) (lane : Nat)
  | groupEnd (g : GroupId)
  | teamEnd (t : TeamId)
  | gridCompletion (g : Nat)
  | leaseWindowEnd
  | groupActivation (g : GroupId)
  | groupUrgent (g : GroupId)
  | groupSwap (g : GroupId)
  | hangWatchdogExpiry (g : GroupId)
  -- events of the launch front ends, partitions and the supervisor
  | doorbellWrite (c tail : Nat)
  | launchEntryStart (c : Nat)
  | dependenceSatisfied (c : Nat)
  | dependencePoll (c : Nat)
  | frontEndReadFault (c : Nat)
  | teamPlacement (g : Nat)
  | markerCompletion (c : Nat)
  | chainDoneAdvance (c : Nat)
  | preemptCommand (t : PreemptTarget) (fast : Bool)
  | preemptRestore (t : TeamId)
  | partitionShrink (p : Nat) (quads : List QuadId)
  | partitionShrinkForce (p : Nat) (quads : List QuadId)
  | vfDisable (vs : List Nat)
  | vfEnable (v : Nat)
  | translationInvalidate (v base len : Nat)
  | faultResume (g : GroupId) (tids : Nat) (pc : Option Nat)
  | threadKill (t : ThreadId)
  | stepBitWrite (g : GroupId) (on : Bool)
  | countStop (g : GroupId)
  | replayCheckpoint (p : Nat)
  | replayStop (p : Nat) (g : GroupId) (n : Nat)
  | sweeperFrameVisit (io : Nat)
  | coldQueueConsumedWrite (io n : Nat)
  | coldQueueBaseWrite (io base len : Nat)
  | migrationRequest (frame agent : Nat)
  | migrationMoveComplete (frame agent dest : Nat)
  | migrationWriteTimeout (op : Nat)
  -- events of the matrix, copy and sync engines
  | matrixCaptureEnd (cmd : Nat)
  | matrixCommandBegin (cmd : Nat)
  | matrixCommandComplete (cmd : Nat)
  | tfuseEffect (cmd : Nat)
  | epilogueCopy (cmd : Nat)
  | epilogueDrainComplete (q : QuadId) (i : Nat)
  | epilogueEntryFault (q : QuadId) (i : Nat)
  | epilogueEntryResolve (q : QuadId) (i : Nat)
  | epilogueEntryKill (q : QuadId) (i : Nat)
  | copyComplete (cmd : Nat)
  | copyFaultHold (cmd : Nat)
  | cpyrArrival (x : Transfer)
  | cpyrAcknowledge (cmd : Nat)
  | credInstanceComplete (cmd : Nat) (others : List (Nat × List Nat))
  | credInstanceFailure (cmd : Nat)
  | gslotGenerationAdvance (t : TeamId) (y : Nat)
  | tbarRelease (g cl tag : Nat)
  -- events of the links
  | packetReceive (port : Nat) (p : Packet)
  | ackOnlySend (port : Nat)
  | replayTimeout (port : Nat)
  | portLaneFailure (port : Nat) (lanes : Nat)
  | portDegradeComplete (port : Nat)
  | portRetrainComplete (port : Nat) (trained : Nat)
  | portRetrainTimeout (port : Nat)
  | portWidenCommand (port : Nat)
  | portRetrainCommand (port : Nat)
  | keyInstall (l : LinkRef)
  | keyMarkerReceive (l : LinkRef)
  | keyRetire (l : LinkRef)
  | domainTableWrite (dev : Nat) (e : Option DomainEntry)
  | routeTagModeWrite (p tag mode : Nat)
  -- events of the dies and the root
  | powerOn
  | attestationResult (d : Nat) (fail : Nat)
  | roll
  | periodicRoll
  | rollTurn (d : Nat)
  | rollTurnComplete (d : Nat)
  | dieLinkFault (l : Nat)
  | dieLinkRecovered (l : Nat)
  | reset (d : Nat)
  | drainComplete (d : Nat)
  | quarantine (d : Nat)
  | attest (d : Nat)
  | duskStallTimeout (op : Nat)
  | purge (tag : Nat)
  | retire (d : Nat) (loc : Location)
  | clearpoison (base len : Nat)
  | classclear (d : Nat) (loc : Location)
  | eccCorrectedEvent (d : Nat) (loc : Location) (tag : Nat)
  | eccUncorrectableEvent (d : Nat) (loc : Location) (at_ : PoisonAt) (tag : Nat)
  | scrubWord (d addr : Nat) (found : ScrubFind) (demand : Bool)
  | faultRecordPost (d : Nat)
  | recordQueueSet (q : QueueRef) (base len : Nat)
  | takenWrite (q : QueueRef) (n : Nat)
  | hostAccess (agent : Nat) (op : HostOp)
  | derivedEventConfig (p i : Nat) (d : Derived)
  | junctionReport (d temp : Nat)
  | thermalPowerRemoval
  | supervisorRegisterWrite (s : Setting)
  | commandAdmission (cmd : Nat)
  | spawnResult (t : ThreadId)
  | packagePowerOff
deriving DecidableEq, Repr

end Sys2Proof
end

