-- ==== Sys2Proof/WellFormed.lean ====
section
/-! DEFINITION. Which instruction terms an instruction word or an event can hold: the field ranges of R42 and R43 and
the sub-field rules that step 6 of R40 checks (evenness of R46, R48 to R52, and the engine chapters). -/

namespace Sys2Proof

/-- A 7-bit register field (R45). -/
def r7 (x : Nat) : Bool := decide (x < 128)
/-- The field of a 64-bit operand is even (R46). -/
def p7 (x : Nat) : Bool := decide (x < 128) && decide (x % 2 = 0)
/-- A field that names a pair when `dbl` holds (R46). -/
def rp (dbl : Bool) (x : Nat) : Bool := decide (x < 128) && (!dbl || decide (x % 2 = 0))
/-- A 4-bit anchor field (R45). -/
def r4 (x : Nat) : Bool := decide (x < 16)
/-- A predicate field (R42). -/
def q3 (x : Nat) : Bool := decide (x < 8)
/-- A signed field of `n` values (R43). -/
def sgn (n : Nat) (i : Int) : Bool := decide (-(n / 2 : Int) ≤ i) && decide (i < (n / 2 : Int))

def Guard.wf (g : Guard) : Bool := q3 g.q

def EWidth.dbl : EWidth → Bool
  | .w64 => true
  | _ => false

def IntTy.dbl : IntTy → Bool
  | .s64 | .n64 => true
  | _ => false

def FltTy.dbl : FltTy → Bool
  | .f64 => true
  | _ => false

def F1Ty.dbl : F1Ty → Bool
  | .f64 => true
  | _ => false

def RedTy.dbl : RedTy → Bool
  | .s64 | .n64 => true
  | _ => false

def RedOp.dbl : RedOp → Bool
  | .int _ t => t.dbl
  | .fadd d _ => d
  | .fmax d => d

/-- Types of 64 bits, which name a pair (R51). -/
def Ty.dbl : Ty → Bool
  | .s64 | .n64 | .f64 => true
  | _ => false

/-- Integer types of the scalar conversions (R127). -/
def Ty.isInt : Ty → Bool
  | .s32 | .n32 | .s64 | .n64 | .s16 | .n16 | .s8 | .n8 | .s4 | .n4 => true
  | _ => false

/-- Scalar types of CVT (R127). -/
def Ty.isScalar : Ty → Bool
  | .s32 | .n32 | .s64 | .n64 | .s16 | .n16 | .s8 | .n8 | .f32 | .f16 | .bf16 | .f64 | .e4m3 | .e5m2 | .e2m1
  | .s4 | .n4 | .e8m0 => true
  | _ => false

/-- Elements of a destination of CVTP (R130); 0 for the other types. -/
def Ty.cvtpElems : Ty → Nat
  | .f16x2 | .bf16x2 | .s16x2 | .n16x2 => 2
  | .e4m3x4 | .e5m2x4 | .s8x4 | .n8x4 => 4
  | _ => 0

/-- Elements of a source of CVTE (R131); 0 for the other types. -/
def Ty.cvteElems : Ty → Nat
  | .f16x2 | .bf16x2 | .s16x2 | .n16x2 => 2
  | .e4m3x4 | .e5m2x4 | .s8x4 | .n8x4 | .e8m0 => 4
  | .e2m1 | .s4 | .n4 => 8
  | _ => 0

/-- Destinations of CVTE (R131). -/
def Ty.cvteDst : Ty → Bool
  | .f32 | .f64 | .f16 | .bf16 | .s32 | .n32 => true
  | _ => false

/-- Packed and narrow integer sources of CVTE (R131). -/
def Ty.cvteInt : Ty → Bool
  | .s16x2 | .n16x2 | .s8x4 | .n8x4 | .s4 | .n4 => true
  | _ => false

/-- The predicates of a compare (R49). -/
def cmpQs (ct : Ct) (q1 q2 : Nat) : Bool :=
  q3 q1 && q3 q2 && (if ct = .one then decide (q2 = 0) else decide (q1 ≠ q2) || decide (q1 = 0))

def CmpB.wf (dbl : Bool) : CmpB → Bool
  | .reg b => rp dbl b
  | .imm v => decide (v < 65536)

def SpanCount.wf : SpanCount → Bool
  | .reg c => r7 c
  | .imm n => decide (n < 64)

def LaneSel.wf : LaneSel → Bool
  | .reg b => r7 b
  | .imm n => decide (n < 64)

def ShiftSel.wf : ShiftSel → Bool
  | .reg b => r7 b
  | .imm n => sgn 64 n

def RedOp.wf : RedOp → Bool
  | .fadd _ rm => decide (rm ≠ .sto) && decide (rm ≠ .dyn)
  | _ => true

/-- The data register of a load (R183). -/
def LdSize.regWf : LdSize → Nat → Bool
  | .n64, s => p7 s
  | .n128, s => decide (s < 128) && decide (s % 4 = 0)
  | _, s => r7 s

/-- The data register of a store (R183). -/
def StSize.regWf : StSize → Nat → Bool
  | .n64, s => p7 s
  | .n128, s => decide (s < 128) && decide (s % 4 = 0)
  | _, s => r7 s

/-- Operand registers of an atomic (R186): C is zero for `ld`. -/
def AtomOp.regsWf (op : AtomOp) (dbl : Bool) (s c : Nat) : Bool :=
  rp dbl s && rp dbl c && (decide (op ≠ .ld) || decide (c = 0))

def AtomsOp.regsWf : AtomsOp → Nat → Nat → Bool
  | .w op, s, c => op.regsWf false s c
  | _, s, c => p7 s && p7 c

def LatchTarget.wf : LatchTarget → Bool
  | .self => true
  | .quad q => decide (q < 4)

def TqKind.wf (d idx : Nat) : TqKind → Bool
  | .tile => p7 d && decide (idx < 64)
  | .cnt _ => r7 d && decide (idx < 16)
  | .slot => r7 d && decide (idx < 16)

def SeqSrc.wf : SeqSrc → Bool
  | .reg a => r7 a
  | .imm v => decide (v < 2048)

/-- Selectors of BGATH (R111): each nibble is 0 to 8. -/
def bgathWf (sel : Nat) : Bool :=
  decide (sel < 65536) && decide (sel % 16 ≤ 8) && decide (sel / 16 % 16 ≤ 8) && decide (sel / 256 % 16 ≤ 8) &&
    decide (sel / 4096 % 16 ≤ 8)

/-- System registers of 64 bits (R55). -/
def sysDbl (n : Nat) : Bool := decide (n = 0x10) || decide (n = 0x1D) || decide (n = 0x1E)

/-- A launch chain: the 128 chains of R224, and from 128 the spawn queue of each partition (R234). -/
def chainWf (c : Nat) : Bool := decide (c < 192)
def dieWf (d : Nat) : Bool := decide (d < 6)
def ioWf (d : Nat) : Bool := decide (d < 2)
def portWf (p : Nat) : Bool := decide (p < 18)
def CoreId.wf (c : CoreId) : Bool := decide (c.die < 4) && decide (c.core < 48)
def QuadId.wf (q : QuadId) : Bool := decide (q.die < 4) && decide (q.core < 48) && decide (q.quad < 4)
def LinkRef.wf : LinkRef → Bool
  | .port p => portWf p
  | .die l => decide (l < 13)

/-- The term is one that an instruction's words can hold under step 6 of R40, or an event with operands in range. -/
def Instr.wf : Instr → Bool
  | .trap c => decide (c < 128)
  | .rsys d n => decide (n < 128) && rp (sysDbl n) d
  | .wsys n a => decide (n < 128) && r7 a
  | .sleep n => decide (n < 128)
  | .wait nl ns nc nt => decide (nl < 64) && decide (ns < 64) && decide (nc < 16) && decide (nt < 16)
  | .wbase b => decide (b < 16)
  | .rjarm n => decide (1 ≤ n) && decide (n < 8)
  | .rjwait n => decide (n < 8)
  | .rjdrop l h => decide (1 ≤ l) && decide (l ≤ h) && decide (h < 8)
  | .rjrd d n => p7 d && decide (n < 8)
  | .br g off => g.wf && sgn 1048576 off
  | .jal d off => r4 d && decide (d % 2 = 0) && sgn 1048576 off
  | .jr g a l => g.wf && p7 a && p7 l
  | .cmp _ ct ty q1 q2 a b => cmpQs ct q1 q2 && rp ty.dbl a && b.wf ty.dbl
  | .fcmp _ ct ty q1 q2 a b => cmpQs ct q1 q2 && rp ty.dbl a && b.wf ty.dbl
  | .plog qd qa qb tt => q3 qd && q3 qa && q3 qb && decide (tt < 16)
  | .sel p d a b => q3 p && r7 d && r7 a && r7 b
  | .add d a b | .sub d a b | .and d a b | .or d a b | .xor d a b | .andn d a b | .orn d a b | .xnor d a b
  | .shl d a b | .shr d a b | .sra d a b | .rol d a b | .ror d a b | .min d a b | .max d a b | .minn d a b
  | .mul d a b | .mulh d a b | .mulhn d a b | .div d a b | .divn d a b | .rem d a b | .remn d a b | .maxn d a b
  | .fadd d a b | .fsub d a b | .fmul d a b | .fmin d a b | .fmax d a b | .fcpys d a b => r7 d && r7 a && r7 b
  | .clz e d a | .ctz e d a | .ffs e d a | .popc e d a | .brev e d a | .abs e d a => rp e.dbl d && rp e.dbl a
  | .sext e d a | .zext e d a => rp e.dbl d && r7 a
  | .add64 d a b | .sub64 d a b | .and64 d a b | .or64 d a b | .xor64 d a b | .andn64 d a b | .orn64 d a b
  | .xnor64 d a b | .shl64 d a b | .shr64 d a b | .sra64 d a b | .rol64 d a b | .ror64 d a b | .min64 d a b
  | .max64 d a b | .minn64 d a b | .mul64 d a b | .mulh64 d a b | .mulhn64 d a b | .div64 d a b | .divn64 d a b
  | .rem64 d a b | .remn64 d a b | .maxn64 d a b => p7 d && p7 a && p7 b
  | .packAdd _ _ d a b | .packSub _ _ d a b | .packMin _ _ d a b | .packMax _ _ d a b | .avg _ _ d a b
  | .absd _ _ d a b | .packMul _ _ d a b | .packShl _ _ d a b => r7 d && r7 a && r7 b
  | .mad d a b c | .madh d a b c | .madhn d a b c | .dp4 _ _ _ d a b c | .dp2 _ _ _ d a b c | .sad _ _ d a b c =>
    r7 d && r7 a && r7 b && r7 c
  | .mad64 _ d a b c => p7 d && r7 a && r7 b && p7 c
  | .bfx d a pos len | .bfxn d a pos len => r7 d && r7 a && decide (pos < 32) && decide (len ≤ 32)
  | .bfi d a b pos len => r7 d && r7 a && r7 b && decide (pos < 32) && decide (len ≤ 32)
  | .bgath d a b sl => r7 d && r7 a && r7 b && bgathWf sl
  | .span _ d a b n => r7 d && r7 a && r7 b && n.wf
  | .lut3 d a b c tt => r7 d && r7 a && r7 b && r7 c && decide (tt < 256)
  | .addi d a i | .andi d a i | .ori d a i | .xori d a i | .muli d a i => r7 d && r7 a && sgn 1024 i
  | .addiImm32 d a v | .andiImm32 d a v | .oriImm32 d a v | .xoriImm32 d a v | .muliImm32 d a v =>
    r7 d && r7 a && decide (v < 4294967296)
  | .shli d a n | .shri d a n | .srai d a n => r7 d && r7 a && decide (n < 64)
  | .li d i => r7 d && sgn 1024 i
  | .liImm32 d v => r7 d && decide (v < 4294967296)
  | .li64 d v => p7 d && decide (v < 18446744073709551616)
  | .liu d v => r4 d && decide (v < 1048576)
  | .addl d a i => r4 d && r4 a && sgn 4096 i
  | .fabs d a | .fneg d a => r7 d && r7 a
  | .faddFp1 ty _ _ d a b | .fsubFp1 ty _ _ d a b | .fmulFp1 ty _ _ d a b => rp ty.dbl d && rp ty.dbl a && rp ty.dbl b
  | .ffma ty _ _ d a b c | .ffms ty _ _ d a b c | .fnma ty _ _ d a b c | .fnms ty _ _ d a b c =>
    rp ty.dbl d && rp ty.dbl a && rp ty.dbl b && rp ty.dbl c
  | .fdot2 _ _ _ d a b c => r7 d && r7 a && r7 b && r7 c
  | .fdiv dbl _ _ d a b => rp dbl d && rp dbl a && rp dbl b
  | .fsqrt dbl _ d a => rp dbl d && rp dbl a
  | .frcp dbl d a | .frsq dbl d a => rp dbl d && rp dbl a
  | .fexp2 _ d a | .flog2 _ d a | .fsin _ d a | .fcos _ d a | .ftanh _ d a | .fsigm _ d a => r7 d && r7 a
  | .frnd ty rm d a => decide (rm ≠ .sto) && rp ty.dbl d && rp ty.dbl a
  | .fclass dbl d a | .fgetx dbl d a => r7 d && rp dbl a
  | .fscale dbl _ _ d a b => rp dbl d && rp dbl a && r7 b
  | .cvt dt src rm _ d a => dt.isScalar && src.isScalar && (!(dt.isInt && src.isInt) || decide (rm = .rne)) &&
      rp dt.dbl d && rp src.dbl a
  | .cvtp dt _ _ d a b c h => r7 d && r7 a && r7 b &&
      (if dt.cvtpElems = 4 then r7 c && decide (h < 2) else decide (dt.cvtpElems = 2) && decide (c = 0) && decide (h = 0))
  | .cvte dt src rm _ d a i => dt.cvteDst && decide (i < src.cvteElems) &&
      (!(dt.isInt && src.cvteInt) || decide (rm = .rne)) && rp dt.dbl d && r7 a
  | .lgetIdx dbl d a s j | .lgetRot dbl d a s j | .lgetXor dbl d a s j => rp dbl d && rp dbl a && s.wf && q3 j
  | .lgetShift dbl d a s j => rp dbl d && rp dbl a && s.wf && q3 j
  | .census m d a j => rp (decide (m = .mask)) d && r7 a && q3 j
  | .red op d a j => op.wf && rp op.dbl d && rp op.dbl a && q3 j
  | .scan op _ d a j => op.wf && rp op.dbl d && rp op.dbl a && q3 j
  | .peers dbl d a j => p7 d && rp dbl a && q3 j
  | .slice d n => r7 d && decide (d ≠ 0) && decide (1 ≤ n) && decide (n ≤ 4)
  | .matz d => r7 d
  | .rcpst d a => r7 d && r7 a
  | .rcppol g => decide (g < 16)
  | .ld sz _ s k a disp => sz.regWf s && decide (k < 16) && r7 a && sgn 262144 disp
  | .st g sz _ k a disp s => g.wf && sz.regWf s && decide (k < 16) && r7 a && sgn 262144 disp
  | .atom g op dbl _ k a disp s c => g.wf && op.regsWf dbl s c && decide (k < 16) && r7 a && sgn 262144 disp
  | .ldf _ s k a disp => r7 s && decide (k < 16) && r7 a && sgn 262144 disp
  | .stf _ k a disp s => r7 s && decide (k < 16) && r7 a && sgn 262144 disp
  | .lds sz s m a disp c => sz.regWf s && decide (m < 64) && r7 a && sgn 1048576 disp && r7 c
  | .sts sz m a disp s c => sz.regWf s && decide (m < 64) && r7 a && sgn 1048576 disp && r7 c
  | .atoms op m a disp s c => op.regsWf s c && decide (m < 64) && r7 a && sgn 1048576 disp
  | .cmaint _ lv k a b => decide (1 ≤ lv) && decide (lv ≤ 4) && decide (k < 16) && p7 a && p7 b
  | .pref lv k a => decide (1 ≤ lv) && decide (lv ≤ 3) && decide (k < 16) && r7 a
  | .lease a => r7 a
  | .capld x i => decide (x < 16) && decide (i < 256)
  | .capnar x y a b mask => decide (x < 16) && decide (y < 16) && p7 a && p7 b && decide (mask < 256)
  | .capq f d y => rp (decide (f = .base) || decide (f = .extent)) d && decide (y < 16)
  | .capswz x y swz => decide (x < 16) && decide (y < 16) && decide (swz < 256)
  | .capdrop x => decide (x < 16)
  | .wld _ t f => t.wf && r7 f
  | .wlds t s => t.wf && r7 s
  | .tmm p | .tepi p => p7 p
  | .tzero t => decide (t < 64)
  | .trd ty rm sat d t => (decide (ty ≠ .f32) || (decide (rm = .rne) && !sat)) && r7 d && decide (t < 64)
  | .twr _ t a => decide (t < 64) && r7 a
  | .tfuse m => decide (m < 8)
  | .cbld f b => r7 f && decide (b < 256)
  | .tstat _ d t => r7 d && decide (t < 64)
  | .cpy d p | .cpyr d p | .cred d p => r7 d && r7 p
  | .tsetFill m n _ => decide (m < 64) && decide (1 ≤ n) && decide (n < 128)
  | .tsetReady m | .tsetEmpty m | .twait m => decide (m < 64)
  | .tqry k d idx => k.wf d idx
  | .gslot n => decide (n < 16)
  | .gres _ n p _ => decide (n < 16) && q3 p
  | .barArrive b a | .barSync b a => decide (b < 128) && r7 a
  | .barWait b => decide (b < 128)
  | .tbar t _ => decide (t < 8)
  | .seqw n v => decide (n < 16) && v.wf
  | .seqrd d n => r7 d && decide (n < 16)
  | .spawn d k x a => p7 d && decide (k < 16) && decide (x < 16) && p7 a
  | .qstat d sl => r7 d && decide (sl < 8)
  | .prio p => decide (p < 8)
  | .l1Eviction d c _ => decide (d < 4) && decide (c < 48)
  | .l2Eviction d _ => decide (d < 4)
  | .laneMigration _ lane => decide (lane < 64)
  | .doorbellWrite c _ => decide (c < 128)
  | .launchEntryStart c | .dependenceSatisfied c | .dependencePoll c | .frontEndReadFault c | .markerCompletion c
  | .chainDoneAdvance c => chainWf c
  | .partitionShrink _ qs | .partitionShrinkForce _ qs => qs.all QuadId.wf
  | .sweeperFrameVisit io | .coldQueueConsumedWrite io _ => ioWf io
  | .coldQueueBaseWrite io base len => ioWf io && decide (base < 4503599627370496) && decide (4096 ≤ len) &&
      decide (len ≤ 1048576)
  | .epilogueDrainComplete q i | .epilogueEntryFault q i | .epilogueEntryResolve q i | .epilogueEntryKill q i =>
    q.wf && decide (i < 4)
  | .packetReceive p pkt => portWf p && pkt.payload.all (fun b => decide (b < 256))
  | .cpyrArrival x => portWf x.port
  | .ackOnlySend p | .replayTimeout p | .portDegradeComplete p | .portRetrainTimeout p | .portWidenCommand p
  | .portRetrainCommand p => portWf p
  | .portLaneFailure p lanes => portWf p && decide (lanes < 65536)
  | .portRetrainComplete p lanes => portWf p && decide (lanes < 65536)
  | .keyInstall l | .keyMarkerReceive l | .keyRetire l => l.wf
  | .domainTableWrite dev _ => decide (dev < 2097152)
  | .routeTagModeWrite _ tag mode => decide (tag < 8) && decide (mode < 3)
  | .attestationResult d _ | .rollTurn d | .rollTurnComplete d | .reset d | .drainComplete d | .quarantine d
  | .attest d | .faultRecordPost d => dieWf d
  | .dieLinkFault l | .dieLinkRecovered l => decide (l < 13)
  | .retire d _ | .classclear d _ | .eccCorrectedEvent d _ _ | .eccUncorrectableEvent d _ _ _
  | .scrubWord d _ _ _ | .junctionReport d _ => dieWf d
  | .derivedEventConfig _ i _ => decide (i < 32)
  | _ => true

end Sys2Proof
end

