-- ==== Sys2Proof/Decode.lean ====
section
/-! DEFINITION. Decoding (R38 to R53) and, after it, the encoder. The decoder reads the fields of the major's format
into a term and accepts it when the term is well formed and the words are exactly its encoding: every field that the
instruction does not use is then zero (R6, R44). -/

namespace Sys2Proof

/-- Why a word sequence is not an instruction: the step of R40 that fails. All raise cause 0x01 but `truncated`. -/
inductive DecodeError where
  /-- The bytes end before the instruction does (step 1 or 3 cannot be taken). -/
  | truncated
  /-- Step 2: LEN is 3. -/
  | lenIllegal
  /-- Step 4: MAJ is reserved. -/
  | majorReserved
  /-- Step 5: LEN is not one the major allows. -/
  | lenNotAllowed
  /-- Step 6: a sub-field holds an undefined value. -/
  | subField
deriving DecidableEq, Repr

/-! Fields of R42. -/

def fLen (w : Nat) : Nat := w / 1073741824 % 4
def fMaj (w : Nat) : Nat := w / 16777216 % 64
/-- D, and A of format C (bits 23:17). -/
def fD (w : Nat) : Nat := w / 131072 % 128
/-- A, and B of format C (bits 16:10). -/
def fA (w : Nat) : Nat := w / 1024 % 128
def fB (w : Nat) : Nat := w / 8 % 128
def fFn (w : Nat) : Nat := w % 8
/-- FN of format S (bits 9:7). -/
def fSfn (w : Nat) : Nat := w / 128 % 8
def fArg (w : Nat) : Nat := w % 128
/-- Bits 23:20: D4 of formats U and L; Q and N of formats B and J lie in the same bits. -/
def fD4 (w : Nat) : Nat := w / 1048576 % 16
def fA4 (w : Nat) : Nat := w / 65536 % 16
def fLow20 (w : Nat) : Nat := w % 1048576
/-- C of word 1 of AX (bits 31:25). -/
def xC (w : Nat) : Nat := w / 33554432 % 128
def xTy (w : Nat) : Nat := w / 1048576 % 32
def xRm (w : Nat) : Nat := w / 65536 % 16
def xX (w : Nat) : Nat := w % 65536
/-- OP5, C, CO, DISP18 of word 1 of MG and SP. -/
def mOp (w : Nat) : Nat := w / 134217728 % 32
def mC (w : Nat) : Nat := w / 1048576 % 128
def mCo (w : Nat) : Nat := w / 262144 % 4

/-- A field of `n` values read as two's complement (R43). -/
def sxt (n x : Nat) : Int := if x < n / 2 then (x : Int) else (x : Int) - n
/-- The field of `n` values that holds a signed value (R43). -/
def unsxt (n : Nat) (i : Int) : Nat := if i < 0 then (i + n).toNat else i.toNat

def bit (b : Bool) : Nat := if b then 1 else 0

/-! Codes of the operand names. -/

def Ty.code : Ty → Nat
  | .s32 => 0 | .n32 => 1 | .s64 => 2 | .n64 => 3 | .s16 => 4 | .n16 => 5 | .s8 => 6 | .n8 => 7 | .f32 => 8
  | .f16 => 9 | .bf16 => 10 | .f64 => 11 | .e4m3 => 12 | .e5m2 => 13 | .e2m1 => 14 | .s4 => 15 | .n4 => 16
  | .cb2 => 17 | .e8m0 => 18 | .f16x2 => 19 | .bf16x2 => 20 | .s8x4 => 21 | .n8x4 => 22 | .s16x2 => 23
  | .n16x2 => 24 | .e4m3x4 => 25 | .e5m2x4 => 26

def Ty.ofCode : Nat → Option Ty
  | 0 => some .s32 | 1 => some .n32 | 2 => some .s64 | 3 => some .n64 | 4 => some .s16 | 5 => some .n16
  | 6 => some .s8 | 7 => some .n8 | 8 => some .f32 | 9 => some .f16 | 10 => some .bf16 | 11 => some .f64
  | 12 => some .e4m3 | 13 => some .e5m2 | 14 => some .e2m1 | 15 => some .s4 | 16 => some .n4 | 17 => some .cb2
  | 18 => some .e8m0 | 19 => some .f16x2 | 20 => some .bf16x2 | 21 => some .s8x4 | 22 => some .n8x4
  | 23 => some .s16x2 | 24 => some .n16x2 | 25 => some .e4m3x4 | 26 => some .e5m2x4 | _ => none

def Rm.code : Rm → Nat
  | .rne => 0 | .rz => 1 | .rdn => 2 | .rup => 3 | .rna => 4 | .sto => 5 | .dyn => 6

def Rm.ofCode : Nat → Option Rm
  | 0 => some .rne | 1 => some .rz | 2 => some .rdn | 3 => some .rup | 4 => some .rna | 5 => some .sto
  | 6 => some .dyn | _ => none

def EWidth.code : EWidth → Nat
  | .w32 => 0 | .w16 => 1 | .w8 => 2 | .w64 => 3

def EWidth.ofCode : Nat → Option EWidth
  | 0 => some .w32 | 1 => some .w16 | 2 => some .w8 | 3 => some .w64 | _ => none

def IntTy.code : IntTy → Nat
  | .s32 => 0 | .n32 => 1 | .s64 => 2 | .n64 => 3 | .s16 => 4 | .n16 => 5 | .s8 => 6 | .n8 => 7

def IntTy.ofCode : Nat → Option IntTy
  | 0 => some .s32 | 1 => some .n32 | 2 => some .s64 | 3 => some .n64 | 4 => some .s16 | 5 => some .n16
  | 6 => some .s8 | 7 => some .n8 | _ => none

def FltTy.code : FltTy → Nat
  | .f32 => 8 | .f16 => 9 | .bf16 => 10 | .f64 => 11

def FltTy.ofCode : Nat → Option FltTy
  | 8 => some .f32 | 9 => some .f16 | 10 => some .bf16 | 11 => some .f64 | _ => none

def PackTy.code : PackTy → Nat
  | .s8x4 => 21 | .n8x4 => 22 | .s16x2 => 23 | .n16x2 => 24

def PackTy.ofCode : Nat → Option PackTy
  | 21 => some .s8x4 | 22 => some .n8x4 | 23 => some .s16x2 | 24 => some .n16x2 | _ => none

def F1Ty.code : F1Ty → Nat
  | .f32 => 8 | .f64 => 11 | .f16x2 => 19 | .bf16x2 => 20

def F1Ty.ofCode : Nat → Option F1Ty
  | 8 => some .f32 | 11 => some .f64 | 19 => some .f16x2 | 20 => some .bf16x2 | _ => none

def F2Ty.code : F2Ty → Nat
  | .f32 => 8 | .f16x2 => 19 | .bf16x2 => 20

def F2Ty.ofCode : Nat → Option F2Ty
  | 8 => some .f32 | 19 => some .f16x2 | 20 => some .bf16x2 | _ => none

/-- f32 or f64 (R51). -/
def dblCode (dbl : Bool) : Nat := if dbl then 11 else 8

def dblOf : Nat → Option Bool
  | 8 => some false | 11 => some true | _ => none

/-- n32 or n64 (R132). -/
def n64Code (dbl : Bool) : Nat := if dbl then 3 else 1

def n64Of : Nat → Option Bool
  | 1 => some false | 3 => some true | _ => none

def IntCond.code : IntCond → Nat
  | .eq => 0 | .ne => 1 | .lt => 2 | .le => 3 | .gt => 4 | .ge => 5 | .lo => 6 | .ls => 7 | .hi => 8 | .hs => 9
  | .bits => 10 | .nbits => 11

def IntCond.ofCode : Nat → Option IntCond
  | 0 => some .eq | 1 => some .ne | 2 => some .lt | 3 => some .le | 4 => some .gt | 5 => some .ge | 6 => some .lo
  | 7 => some .ls | 8 => some .hi | 9 => some .hs | 10 => some .bits | 11 => some .nbits | _ => none

def FltCond.code : FltCond → Nat
  | .eq => 0 | .ne => 1 | .lt => 2 | .le => 3 | .gt => 4 | .ge => 5 | .un => 6 | .ord => 7 | .equ => 8 | .ltu => 9
  | .leu => 10 | .gtu => 11 | .geu => 12

def FltCond.ofCode : Nat → Option FltCond
  | 0 => some .eq | 1 => some .ne | 2 => some .lt | 3 => some .le | 4 => some .gt | 5 => some .ge | 6 => some .un
  | 7 => some .ord | 8 => some .equ | 9 => some .ltu | 10 => some .leu | 11 => some .gtu | 12 => some .geu | _ => none

def Ct.code : Ct → Nat
  | .set => 0 | .nest => 1 | .meet => 2 | .join => 3 | .meetn => 4 | .joinn => 5 | .one => 6

def Ct.ofCode : Nat → Option Ct
  | 0 => some .set | 1 => some .nest | 2 => some .meet | 3 => some .join | 4 => some .meetn | 5 => some .joinn
  | 6 => some .one | _ => none

def CensusMode.code : CensusMode → Nat
  | .all => 0 | .any => 1 | .same => 2 | .mask => 3 | .count => 4 | .first => 5 | .rank => 6

def CensusMode.ofCode : Nat → Option CensusMode
  | 0 => some .all | 1 => some .any | 2 => some .same | 3 => some .mask | 4 => some .count | 5 => some .first
  | 6 => some .rank | _ => none

def IntRed.code : IntRed → Nat
  | .add => 0 | .min => 1 | .max => 2 | .and => 3 | .or => 4 | .xor => 5

def IntRed.ofCode : Nat → Option IntRed
  | 0 => some .add | 1 => some .min | 2 => some .max | 3 => some .and | 4 => some .or | 5 => some .xor | _ => none

def RedTy.code : RedTy → Nat
  | .s32 => 0 | .n32 => 1 | .s64 => 2 | .n64 => 3

def RedTy.ofCode : Nat → Option RedTy
  | 0 => some .s32 | 1 => some .n32 | 2 => some .s64 | 3 => some .n64 | _ => none

/-- The op code, type code and RM of a reduction (R132). -/
def RedOp.op : RedOp → Nat
  | .int op _ => op.code
  | .fadd _ _ => 6
  | .fmax _ => 7

def RedOp.ty : RedOp → Nat
  | .int _ ty => ty.code
  | .fadd d _ => dblCode d
  | .fmax d => dblCode d

def RedOp.rm : RedOp → Nat
  | .fadd _ rm => rm.code
  | _ => 0

def RedOp.ofCode (op ty rm : Nat) : Option RedOp :=
  if op = 6 then (dblOf ty).bind fun d => (Rm.ofCode rm).map fun m => .fadd d m
  else if op = 7 then (dblOf ty).map .fmax
  else (IntRed.ofCode op).bind fun o => (RedTy.ofCode ty).map fun t => .int o t

def LdSize.code : LdSize → Nat
  | .n8 => 0 | .s8 => 1 | .n16 => 2 | .s16 => 3 | .n32 => 4 | .n64 => 5 | .n128 => 6

def LdSize.ofCode : Nat → Option LdSize
  | 0 => some .n8 | 1 => some .s8 | 2 => some .n16 | 3 => some .s16 | 4 => some .n32 | 5 => some .n64
  | 6 => some .n128 | _ => none

def StSize.code : StSize → Nat
  | .n8 => 0 | .n16 => 2 | .n32 => 4 | .n64 => 5 | .n128 => 6

def StSize.ofCode : Nat → Option StSize
  | 0 => some .n8 | 2 => some .n16 | 4 => some .n32 | 5 => some .n64 | 6 => some .n128 | _ => none

def Hint.code : Hint → Nat
  | .none => 0 | .ev => 1 | .nl1 => 2 | .keep => 3

def Hint.ofCode : Nat → Option Hint
  | 0 => some .none | 1 => some .ev | 2 => some .nl1 | 3 => some .keep | _ => none

def Scope.code : Scope → Nat
  | .thread => 0 | .group => 1 | .team => 2 | .cluster => 3 | .device => 4 | .domain => 5

def Scope.ofCode : Nat → Option Scope
  | 0 => some .thread | 1 => some .group | 2 => some .team | 3 => some .cluster | 4 => some .device
  | 5 => some .domain | _ => none

def AtomScope.code : AtomScope → Nat
  | .team => 0 | .cluster => 1 | .device => 2 | .domain => 3

def AtomScope.ofCode : Nat → Option AtomScope
  | 0 => some .team | 1 => some .cluster | 2 => some .device | 3 => some .domain | _ => none

def AtomOp.code : AtomOp → Nat
  | .ld => 0 | .xchg => 1 | .cas => 2 | .add => 3 | .smin => 4 | .smax => 5 | .nmin => 6 | .nmax => 7 | .and => 8
  | .or => 9 | .xor => 10 | .fadd => 11

def AtomOp.ofCode : Nat → Option AtomOp
  | 0 => some .ld | 1 => some .xchg | 2 => some .cas | 3 => some .add | 4 => some .smin | 5 => some .smax
  | 6 => some .nmin | 7 => some .nmax | 8 => some .and | 9 => some .or | 10 => some .xor | 11 => some .fadd
  | _ => none

/-- OP5 of ATOMS (R189). -/
def AtomsOp.code : AtomsOp → Nat
  | .w op => 16 + op.code
  | .xchg64 => 28
  | .cas64 => 29
  | .add64 => 30

def AtomsOp.ofCode (n : Nat) : Option AtomsOp :=
  if n = 28 then some .xchg64 else if n = 29 then some .cas64 else if n = 30 then some .add64
  else if n < 16 then none else (AtomOp.ofCode (n - 16)).map .w

def ClassSet.code (s : ClassSet) : Nat := bit s.ld + 2 * bit s.st + 4 * bit s.atom + 8 * bit s.iss + 16 * bit s.cm

def ClassSet.ofCode (n : Nat) : ClassSet :=
  { ld := decide (n % 2 = 1), st := decide (n / 2 % 2 = 1), atom := decide (n / 4 % 2 = 1),
    iss := decide (n / 8 % 2 = 1), cm := decide (n / 16 % 2 = 1) }

def MaintOp.code : MaintOp → Nat
  | .clean => 1 | .inv => 2 | .cinv => 3

def MaintOp.ofCode : Nat → Option MaintOp
  | 1 => some .clean | 2 => some .inv | 3 => some .cinv | _ => none

def CapField.code : CapField → Nat
  | .base => 0 | .extent => 1 | .stride => 2 | .swz => 3 | .tenant => 4 | .perm => 5 | .device => 6 | .valid => 7

def CapField.ofCode : Nat → Option CapField
  | 0 => some .base | 1 => some .extent | 2 => some .stride | 3 => some .swz | 4 => some .tenant | 5 => some .perm
  | 6 => some .device | 7 => some .valid | _ => none

def LatchTarget.code : LatchTarget → Nat
  | .self => 4
  | .quad q => q

def LatchTarget.ofCode (n : Nat) : LatchTarget := if n = 4 then .self else .quad n

def GresMode.code : GresMode → Nat
  | .lead => 0 | .any => 1 | .all => 2

def GresMode.ofCode : Nat → Option GresMode
  | 0 => some .lead | 1 => some .any | 2 => some .all | _ => none

/-! Decoding. `parse` reads the term that the fields of the major's format give; it does not look at unused fields. -/

def parseMisc (w : Nat) : Option Instr :=
  match fSfn w with
  | 0 => some .nop | 1 => some .exit | 2 => some (.trap (fArg w)) | 3 => some .bkpt | 4 => some .yield
  | 5 => some (.rsys (fD w) (fArg w)) | 6 => some (.wsys (fArg w) (fA w)) | _ => some (.sleep (fArg w))

def parseCtrl (w : Nat) : Option Instr :=
  match fSfn w with
  | 0 => some (.wbase (fArg w)) | 1 => some (.rjarm (fArg w)) | 2 => some (.rjwait (fArg w))
  | 3 => some (.rjdrop (w % 8) (w / 8 % 16)) | 4 => some (.rjrd (fD w) (fArg w)) | _ => none

/-- Q and N of formats B and J (R42). -/
def guardB (w : Nat) : Guard := { q := w / 2097152 % 8, neg := decide (w / 1048576 % 2 = 1) }
/-- Q and N of format MG (R42). -/
def guardM (w : Nat) : Guard := { q := w / 8 % 8, neg := decide (w / 4 % 2 = 1) }

/-- Operand B of a compare (R48). -/
def cmpB (w0 w1 : Nat) : CmpB := if w0 % 2 = 1 then .imm (xX w1) else .reg (fA w0)

def parseCmp (w0 w1 : Nat) : Option Instr :=
  (IntCond.ofCode (w1 / 268435456 % 16)).bind fun cc => (Ct.ofCode (w0 / 2 % 8)).bind fun ct =>
    (IntTy.ofCode (w1 / 8388608 % 32)).map fun ty =>
      .cmp cc ct ty (w0 / 128 % 8) (w0 / 16 % 8) (fD w0) (cmpB w0 w1)

def parseFcmp (w0 w1 : Nat) : Option Instr :=
  (FltCond.ofCode (w1 / 268435456 % 16)).bind fun cc => (Ct.ofCode (w0 / 2 % 8)).bind fun ct =>
    (FltTy.ofCode (w1 / 8388608 % 32)).map fun ty =>
      .fcmp cc ct ty (w0 / 128 % 8) (w0 / 16 % 8) (fD w0) (cmpB w0 w1)

def parseInt0 (w : Nat) : Instr :=
  match fFn w with
  | 0 => .add (fD w) (fA w) (fB w) | 1 => .sub (fD w) (fA w) (fB w) | 2 => .and (fD w) (fA w) (fB w)
  | 3 => .or (fD w) (fA w) (fB w) | 4 => .xor (fD w) (fA w) (fB w) | 5 => .andn (fD w) (fA w) (fB w)
  | 6 => .orn (fD w) (fA w) (fB w) | _ => .xnor (fD w) (fA w) (fB w)

def parseInt1 (w : Nat) : Instr :=
  match fFn w with
  | 0 => .shl (fD w) (fA w) (fB w) | 1 => .shr (fD w) (fA w) (fB w) | 2 => .sra (fD w) (fA w) (fB w)
  | 3 => .rol (fD w) (fA w) (fB w) | 4 => .ror (fD w) (fA w) (fB w) | 5 => .min (fD w) (fA w) (fB w)
  | 6 => .max (fD w) (fA w) (fB w) | _ => .minn (fD w) (fA w) (fB w)

def parseInt2 (w : Nat) : Instr :=
  match fFn w with
  | 0 => .mul (fD w) (fA w) (fB w) | 1 => .mulh (fD w) (fA w) (fB w) | 2 => .mulhn (fD w) (fA w) (fB w)
  | 3 => .div (fD w) (fA w) (fB w) | 4 => .divn (fD w) (fA w) (fB w) | 5 => .rem (fD w) (fA w) (fB w)
  | 6 => .remn (fD w) (fA w) (fB w) | _ => .maxn (fD w) (fA w) (fB w)

def parseInt3 (w : Nat) : Option Instr :=
  (EWidth.ofCode (fB w)).map fun e =>
    match fFn w with
    | 0 => .clz e (fD w) (fA w) | 1 => .ctz e (fD w) (fA w) | 2 => .ffs e (fD w) (fA w)
    | 3 => .popc e (fD w) (fA w) | 4 => .brev e (fD w) (fA w) | 5 => .abs e (fD w) (fA w)
    | 6 => .sext e (fD w) (fA w) | _ => .zext e (fD w) (fA w)

def parseInt0d (w : Nat) : Instr :=
  match fFn w with
  | 0 => .add64 (fD w) (fA w) (fB w) | 1 => .sub64 (fD w) (fA w) (fB w) | 2 => .and64 (fD w) (fA w) (fB w)
  | 3 => .or64 (fD w) (fA w) (fB w) | 4 => .xor64 (fD w) (fA w) (fB w) | 5 => .andn64 (fD w) (fA w) (fB w)
  | 6 => .orn64 (fD w) (fA w) (fB w) | _ => .xnor64 (fD w) (fA w) (fB w)

def parseInt1d (w : Nat) : Instr :=
  match fFn w with
  | 0 => .shl64 (fD w) (fA w) (fB w) | 1 => .shr64 (fD w) (fA w) (fB w) | 2 => .sra64 (fD w) (fA w) (fB w)
  | 3 => .rol64 (fD w) (fA w) (fB w) | 4 => .ror64 (fD w) (fA w) (fB w) | 5 => .min64 (fD w) (fA w) (fB w)
  | 6 => .max64 (fD w) (fA w) (fB w) | _ => .minn64 (fD w) (fA w) (fB w)

def parseInt2d (w : Nat) : Instr :=
  match fFn w with
  | 0 => .mul64 (fD w) (fA w) (fB w) | 1 => .mulh64 (fD w) (fA w) (fB w) | 2 => .mulhn64 (fD w) (fA w) (fB w)
  | 3 => .div64 (fD w) (fA w) (fB w) | 4 => .divn64 (fD w) (fA w) (fB w) | 5 => .rem64 (fD w) (fA w) (fB w)
  | 6 => .remn64 (fD w) (fA w) (fB w) | _ => .maxn64 (fD w) (fA w) (fB w)

/-- RM[3] (R52). -/
def satOf (w1 : Nat) : Bool := decide (8 ≤ xRm w1)
def rmOf (w1 : Nat) : Option Rm := Rm.ofCode (xRm w1 % 8)

def parsePack (w0 w1 : Nat) : Option Instr :=
  (PackTy.ofCode (xTy w1)).map fun ty =>
    match fFn w0 with
    | 0 => .packAdd ty (satOf w1) (fD w0) (fA w0) (fB w0) | 1 => .packSub ty (satOf w1) (fD w0) (fA w0) (fB w0)
    | 2 => .packMin ty (satOf w1) (fD w0) (fA w0) (fB w0) | 3 => .packMax ty (satOf w1) (fD w0) (fA w0) (fB w0)
    | 4 => .avg ty (satOf w1) (fD w0) (fA w0) (fB w0) | 5 => .absd ty (satOf w1) (fD w0) (fA w0) (fB w0)
    | 6 => .packMul ty (satOf w1) (fD w0) (fA w0) (fB w0) | _ => .packShl ty (satOf w1) (fD w0) (fA w0) (fB w0)

def parseMad (w0 w1 : Nat) : Option Instr :=
  match fFn w0 with
  | 0 => some (.mad (fD w0) (fA w0) (fB w0) (xC w1))
  | 1 => some (.madh (fD w0) (fA w0) (fB w0) (xC w1))
  | 2 => some (.madhn (fD w0) (fA w0) (fB w0) (xC w1))
  | 3 => some (.mad64 (decide (xTy w1 = 0)) (fD w0) (fA w0) (fB w0) (xC w1))
  | 4 => some (.dp4 (decide (xTy w1 = 21)) (decide (xX w1 = 1)) (satOf w1) (fD w0) (fA w0) (fB w0) (xC w1))
  | 5 => some (.dp2 (decide (xTy w1 = 23)) (decide (xX w1 = 1)) (satOf w1) (fD w0) (fA w0) (fB w0) (xC w1))
  | 6 => (PackTy.ofCode (xTy w1)).map fun ty => .sad ty (satOf w1) (fD w0) (fA w0) (fB w0) (xC w1)
  | _ => none

def parseBitf (w0 w1 : Nat) : Option Instr :=
  match fFn w0 with
  | 0 => some (.bfx (fD w0) (fA w0) (xX w1 % 32) (xX w1 / 32))
  | 1 => some (.bfxn (fD w0) (fA w0) (xX w1 % 32) (xX w1 / 32))
  | 2 => some (.bfi (fD w0) (fA w0) (fB w0) (xX w1 % 32) (xX w1 / 32))
  | 3 => some (.bgath (fD w0) (fA w0) (fB w0) (xX w1))
  | 4 => some (.span (decide (xX w1 % 2 = 1)) (fD w0) (fA w0) (fB w0)
      (if xX w1 / 2 % 2 = 1 then .imm (xX w1 / 4) else .reg (xC w1)))
  | 5 => some (.lut3 (fD w0) (fA w0) (fB w0) (xC w1) (xX w1))
  | _ => none

/-- Format I, majors 0x14 to 0x1B (R101). -/
def parseImm (maj len w0 w1 : Nat) : Option Instr :=
  if len = 0 then
    match maj with
    | 20 => some (.addi (fD w0) (fA w0) (sxt 1024 (w0 % 1024)))
    | 21 => some (.andi (fD w0) (fA w0) (sxt 1024 (w0 % 1024)))
    | 22 => some (.ori (fD w0) (fA w0) (sxt 1024 (w0 % 1024)))
    | 23 => some (.xori (fD w0) (fA w0) (sxt 1024 (w0 % 1024)))
    | 24 => some (.shli (fD w0) (fA w0) (w0 % 1024))
    | 25 => some (.shri (fD w0) (fA w0) (w0 % 1024))
    | 26 => some (.srai (fD w0) (fA w0) (w0 % 1024))
    | _ => some (.muli (fD w0) (fA w0) (sxt 1024 (w0 % 1024)))
  else
    match maj with
    | 20 => some (.addiImm32 (fD w0) (fA w0) w1)
    | 21 => some (.andiImm32 (fD w0) (fA w0) w1)
    | 22 => some (.oriImm32 (fD w0) (fA w0) w1)
    | 23 => some (.xoriImm32 (fD w0) (fA w0) w1)
    | 27 => some (.muliImm32 (fD w0) (fA w0) w1)
    | _ => none

def parseLi (len w0 w1 w2 : Nat) : Instr :=
  if len = 0 then .li (fD w0) (sxt 1024 (w0 % 1024))
  else if len = 1 then .liImm32 (fD w0) w1
  else .li64 (fD w0) (w1 + 4294967296 * w2)

def parseFp0 (w : Nat) : Instr :=
  match fFn w with
  | 0 => .fadd (fD w) (fA w) (fB w) | 1 => .fsub (fD w) (fA w) (fB w) | 2 => .fmul (fD w) (fA w) (fB w)
  | 3 => .fmin (fD w) (fA w) (fB w) | 4 => .fmax (fD w) (fA w) (fB w) | 5 => .fcpys (fD w) (fA w) (fB w)
  | 6 => .fabs (fD w) (fA w) | _ => .fneg (fD w) (fA w)

def parseFp1 (w0 w1 : Nat) : Option Instr :=
  (rmOf w1).bind fun rm =>
    if fFn w0 = 7 then some (.fdot2 (decide (xTy w1 = 20)) rm (satOf w1) (fD w0) (fA w0) (fB w0) (xC w1))
    else (F1Ty.ofCode (xTy w1)).map fun ty =>
      match fFn w0 with
      | 0 => .faddFp1 ty rm (satOf w1) (fD w0) (fA w0) (fB w0)
      | 1 => .fsubFp1 ty rm (satOf w1) (fD w0) (fA w0) (fB w0)
      | 2 => .fmulFp1 ty rm (satOf w1) (fD w0) (fA w0) (fB w0)
      | 3 => .ffma ty rm (satOf w1) (fD w0) (fA w0) (fB w0) (xC w1)
      | 4 => .ffms ty rm (satOf w1) (fD w0) (fA w0) (fB w0) (xC w1)
      | 5 => .fnma ty rm (satOf w1) (fD w0) (fA w0) (fB w0) (xC w1)
      | _ => .fnms ty rm (satOf w1) (fD w0) (fA w0) (fB w0) (xC w1)

def parseFp2 (w0 w1 : Nat) : Option Instr :=
  match fFn w0 with
  | 0 => (dblOf (xTy w1)).bind fun d => (rmOf w1).map fun rm => .fdiv d rm (satOf w1) (fD w0) (fA w0) (fB w0)
  | 1 => (dblOf (xTy w1)).bind fun d => (rmOf w1).map fun rm => .fsqrt d rm (fD w0) (fA w0)
  | 2 => (dblOf (xTy w1)).map fun d => .frcp d (fD w0) (fA w0)
  | 3 => (dblOf (xTy w1)).map fun d => .frsq d (fD w0) (fA w0)
  | 4 => (F2Ty.ofCode (xTy w1)).map fun t => .fexp2 t (fD w0) (fA w0)
  | 5 => (F2Ty.ofCode (xTy w1)).map fun t => .flog2 t (fD w0) (fA w0)
  | 6 => (F2Ty.ofCode (xTy w1)).map fun t => .fsin t (fD w0) (fA w0)
  | _ => (F2Ty.ofCode (xTy w1)).map fun t => .fcos t (fD w0) (fA w0)

def parseFp3 (w0 w1 : Nat) : Option Instr :=
  match fFn w0 with
  | 0 => (F2Ty.ofCode (xTy w1)).map fun t => .ftanh t (fD w0) (fA w0)
  | 1 => (F2Ty.ofCode (xTy w1)).map fun t => .fsigm t (fD w0) (fA w0)
  | 2 => (F1Ty.ofCode (xTy w1)).bind fun t => (rmOf w1).map fun rm => .frnd t rm (fD w0) (fA w0)
  | 3 => (dblOf (xTy w1)).map fun d => .fclass d (fD w0) (fA w0)
  | 4 => (dblOf (xTy w1)).bind fun d => (rmOf w1).map fun rm => .fscale d rm (satOf w1) (fD w0) (fA w0) (fB w0)
  | 5 => (dblOf (xTy w1)).map fun d => .fgetx d (fD w0) (fA w0)
  | _ => none

def parseCvt (w0 w1 : Nat) : Option Instr :=
  (rmOf w1).bind fun rm => (Ty.ofCode (xTy w1)).bind fun src => (Ty.ofCode (xX w1 % 32)).bind fun dt =>
    match fFn w0 with
    | 0 => some (.cvt dt src rm (satOf w1) (fD w0) (fA w0))
    | 1 => some (.cvtp dt rm (satOf w1) (fD w0) (fA w0) (fB w0) (xC w1) (xX w1 / 32))
    | 2 => some (.cvte dt src rm (satOf w1) (fD w0) (fA w0) (xX w1 / 32))
    | _ => none

def laneSelOf (w0 w1 : Nat) : LaneSel := if xX w1 / 512 % 2 = 1 then .imm (xX w1 / 1024) else .reg (fB w0)
def shiftSelOf (w0 w1 : Nat) : ShiftSel :=
  if xX w1 / 512 % 2 = 1 then .imm (sxt 64 (xX w1 / 1024)) else .reg (fB w0)

def parseXlane (w0 w1 : Nat) : Option Instr :=
  match fFn w0 with
  | 0 => (n64Of (xTy w1)).map fun d => .lgetIdx d (fD w0) (fA w0) (laneSelOf w0 w1) (xX w1 % 8)
  | 1 => (n64Of (xTy w1)).map fun d => .lgetRot d (fD w0) (fA w0) (laneSelOf w0 w1) (xX w1 % 8)
  | 2 => (n64Of (xTy w1)).map fun d => .lgetShift d (fD w0) (fA w0) (shiftSelOf w0 w1) (xX w1 % 8)
  | 3 => (n64Of (xTy w1)).map fun d => .lgetXor d (fD w0) (fA w0) (laneSelOf w0 w1) (xX w1 % 8)
  | 4 => (CensusMode.ofCode (xX w1 / 8 % 8)).map fun m => .census m (fD w0) (fA w0) (xX w1 % 8)
  | 5 => (RedOp.ofCode (xX w1 / 64 % 8) (xTy w1) (xRm w1)).map fun op => .red op (fD w0) (fA w0) (xX w1 % 8)
  | 6 => (RedOp.ofCode (xX w1 / 64 % 8) (xTy w1) (xRm w1)).map fun op =>
      .scan op (decide (xX w1 / 512 % 2 = 1)) (fD w0) (fA w0) (xX w1 % 8)
  | _ => (n64Of (xTy w1)).map fun d => .peers d (fD w0) (fA w0) (xX w1 % 8)

def parseRcp (w : Nat) : Option Instr :=
  match fSfn w with
  | 0 => some (.slice (fD w) (fArg w + 1)) | 1 => some (.matz (fD w)) | 2 => some (.rcpst (fD w) (fA w))
  | 3 => some (.rcppol (fArg w)) | _ => none

/-- K of format MG and M of format SP (R42). -/
def fK (w : Nat) : Nat := w / 64 % 16
def fM (w : Nat) : Nat := w / 16 % 64
def disp18 (w1 : Nat) : Int := sxt 262144 (w1 % 262144)
def disp20 (w1 : Nat) : Int := sxt 1048576 (w1 % 1048576)

def parseLd (w0 w1 : Nat) : Option Instr :=
  (LdSize.ofCode (mOp w1)).bind fun sz => (Hint.ofCode (mCo w1)).map fun h =>
    .ld sz h (fD w0) (fK w0) (fA w0) (disp18 w1)

def parseSt (w0 w1 : Nat) : Option Instr :=
  (StSize.ofCode (mOp w1)).bind fun sz => (Hint.ofCode (mCo w1)).map fun h =>
    .st (guardM w0) sz h (fK w0) (fA w0) (disp18 w1) (fD w0)

def parseAtom (w0 w1 : Nat) : Option Instr :=
  (AtomOp.ofCode (mOp w1 % 16)).bind fun op => (AtomScope.ofCode (mCo w1)).map fun sc =>
    .atom (guardM w0) op (decide (16 ≤ mOp w1)) sc (fK w0) (fA w0) (disp18 w1) (fD w0) (mC w1)

def parseLdf (w0 w1 : Nat) : Option Instr :=
  (Hint.ofCode (mCo w1)).map fun h => .ldf h (fD w0) (fK w0) (fA w0) (disp18 w1)

def parseStf (w0 w1 : Nat) : Option Instr :=
  (Hint.ofCode (mCo w1)).map fun h => .stf h (fK w0) (fA w0) (disp18 w1) (fD w0)

def parseSpad (w0 w1 : Nat) : Option Instr :=
  if mOp w1 < 8 then (LdSize.ofCode (mOp w1)).map fun sz => .lds sz (fD w0) (fM w0) (fA w0) (disp20 w1) (mC w1)
  else if mOp w1 < 16 then
    (StSize.ofCode (mOp w1 - 8)).map fun sz => .sts sz (fM w0) (fA w0) (disp20 w1) (fD w0) (mC w1)
  else (AtomsOp.ofCode (mOp w1)).map fun op => .atoms op (fM w0) (fA w0) (disp20 w1) (fD w0) (mC w1)

def parseMemctl (w0 w1 : Nat) : Option Instr :=
  match fFn w0 with
  | 0 => (Scope.ofCode (xX w1 / 4 % 8)).bind fun sc =>
      match xX w1 % 4 with
      | 1 => some (.phaseRel sc) | 2 => some (.phaseAcq sc) | 3 => some (.phaseAr sc) | _ => none
  | 1 => some (.fence (ClassSet.ofCode (xX w1 % 32)) (ClassSet.ofCode (xX w1 / 32 % 32)))
  | 2 => (MaintOp.ofCode (xX w1 / 16 % 4)).map fun op => .cmaint op (xX w1 / 64) (xX w1 % 16) (fA w0) (fB w0)
  | 3 => some (.pref (xX w1 / 16) (xX w1 % 16) (fA w0))
  | 4 => some (.lease (fA w0))
  | _ => none

def parseCap (w0 w1 : Nat) : Option Instr :=
  match fFn w0 with
  | 0 => some (.capld (xX w1 % 16) (xX w1 / 16))
  | 1 => some (.capnar (xX w1 % 16) (xX w1 / 16 % 16) (fA w0) (fB w0) (xX w1 / 256))
  | 2 => (CapField.ofCode (xX w1 / 256)).map fun f => .capq f (fD w0) (xX w1 / 16 % 16)
  | 3 => some (.capswz (xX w1 % 16) (xX w1 / 16 % 16) (xX w1 / 256))
  | 4 => some (.capdrop (xX w1))
  | _ => none

def parseMtx (w0 w1 : Nat) : Option Instr :=
  match fFn w0 with
  | 0 => (Ty.ofCode (xTy w1)).map fun ty => .wld ty (LatchTarget.ofCode (xX w1)) (fA w0)
  | 1 => some (.wlds (LatchTarget.ofCode (xX w1)) (fA w0))
  | 2 => some (.tmm (fA w0))
  | 3 => some (.tzero (xX w1))
  | 4 => (F2Ty.ofCode (xTy w1)).bind fun ty => (rmOf w1).map fun rm => .trd ty rm (satOf w1) (fD w0) (xX w1)
  | 5 => (F2Ty.ofCode (xTy w1)).map fun ty => .twr ty (xX w1) (fA w0)
  | 6 => some (.tepi (fA w0))
  | _ => some (.tfuse (xX w1))

def parseMtx2 (w0 w1 : Nat) : Option Instr :=
  match fFn w0 with
  | 0 => some (.cbld (fA w0) (xX w1))
  | 1 => some (.tstat (decide (xX w1 / 64 % 2 = 1)) (fD w0) (xX w1 % 64))
  | _ => none

def parseCopy (w0 w1 : Nat) : Option Instr :=
  match fFn w0 with
  | 0 => some (.cpy (fD w0) (fA w0))
  | 1 => some (.cpyr (fD w0) (fA w0))
  | 2 => match xX w1 / 64 % 4 with
      | 0 => some (.tsetEmpty (xX w1 % 64))
      | 1 => some (.tsetFill (xX w1 % 64) (xX w1 / 512) (decide (xX w1 / 256 % 2 = 1)))
      | 2 => some (.tsetReady (xX w1 % 64))
      | _ => none
  | 3 => some (.twait (xX w1))
  | 4 => match xX w1 / 64 % 4 with
      | 0 => some (.tqry .tile (fD w0) (xX w1 % 64))
      | 1 => some (.tqry (.cnt (decide (xX w1 / 256 % 2 = 1))) (fD w0) (xX w1 % 64))
      | 2 => some (.tqry .slot (fD w0) (xX w1 % 64))
      | _ => none
  | 5 => some (.gslot (xX w1))
  | 6 => (GresMode.ofCode (xX w1 / 256)).map fun m =>
      .gres m (xX w1 % 16) (xX w1 / 16 % 8) (decide (xX w1 / 128 % 2 = 1))
  | _ => none

def parseSync (w0 w1 : Nat) : Option Instr :=
  match fFn w0 with
  | 0 => match xX w1 / 128 with
      | 0 => some (.barArrive (xX w1 % 128) (fA w0))
      | 1 => some (.barWait (xX w1 % 128))
      | 2 => some (.barSync (xX w1 % 128) (fA w0))
      | _ => none
  | 1 => some (.tbar (xX w1 % 8) (decide (xX w1 / 8 % 2 = 1)))
  | 2 => some (.cred (fD w0) (fA w0))
  | 3 => some (.seqw (xX w1 % 16) (if xX w1 / 16 % 2 = 1 then .imm (xX w1 / 32) else .reg (fA w0)))
  | 4 => some (.seqrd (fD w0) (xX w1))
  | _ => none

def parseSched (w0 w1 : Nat) : Option Instr :=
  match fFn w0 with
  | 0 => some (.spawn (fD w0) (xX w1 % 16) (xX w1 / 16) (fA w0))
  | 1 => some (.qstat (fD w0) (xX w1))
  | 2 => some (.prio (xX w1))
  | _ => none

/-- The term that the words' fields give, by major (R53); none where a selected code is reserved. -/
def parse (len maj w0 w1 w2 : Nat) : Option Instr :=
  if maj < 10 then
    match maj with
    | 0 => parseMisc w0
    | 1 => some (.wait (w0 / 262144 % 64) (w0 / 4096 % 64) (w0 / 256 % 16) (w0 / 16 % 16))
    | 2 => parseCtrl w0
    | 3 => some (.br (guardB w0) (sxt 1048576 (fLow20 w0)))
    | 4 => some (.jal (fD4 w0) (sxt 1048576 (fLow20 w0)))
    | 5 => some (.jr (guardB w0) (w0 / 8192 % 128) (w0 / 64 % 128))
    | 6 => parseCmp w0 w1
    | 7 => parseFcmp w0 w1
    | 8 => some (.plog (w0 / 2097152 % 8) (w0 / 262144 % 8) (w0 / 32768 % 8) (w0 / 2048 % 16))
    | _ => some (.sel (fFn w0) (fD w0) (fA w0) (fB w0))
  else if maj < 20 then
    match maj - 10 with
    | 0 => some (parseInt0 w0) | 1 => some (parseInt1 w0) | 2 => some (parseInt2 w0) | 3 => parseInt3 w0
    | 4 => some (parseInt0d w0) | 5 => some (parseInt1d w0) | 6 => some (parseInt2d w0) | 7 => parsePack w0 w1
    | 8 => parseMad w0 w1 | _ => parseBitf w0 w1
  else if maj < 28 then parseImm maj len w0 w1
  else if maj < 32 then
    match maj - 28 with
    | 0 => some (parseLi len w0 w1 w2)
    | 1 => some (.liu (fD4 w0) (fLow20 w0))
    | 2 => some (.addl (fD4 w0) (fA4 w0) (sxt 4096 (w0 % 4096)))
    | _ => none
  else if maj < 39 then
    match maj - 32 with
    | 0 => some (parseFp0 w0) | 1 => parseFp1 w0 w1 | 2 => parseFp2 w0 w1 | 3 => parseFp3 w0 w1
    | 4 => parseCvt w0 w1 | 5 => parseXlane w0 w1 | _ => parseRcp w0
  else if maj < 48 then
    match maj - 39 with
    | 0 => parseLd w0 w1 | 1 => parseSt w0 w1 | 2 => parseAtom w0 w1 | 3 => parseLdf w0 w1 | 4 => parseStf w0 w1
    | 5 => parseSpad w0 w1 | 6 => parseMemctl w0 w1 | 7 => parseCap w0 w1 | _ => none
  else
    match maj - 48 with
    | 0 => parseMtx w0 w1 | 1 => parseMtx2 w0 w1 | 2 => parseCopy w0 w1 | 3 => parseSync w0 w1
    | 4 => parseSched w0 w1 | _ => none

/-- MAJ is reserved (R53). -/
def majReserved (maj : Nat) : Bool := decide (maj = 31) || decide (maj = 47) || decide (53 ≤ maj)

/-- LEN is one that the major allows (R53). -/
def lenAllowed (maj len : Nat) : Bool :=
  if maj = 6 ∨ maj = 7 ∨ (17 ≤ maj ∧ maj ≤ 19) ∨ (33 ≤ maj ∧ maj ≤ 37) ∨ 39 ≤ maj then decide (len = 1)
  else if (20 ≤ maj ∧ maj ≤ 23) ∨ maj = 27 then decide (len ≤ 1)
  else if maj = 28 then decide (len ≤ 2)
  else decide (len = 0)

/-! The encoder, from the same encoding tables. -/

/-- Word 0's LEN and MAJ (R38). -/
def hdr (len maj : Nat) : Nat := len * 1073741824 + maj * 16777216
/-- Format A (R42). -/
def encA (maj d a b fn : Nat) : List Nat := [hdr 0 maj + d * 131072 + a * 1024 + b * 8 + fn]
/-- Format S (R42). -/
def encS (maj d a fn arg : Nat) : List Nat := [hdr 0 maj + d * 131072 + a * 1024 + fn * 128 + arg]
/-- Format AX (R42). -/
def encAX (maj d a b fn c ty rm x : Nat) : List Nat :=
  [hdr 1 maj + d * 131072 + a * 1024 + b * 8 + fn, c * 33554432 + ty * 1048576 + rm * 65536 + x]
/-- Format I with LEN 0 and 1 (R42). -/
def encI (maj d a i : Nat) : List Nat := [hdr 0 maj + d * 131072 + a * 1024 + i]
def encI1 (maj d a v : Nat) : List Nat := [hdr 1 maj + d * 131072 + a * 1024, v]
/-- Format MG (R42). -/
def encMG (maj s a k q n op c co disp : Nat) : List Nat :=
  [hdr 1 maj + s * 131072 + a * 1024 + k * 64 + q * 8 + n * 4, op * 134217728 + c * 1048576 + co * 262144 + disp]
/-- Format SP (R42). -/
def encSP (s a m op c disp : Nat) : List Nat :=
  [hdr 1 44 + s * 131072 + a * 1024 + m * 16, op * 134217728 + c * 1048576 + disp]
/-- Format C (R42). -/
def encC (maj a q1 q2 ct cc ty : Nat) : CmpB → List Nat
  | .reg b => [hdr 1 maj + a * 131072 + b * 1024 + q1 * 128 + q2 * 16 + ct * 2, cc * 268435456 + ty * 8388608]
  | .imm v => [hdr 1 maj + a * 131072 + q1 * 128 + q2 * 16 + ct * 2 + 1, cc * 268435456 + ty * 8388608 + v]

def rmc (rm : Rm) (sat : Bool) : Nat := rm.code + 8 * bit sat

/-- LGET (R132). -/
def encLget (fn : Nat) (dbl : Bool) (d a : Nat) (s : LaneSel) (j : Nat) : List Nat :=
  match s with
  | .reg b => encAX 37 d a b fn 0 (n64Code dbl) 0 j
  | .imm n => encAX 37 d a 0 fn 0 (n64Code dbl) 0 (n * 1024 + 512 + j)

/-- The words of a well-formed instruction; an event has none. -/
def encode : Instr → List Nat
  | .nop => encS 0 0 0 0 0
  | .exit => encS 0 0 0 1 0
  | .trap c => encS 0 0 0 2 c
  | .bkpt => encS 0 0 0 3 0
  | .yield => encS 0 0 0 4 0
  | .rsys d n => encS 0 d 0 5 n
  | .wsys n a => encS 0 0 a 6 n
  | .sleep n => encS 0 0 0 7 n
  | .wait nl ns nc nt => [hdr 0 1 + nl * 262144 + ns * 4096 + nc * 256 + nt * 16]
  | .wbase b => encS 2 0 0 0 b
  | .rjarm n => encS 2 0 0 1 n
  | .rjwait n => encS 2 0 0 2 n
  | .rjdrop l h => encS 2 0 0 3 (l + h * 8)
  | .rjrd d n => encS 2 d 0 4 n
  | .br g off => [hdr 0 3 + g.q * 2097152 + bit g.neg * 1048576 + unsxt 1048576 off]
  | .jal d off => [hdr 0 4 + d * 1048576 + unsxt 1048576 off]
  | .jr g a l => [hdr 0 5 + g.q * 2097152 + bit g.neg * 1048576 + a * 8192 + l * 64]
  | .cmp cc ct ty q1 q2 a b => encC 6 a q1 q2 ct.code cc.code ty.code b
  | .fcmp cc ct ty q1 q2 a b => encC 7 a q1 q2 ct.code cc.code ty.code b
  | .plog qd qa qb tt => [hdr 0 8 + qd * 2097152 + qa * 262144 + qb * 32768 + tt * 2048]
  | .sel p d a b => encA 9 d a b p
  | .add d a b => encA 10 d a b 0
  | .sub d a b => encA 10 d a b 1
  | .and d a b => encA 10 d a b 2
  | .or d a b => encA 10 d a b 3
  | .xor d a b => encA 10 d a b 4
  | .andn d a b => encA 10 d a b 5
  | .orn d a b => encA 10 d a b 6
  | .xnor d a b => encA 10 d a b 7
  | .shl d a b => encA 11 d a b 0
  | .shr d a b => encA 11 d a b 1
  | .sra d a b => encA 11 d a b 2
  | .rol d a b => encA 11 d a b 3
  | .ror d a b => encA 11 d a b 4
  | .min d a b => encA 11 d a b 5
  | .max d a b => encA 11 d a b 6
  | .minn d a b => encA 11 d a b 7
  | .mul d a b => encA 12 d a b 0
  | .mulh d a b => encA 12 d a b 1
  | .mulhn d a b => encA 12 d a b 2
  | .div d a b => encA 12 d a b 3
  | .divn d a b => encA 12 d a b 4
  | .rem d a b => encA 12 d a b 5
  | .remn d a b => encA 12 d a b 6
  | .maxn d a b => encA 12 d a b 7
  | .clz e d a => encA 13 d a e.code 0
  | .ctz e d a => encA 13 d a e.code 1
  | .ffs e d a => encA 13 d a e.code 2
  | .popc e d a => encA 13 d a e.code 3
  | .brev e d a => encA 13 d a e.code 4
  | .abs e d a => encA 13 d a e.code 5
  | .sext e d a => encA 13 d a e.code 6
  | .zext e d a => encA 13 d a e.code 7
  | .add64 d a b => encA 14 d a b 0
  | .sub64 d a b => encA 14 d a b 1
  | .and64 d a b => encA 14 d a b 2
  | .or64 d a b => encA 14 d a b 3
  | .xor64 d a b => encA 14 d a b 4
  | .andn64 d a b => encA 14 d a b 5
  | .orn64 d a b => encA 14 d a b 6
  | .xnor64 d a b => encA 14 d a b 7
  | .shl64 d a b => encA 15 d a b 0
  | .shr64 d a b => encA 15 d a b 1
  | .sra64 d a b => encA 15 d a b 2
  | .rol64 d a b => encA 15 d a b 3
  | .ror64 d a b => encA 15 d a b 4
  | .min64 d a b => encA 15 d a b 5
  | .max64 d a b => encA 15 d a b 6
  | .minn64 d a b => encA 15 d a b 7
  | .mul64 d a b => encA 16 d a b 0
  | .mulh64 d a b => encA 16 d a b 1
  | .mulhn64 d a b => encA 16 d a b 2
  | .div64 d a b => encA 16 d a b 3
  | .divn64 d a b => encA 16 d a b 4
  | .rem64 d a b => encA 16 d a b 5
  | .remn64 d a b => encA 16 d a b 6
  | .maxn64 d a b => encA 16 d a b 7
  | .packAdd ty sat d a b => encAX 17 d a b 0 0 ty.code (8 * bit sat) 0
  | .packSub ty sat d a b => encAX 17 d a b 1 0 ty.code (8 * bit sat) 0
  | .packMin ty sat d a b => encAX 17 d a b 2 0 ty.code (8 * bit sat) 0
  | .packMax ty sat d a b => encAX 17 d a b 3 0 ty.code (8 * bit sat) 0
  | .avg ty sat d a b => encAX 17 d a b 4 0 ty.code (8 * bit sat) 0
  | .absd ty sat d a b => encAX 17 d a b 5 0 ty.code (8 * bit sat) 0
  | .packMul ty sat d a b => encAX 17 d a b 6 0 ty.code (8 * bit sat) 0
  | .packShl ty sat d a b => encAX 17 d a b 7 0 ty.code (8 * bit sat) 0
  | .mad d a b c => encAX 18 d a b 0 c 0 0 0
  | .madh d a b c => encAX 18 d a b 1 c 0 0 0
  | .madhn d a b c => encAX 18 d a b 2 c 0 0 0
  | .mad64 s d a b c => encAX 18 d a b 3 c (if s then 0 else 1) 0 0
  | .dp4 s bs sat d a b c => encAX 18 d a b 4 c (if s then 21 else 22) (8 * bit sat) (bit bs)
  | .dp2 s bs sat d a b c => encAX 18 d a b 5 c (if s then 23 else 24) (8 * bit sat) (bit bs)
  | .sad ty sat d a b c => encAX 18 d a b 6 c ty.code (8 * bit sat) 0
  | .bfx d a pos len => encAX 19 d a 0 0 0 0 0 (pos + len * 32)
  | .bfxn d a pos len => encAX 19 d a 0 1 0 0 0 (pos + len * 32)
  | .bfi d a b pos len => encAX 19 d a b 2 0 0 0 (pos + len * 32)
  | .bgath d a b sl => encAX 19 d a b 3 0 0 0 sl
  | .span rot d a b (.reg c) => encAX 19 d a b 4 c 0 0 (bit rot)
  | .span rot d a b (.imm n) => encAX 19 d a b 4 0 0 0 (bit rot + 2 + n * 4)
  | .lut3 d a b c tt => encAX 19 d a b 5 c 0 0 tt
  | .addi d a i => encI 20 d a (unsxt 1024 i)
  | .addiImm32 d a v => encI1 20 d a v
  | .andi d a i => encI 21 d a (unsxt 1024 i)
  | .andiImm32 d a v => encI1 21 d a v
  | .ori d a i => encI 22 d a (unsxt 1024 i)
  | .oriImm32 d a v => encI1 22 d a v
  | .xori d a i => encI 23 d a (unsxt 1024 i)
  | .xoriImm32 d a v => encI1 23 d a v
  | .shli d a n => encI 24 d a n
  | .shri d a n => encI 25 d a n
  | .srai d a n => encI 26 d a n
  | .muli d a i => encI 27 d a (unsxt 1024 i)
  | .muliImm32 d a v => encI1 27 d a v
  | .li d i => encI 28 d 0 (unsxt 1024 i)
  | .liImm32 d v => encI1 28 d 0 v
  | .li64 d v => [hdr 2 28 + d * 131072, v % 4294967296, v / 4294967296]
  | .liu d v => [hdr 0 29 + d * 1048576 + v]
  | .addl d a i => [hdr 0 30 + d * 1048576 + a * 65536 + unsxt 4096 i]
  | .fadd d a b => encA 32 d a b 0
  | .fsub d a b => encA 32 d a b 1
  | .fmul d a b => encA 32 d a b 2
  | .fmin d a b => encA 32 d a b 3
  | .fmax d a b => encA 32 d a b 4
  | .fcpys d a b => encA 32 d a b 5
  | .fabs d a => encA 32 d a 0 6
  | .fneg d a => encA 32 d a 0 7
  | .faddFp1 ty rm sat d a b => encAX 33 d a b 0 0 ty.code (rmc rm sat) 0
  | .fsubFp1 ty rm sat d a b => encAX 33 d a b 1 0 ty.code (rmc rm sat) 0
  | .fmulFp1 ty rm sat d a b => encAX 33 d a b 2 0 ty.code (rmc rm sat) 0
  | .ffma ty rm sat d a b c => encAX 33 d a b 3 c ty.code (rmc rm sat) 0
  | .ffms ty rm sat d a b c => encAX 33 d a b 4 c ty.code (rmc rm sat) 0
  | .fnma ty rm sat d a b c => encAX 33 d a b 5 c ty.code (rmc rm sat) 0
  | .fnms ty rm sat d a b c => encAX 33 d a b 6 c ty.code (rmc rm sat) 0
  | .fdot2 bf rm sat d a b c => encAX 33 d a b 7 c (if bf then 20 else 19) (rmc rm sat) 0
  | .fdiv dbl rm sat d a b => encAX 34 d a b 0 0 (dblCode dbl) (rmc rm sat) 0
  | .fsqrt dbl rm d a => encAX 34 d a 0 1 0 (dblCode dbl) rm.code 0
  | .frcp dbl d a => encAX 34 d a 0 2 0 (dblCode dbl) 0 0
  | .frsq dbl d a => encAX 34 d a 0 3 0 (dblCode dbl) 0 0
  | .fexp2 ty d a => encAX 34 d a 0 4 0 ty.code 0 0
  | .flog2 ty d a => encAX 34 d a 0 5 0 ty.code 0 0
  | .fsin ty d a => encAX 34 d a 0 6 0 ty.code 0 0
  | .fcos ty d a => encAX 34 d a 0 7 0 ty.code 0 0
  | .ftanh ty d a => encAX 35 d a 0 0 0 ty.code 0 0
  | .fsigm ty d a => encAX 35 d a 0 1 0 ty.code 0 0
  | .frnd ty rm d a => encAX 35 d a 0 2 0 ty.code rm.code 0
  | .fclass dbl d a => encAX 35 d a 0 3 0 (dblCode dbl) 0 0
  | .fscale dbl rm sat d a b => encAX 35 d a b 4 0 (dblCode dbl) (rmc rm sat) 0
  | .fgetx dbl d a => encAX 35 d a 0 5 0 (dblCode dbl) 0 0
  | .cvt dt src rm sat d a => encAX 36 d a 0 0 0 src.code (rmc rm sat) dt.code
  | .cvtp dt rm sat d a b c h => encAX 36 d a b 1 c 8 (rmc rm sat) (dt.code + h * 32)
  | .cvte dt src rm sat d a i => encAX 36 d a 0 2 0 src.code (rmc rm sat) (dt.code + i * 32)
  | .lgetIdx dbl d a s j => encLget 0 dbl d a s j
  | .lgetRot dbl d a s j => encLget 1 dbl d a s j
  | .lgetShift dbl d a (.reg b) j => encAX 37 d a b 2 0 (n64Code dbl) 0 j
  | .lgetShift dbl d a (.imm n) j => encAX 37 d a 0 2 0 (n64Code dbl) 0 (unsxt 64 n * 1024 + 512 + j)
  | .lgetXor dbl d a s j => encLget 3 dbl d a s j
  | .census m d a j => encAX 37 d a 0 4 0 0 0 (m.code * 8 + j)
  | .red op d a j => encAX 37 d a 0 5 0 op.ty op.rm (op.op * 64 + j)
  | .scan op excl d a j => encAX 37 d a 0 6 0 op.ty op.rm (bit excl * 512 + op.op * 64 + j)
  | .peers dbl d a j => encAX 37 d a 0 7 0 (n64Code dbl) 0 j
  | .slice d n => encS 38 d 0 0 (n - 1)
  | .matz d => encS 38 d 0 1 0
  | .rcpst d a => encS 38 d a 2 0
  | .rcppol g => encS 38 0 0 3 g
  | .ld sz h s k a disp => encMG 39 s a k 0 0 sz.code 0 h.code (unsxt 262144 disp)
  | .st g sz h k a disp s => encMG 40 s a k g.q (bit g.neg) sz.code 0 h.code (unsxt 262144 disp)
  | .atom g op dbl sc k a disp s c =>
    encMG 41 s a k g.q (bit g.neg) (op.code + 16 * bit dbl) c sc.code (unsxt 262144 disp)
  | .ldf h s k a disp => encMG 42 s a k 0 0 0 0 h.code (unsxt 262144 disp)
  | .stf h k a disp s => encMG 43 s a k 0 0 0 0 h.code (unsxt 262144 disp)
  | .lds sz s m a disp c => encSP s a m sz.code c (unsxt 1048576 disp)
  | .sts sz m a disp s c => encSP s a m (8 + sz.code) c (unsxt 1048576 disp)
  | .atoms op m a disp s c => encSP s a m op.code c (unsxt 1048576 disp)
  | .phaseRel sc => encAX 45 0 0 0 0 0 0 0 (1 + sc.code * 4)
  | .phaseAcq sc => encAX 45 0 0 0 0 0 0 0 (2 + sc.code * 4)
  | .phaseAr sc => encAX 45 0 0 0 0 0 0 0 (3 + sc.code * 4)
  | .fence e l => encAX 45 0 0 0 1 0 0 0 (e.code + l.code * 32)
  | .cmaint op lv k a b => encAX 45 0 a b 2 0 0 0 (k + op.code * 16 + lv * 64)
  | .pref lv k a => encAX 45 0 a 0 3 0 0 0 (k + lv * 16)
  | .lease a => encAX 45 0 a 0 4 0 0 0 0
  | .capld x i => encAX 46 0 0 0 0 0 0 0 (x + i * 16)
  | .capnar x y a b mask => encAX 46 0 a b 1 0 0 0 (x + y * 16 + mask * 256)
  | .capq f d y => encAX 46 d 0 0 2 0 0 0 (y * 16 + f.code * 256)
  | .capswz x y swz => encAX 46 0 0 0 3 0 0 0 (x + y * 16 + swz * 256)
  | .capdrop x => encAX 46 0 0 0 4 0 0 0 x
  | .wld ty t f => encAX 48 0 f 0 0 0 ty.code 0 t.code
  | .wlds t s => encAX 48 0 s 0 1 0 0 0 t.code
  | .tmm p => encAX 48 0 p 0 2 0 0 0 0
  | .tzero t => encAX 48 0 0 0 3 0 0 0 t
  | .trd ty rm sat d t => encAX 48 d 0 0 4 0 ty.code (rmc rm sat) t
  | .twr ty t a => encAX 48 0 a 0 5 0 ty.code 0 t
  | .tepi p => encAX 48 0 p 0 6 0 0 0 0
  | .tfuse m => encAX 48 0 0 0 7 0 0 0 m
  | .cbld f b => encAX 49 0 f 0 0 0 0 0 b
  | .tstat clr d t => encAX 49 d 0 0 1 0 0 0 (t + bit clr * 64)
  | .cpy d p => encAX 50 d p 0 0 0 0 0 0
  | .cpyr d p => encAX 50 d p 0 1 0 0 0 0
  | .tsetFill m n rw => encAX 50 0 0 0 2 0 0 0 (m + 64 + bit rw * 256 + n * 512)
  | .tsetReady m => encAX 50 0 0 0 2 0 0 0 (m + 128)
  | .tsetEmpty m => encAX 50 0 0 0 2 0 0 0 m
  | .twait m => encAX 50 0 0 0 3 0 0 0 m
  | .tqry .tile d idx => encAX 50 d 0 0 4 0 0 0 idx
  | .tqry (.cnt clr) d idx => encAX 50 d 0 0 4 0 0 0 (idx + 64 + bit clr * 256)
  | .tqry .slot d idx => encAX 50 d 0 0 4 0 0 0 (idx + 128)
  | .gslot n => encAX 50 0 0 0 5 0 0 0 n
  | .gres m n p neg => encAX 50 0 0 0 6 0 0 0 (n + p * 16 + bit neg * 128 + m.code * 256)
  | .barArrive b a => encAX 51 0 a 0 0 0 0 0 b
  | .barWait b => encAX 51 0 0 0 0 0 0 0 (b + 128)
  | .barSync b a => encAX 51 0 a 0 0 0 0 0 (b + 256)
  | .tbar t ar => encAX 51 0 0 0 1 0 0 0 (t + bit ar * 8)
  | .cred d p => encAX 51 d p 0 2 0 0 0 0
  | .seqw n (.reg a) => encAX 51 0 a 0 3 0 0 0 n
  | .seqw n (.imm v) => encAX 51 0 0 0 3 0 0 0 (n + 16 + v * 32)
  | .seqrd d n => encAX 51 d 0 0 4 0 0 0 n
  | .spawn d k x a => encAX 52 d a 0 0 0 0 0 (k + x * 16)
  | .qstat d sl => encAX 52 d 0 0 1 0 0 0 sl
  | .prio p => encAX 52 0 0 0 2 0 0 0 p
  | _ => []

/-- The words of an instruction of `len` extension words. -/
def wordsOf (len w0 w1 w2 : Nat) : List Nat :=
  if len = 0 then [w0] else if len = 1 then [w0, w1] else [w0, w1, w2]

/-- Steps 2 and 4 to 6 of R40 on an instruction's words, in order. -/
def decodeWords (w0 w1 w2 : Nat) : Except DecodeError Instr :=
  if fLen w0 = 3 then .error .lenIllegal
  else if majReserved (fMaj w0) then .error .majorReserved
  else if !lenAllowed (fMaj w0) (fLen w0) then .error .lenNotAllowed
  else
    match parse (fLen w0) (fMaj w0) w0 w1 w2 with
    | some i => if i.wf && decide (encode i = wordsOf (fLen w0) w0 w1 w2) then .ok i else .error .subField
    | none => .error .subField

/-- A little-endian word of four bytes (R4). -/
def wordLE (b0 b1 b2 b3 : Byte) : Nat := b0.toNat + 256 * b1.toNat + 65536 * b2.toNat + 16777216 * b3.toNat

/-- The instruction at the front of a byte sequence, and the bytes after it (R38). -/
def decode : List Byte → Except DecodeError (Instr × List Byte)
  | b0 :: b1 :: b2 :: b3 :: r =>
    let w0 := wordLE b0 b1 b2 b3
    if fLen w0 = 0 ∨ fLen w0 = 3 then (decodeWords w0 0 0).map fun i => (i, r)
    else
      match r with
      | c0 :: c1 :: c2 :: c3 :: r1 =>
        if fLen w0 = 1 then (decodeWords w0 (wordLE c0 c1 c2 c3) 0).map fun i => (i, r1)
        else
          match r1 with
          | d0 :: d1 :: d2 :: d3 :: r2 =>
            (decodeWords w0 (wordLE c0 c1 c2 c3) (wordLE d0 d1 d2 d3)).map fun i => (i, r2)
          | _ => .error .truncated
      | _ => .error .truncated
  | _ => .error .truncated

/-- The bytes of a word, lowest address first (R4). -/
def bytesLE (w : Nat) : List Byte :=
  [BitVec.ofNat 8 w, BitVec.ofNat 8 (w / 256), BitVec.ofNat 8 (w / 65536), BitVec.ofNat 8 (w / 16777216)]

/-- The three words of a number whose bit 0 is bit 0 of the first word, bits at and above `nbits` zero. -/
def tableBytes (nbits w : Nat) : List Byte :=
  let v := w % 2 ^ nbits
  bytesLE (v % 4294967296) ++ bytesLE (v / 4294967296 % 4294967296) ++ bytesLE (v / 18446744073709551616 % 4294967296)

/-- The instruction the decoder reads from the table's numbering of an instruction's bits. -/
def decodeTableWord (nbits w : Nat) : Option Instr :=
  match decode (tableBytes nbits w) with
  | .ok (i, _) => some i
  | .error _ => none

end Sys2Proof
end

