-- ==== Sys2Proof/Config.lean ====
section
/-! DEFINITION. What is fixed for one module, and the free values: constants without a body, of which nothing can be
proved (log entries 3, 7, 8, 22 and 23). -/

namespace Sys2Proof

/-- The device's fabric identity (R55 DEVID, 21 bits): fixed per module, not stated. -/
opaque Config.devid : BitVec 21

/-- Installed HBM: 768 GB of bytes at physical addresses from 0 (R11). -/
def Config.memBytes : Nat := 768000000000

/-- The approximate functions of R124. -/
inductive ApproxFn where
  | rcp | rsq | exp2 | log2 | sin | cos | tanh | sigm
deriving DecidableEq, Repr

/-- The bits that the device's own approximate function gives for a binary32 input (R124): a free value. The
model uses it only where it lies inside the error bound of R124 (log entry 7). -/
opaque Config.approx32 : ApproxFn → BitVec 32 → BitVec 32

/-- The same for binary64 (FRCP and FRSQ). -/
opaque Config.approx64 : ApproxFn → BitVec 64 → BitVec 64

/-- Spare rows of the bank or macro of a location of a die, by die, storage code and row (R347): not stated. -/
opaque Config.spareRows : Nat → Nat → Nat → Nat

/-- The measurement a die reports, per block 1, 2, 4 and 5 (R335): fixed per module, not stated. -/
opaque Config.measurement : Nat → Nat → BitVec 64

/-- Block 3 of a die, by the spare rows that RETIRE has taken into use, each by storage, row and spare (R335, R347): the digest
of the fuse configuration and the spare maps, not stated. -/
opaque Config.fuseDigest : Nat → List (Nat × Nat × Nat) → BitVec 64

/-- The authentication tag of a packet, by the key's epoch, the count of packets sent under it and the packet's other header
bits and payload (R316, R336): AES-256-GCM under a key that no software can read. -/
opaque Config.tagMac : Nat → Nat → Nat → List Nat → BitVec 128

/-- The row of R342 that names where a protected word of a die lies, by die and word: the maps of SRAM and of HBM are not
stated (R345, R346). -/
opaque Config.rowOf : Nat → Nat → Nat

/-- How many more elements a copy being moved has moved by the end of a step, by its command and the count of steps: a free
value. A destination byte read before the copy completes is old or new, a source byte is read at any time between (R13; log entry 23). -/
opaque Config.progress : Nat → Nat → Nat

/-- The cycles of a table walk that a row of an epilogue entry waits for (R271), by the count of steps: a free value, since
no rule states how long a walk takes (log entry 22). -/
opaque Config.walkCycles : Nat → Nat

end Sys2Proof
end

