-- ==== Sys2Proof/Machine/State.lean ====
section
/-! DEFINITION. The state of the module (R56, R154, R201 to R219, R222 to R238, R256, R284, R306, R316, R337, R343 to
R354), the reasons a step stops, and the state right after package power-on. Everything is plain data. Sparse tables
are lists sorted by key that list no entry equal to the table's default. -/

namespace Sys2Proof.Machine

/-! ## Why a step stops -/

/-- There is no fault of the model: what the spec calls a fault parks threads and posts a record, a next state. -/
inductive Fault where
  /-- Raised by no meaning; kept so that a later repair can name a stop. Safe. -/
  | stuck
deriving DecidableEq, Repr

/-- Refusals. -/
inductive Refusal where
  /-- Raised by the arms of Dispatch that have no meaning yet. Safe. -/
  | notModelled (mnemonic : String)
  /-- Raised by step when the agenda names an event whose operands are out of range: no such event exists. Safe. -/
  | illFormed
deriving DecidableEq, Repr

/-! ## Capabilities -/

/-- A well-formed capability (R172, R173); `perm` holds R, W, A, X, REM, TOOB, PST, NAR in bits 0 to 7. -/
structure Cap where
  base : Nat
  extent : Nat
  tenant : Nat
  stride : Nat
  swz : Nat
  perm : Nat
  device : Nat
deriving DecidableEq, Repr

/-! ## Threads -/

/-- What a thread waits on, besides the conditions that its next instruction sets (R60). -/
inductive Wait where
  | none
  /-- WAIT (R191): the four bounds. -/
  | counts (nl ns nc nt : Nat)
  /-- SEQW (R315): counter and awaited value. -/
  | seq (n v : Nat)
  /-- TWAIT (R300). -/
  | tile (m : Nat)
  /-- A named-barrier wait (R306): barrier and the generation that must be passed. -/
  | bar (b gen : Nat)
  /-- An arrival of BAR that waits for earlier accesses (R306): barrier, count register value, and whether it then waits. -/
  | barArrive (b : Nat) (explicit : Bool) (n : Nat) (sync : Bool)
  /-- A tree-barrier arrival that waits for earlier accesses or its release, then the release of the instance (R309). -/
  | tbarArrive (tag : Nat) (ar : Bool)
  | tbar (tag : Nat) (ar : Bool)
  /-- RJWAIT (R151). -/
  | rejoin (n : Nat)
  /-- SLEEP and YIELD (R140): the cycle at which the wait ends. -/
  | sleep (cycle : Nat)
  | yield (cycle : Nat)
  /-- A PHASE.ACQ or PHASE.AR that has not completed (R193): its access number. -/
  | phase (op : Nat)
  /-- The capture of a matrix command (R261). -/
  | capture (cmd : Nat)
  /-- The status of CPY, CPYR, CRED (R292). -/
  | status (cmd : Nat)
  /-- A SPAWN's gD (R234): destination, entry and code capabilities, entry offset and the cycle of the result. -/
  | spawn (d : Nat) (e x : Cap) (off due : Nat)
  /-- A GSLOT whose old generation still holds a waiting command (R298). -/
  | gslot (y : Nat)
  /-- A reserve refill (R165): until the reserve is full and this many rows more are free. -/
  | refill (more : Nat)
  /-- A load of a recipe that the thread's next instruction needs is stalled in Dusk (R18, R163): the dies of its route. -/
  | regen (dies : List Nat)
  /-- A lane whose line failed, waiting to be parked with its sub-group (R214): issue, cause, reason, address. -/
  | fault (iss cause reason addr under aux : Nat)
  /-- The access of a lane is stalled in Dusk before its instruction retires (R18): its number. -/
  | dusk (op : Nat)
deriving DecidableEq, Repr

/-- A parked thread (R36, R141): cause and addresses, and where it resumes. -/
structure Park where
  cause : Nat
  addr0 : Nat
  addr1 : Nat
  resume : Nat
deriving DecidableEq, Repr

/-- The recipe state of a register (R154): form, Backed, and the entry both name. -/
structure RForm where
  recipe : Bool
  backed : Bool
  entry : Nat
deriving DecidableEq, Repr

/-- A slice whose members have not all executed (R156, R157): address and issue number of the SLICE, and its members. -/
structure SliceRun where
  addr : Nat
  num : Nat
  d : Nat
  wide : Bool
  left : Nat
  members : List Instr
  words : List Nat
  inputs : List Nat
  written : Bool
  cap : Option Cap
  wb : Nat
  ok : Bool
deriving DecidableEq, Repr

/-- Where a thread goes on once an access that faulted in flight has executed again (R214): the access, then pc, window
base, wait, the count that it then holds (R184), and the step trap that it then owes (R153). -/
structure Redo where
  op : Nat
  pc : Nat
  wb : Nat
  wait : Wait
  counted : Option Nat
  stepOwed : Option Nat
deriving DecidableEq, Repr

/-- A thread (R56, R60, R72, R114, R138). -/
structure Thread where
  id : ThreadId
  core : CoreId
  quad : Nat
  lane : Nat
  pc : Nat
  wb : Nat
  regs : List (Nat × Word)
  preds : Nat
  fpcsr : Word
  rng : Word
  oobflag : Bool
  phaseno : Nat
  /-- The acquire that began the phase: its scope, and the tick at which it began (R75). -/
  acqScope : Scope
  acqAt : Nat
  /-- Bytes whose value a load or atomic of the thread took from a write not yet at the device point (R76). -/
  observed : List Nat
  /-- Bytes of its atomics at cluster scope or wider since its last release, and whether their point lies beyond the L2 (R76,
  R80). -/
  bypass : List (Nat × Bool)
  /-- FENCEs with an operation of E still to take effect: the later classes, the number from which operations are later
ones, and the operations of E (R81). -/
  fences : List (ClassSet × Nat × List Nat)
  cyclehi : Nat
  faultCause : Nat
  faultAddr0 : Nat
  faultAddr1 : Nat
  wait : Wait
  park : Option Park
  /-- Whether the thread was ready in the last cycle that ended, and the cycle since which that is so (its age, R60). -/
  ready : Bool
  readySince : Nat
  /-- Cycles at which results of issued instructions are available: registers 0..255, predicates 256..263 (R94). -/
  busy : List (Nat × Nat)
  /-- The cycle from which the next instruction may issue (R139, R302). -/
  nextAt : Nat
  /-- The cycle at which a lane migration of the thread ends (R64). -/
  moveUntil : Nat
  /-- The cycle since which a read before its instruction's effect, a recipe's load or a SPAWN's entry, is stalled (R19). -/
  stallAt : Option Nat
  forms : List (Nat × RForm)
  /-- Values regenerated for the instruction being issued (R161). -/
  regen : List (Nat × Word)
  slice : Option SliceRun
  retired : Nat
  /-- The issue whose count a lane that re-executes already holds (R184). -/
  counted : Option Nat
  /-- Posted records of held commands for which the issuer has still to park at a wait (R273, R297): command, cause,
address. -/
  owed : List (Nat × Nat × Nat)
  /-- Poisoned registers (R344). -/
  poisoned : List Nat
  /-- Zeroes to write on resumption after a remote failure (R361): issue, register, count. -/
  zeroes : List (Nat × Nat × Nat)
  /-- The token of a step trap owed after a wait (R153): address of the stepped instruction. -/
  stepOwed : Option Nat
  /-- The token of a step trap owed at once, for an instruction that executed again and left the thread in a later wait. -/
  stepNow : Option Nat
  /-- The cycle until which a RED or SCAN of the thread runs (R137). -/
  collUntil : Nat
  /-- Accesses that execute again, the innermost first, and where the thread goes on after each (R214). -/
  redo : List Redo
deriving DecidableEq, Repr

/-! ## Quadrants -/

/-- A cached translation (R213), with the address of its leaf entry. -/
structure TlbEntry where
  at_ : Nat
  vf : Nat
  vpage : Nat
  size : Nat
  frame : Nat
  rd : Bool
  w : Bool
  x : Bool
  remote : Option Nat
deriving DecidableEq, Repr

/-- An accumulator tile (R254): elements by 64 * row + column. -/
structure Tile where
  els : List (Nat × Word)
  nans : Bool
  infs : Bool
  poison : Bool
deriving DecidableEq, Repr

/-- The weight latch (R258): format, weights by column (element codes; quarter counts for cb2), scales by column. -/
structure Latch where
  fmt : Option Ty
  cols : List (Nat × List Int)
  scales : List (Nat × List Nat)
deriving DecidableEq, Repr

/-- States of an epilogue entry (R272). -/
inductive EpiState where
  | free | draining
  | held (under addr : Nat)
deriving DecidableEq, Repr

/-- An epilogue entry (R271). -/
structure EpiEntry where
  st : EpiState
  cmd : Nat
  tileNo : Nat
  image : Tile
  /-- Rows stored from the first on, and those behind one that stalls (R19). -/
  row : Nat
  ahead : List Nat
  due : Nat
  /-- The bias vector once read, and whether a bias word or a store fell out of bounds (R271). -/
  bias : Option (List Nat)
  oob : Bool
  /-- Packets that rows stored in other devices have left in: row, port and sequence number (R17). -/
  marks : List (Nat × Nat × Nat)
deriving DecidableEq, Repr

/-- A quadrant (R213, R211, R233, R256, R275). -/
structure Quad where
  tlb : List TlbEntry
  victims : List (Nat × Nat × GroupId)
  slotUntil : Nat
  sfUntil : Nat
  /-- The cycle until which the slot is held for regeneration or materialisation (R162, R355). -/
  regenUntil : Nat
  /-- Cycle of the last issue of each engine class: vector, special-function, load-store, matrix, copy (R233). -/
  lastClass : List Nat
  /-- The group that seeded the latest bundle, with the cycle of its activation (R233). -/
  lastSeed : Option (Nat × GroupId)
  tiles : List (Nat × Tile)
  latch : Latch
  /-- Format of the latest WLD issued, for WLDS and pairing (R259, R267). -/
  issuedFmt : Option Ty
  epi : List (Nat × EpiEntry)
  env : Bool
  eof : Bool
  mism : Nat
  tmms : Nat
  migrating : Option Nat
deriving DecidableEq, Repr

/-! ## Groups, teams, grids -/

/-- The classes that WAIT counts (R15). -/
inductive CountClass where
  | nl | ns | nc | nt
deriving DecidableEq, Repr

/-- An issue that the group counts: its number, class, and lanes or commands left (R184). -/
structure Count where
  iss : Nat
  cls : CountClass
  left : Nat
deriving DecidableEq, Repr

/-- A recipe-store entry (R158). -/
structure REntry where
  addr : Nat
  d : Nat
  wide : Bool
  members : List Instr
  words : List Nat
  inputs : List Nat
  cap : Option Cap
  wb : Nat
  joined : List (Nat × Nat)
deriving DecidableEq, Repr

/-- Activation states (R229). -/
inductive Act where
  | waiting | active | held | swapped | saved
deriving DecidableEq, Repr

/-- A group (R56, R150, R158 to R165, R210, R229). -/
structure Group where
  id : GroupId
  core : CoreId
  quad : Nat
  laneBase : Nat
  width : Nat
  masks : List Nat
  arrivals : List Nat
  counts : List Count
  recipes : List (Nat × REntry)
  reserve : Nat
  thresh : Nat
  declared : Option Nat
  measured : Nat
  winWords : Nat
  lostloc : Nat
  lostPrev : Nat
  step : Bool
  prio : Nat
  act : Act
  eligSince : Nat
  actSince : Nat
  started : Bool
  urgent : Bool
  fetchHeld : Bool
  retiredEnded : Nat
  hang : Nat
  /-- The cycle after that of its latest retirement (0: none), which the watchdog does not count (R236). -/
  retireAt : Nat
  /-- Cycles that the watchdog has left out because of remote operations in recovery (R236). -/
  remote : Nat
  stopAt : Option Nat
  /-- The cycle at which the group's window of small bundles began (R64), and the cycle after its last bundle (0: none). -/
  wideAt : Nat
  lastIssue : Nat
deriving DecidableEq, Repr

/-- A named barrier (R306). -/
structure Barrier where
  e : Nat
  c : Nat
  live : Bool
  gen : Nat
  /-- Threads that arrived in the current generation, for the live count. -/
  here : List ThreadId
deriving DecidableEq, Repr

/-- States of a guard slot (R298). -/
inductive SlotState where
  | free | unresolved | true | false
deriving DecidableEq, Repr

/-- A guard slot: the state of its current generation, and the generation's number. No command waits on an older
generation: GSLOT begins a new one only when none does. -/
structure Slot where
  st : SlotState
  gen : Nat
deriving DecidableEq, Repr

/-- A tree-barrier instance's arrivals of one team (R309): threads, form of the first arrival, complete. -/
structure TbarTeam where
  tag : Nat
  here : List ThreadId
  ar : Bool
  arrivedAt : Option Nat
deriving DecidableEq, Repr

/-- A team (R56, R174, R285, R298, R306, R315). -/
structure Team where
  id : TeamId
  core : CoreId
  slot : Nat
  caps : List (Nat × Cap)
  /-- Writes of capability registers that are pending: register, value (none: cleared), and the cycle from which it
  stands (R174, R197). -/
  capWrites : List (Nat × Option Cap × Nat)
  w : List (Nat × Nat)
  wstat : List (Nat × Word)
  y : List (Nat × Slot)
  bars : List (Nat × Barrier)
  tbars : List TbarTeam
  spad : List Host.Cell
  /-- Poisoned 128-byte lines of the scratchpad (R344). -/
  spadPoison : List Nat
  tiles : List Nat
  /-- Being stopped by the supervisor, to be saved (R237), and in fast mode. -/
  stopping : Bool
  fast : Bool
  /-- The tick of the command that stopped it last, and the core where it then stood: teams that agree in both left one
  state of their quadrants (R237, R253). -/
  stopped : Option (Nat × CoreId)
  /-- Since when the traffic of its save is stalled in Dusk, and whether it has faulted: the team stays stopped (R237). -/
  saveStall : Option Nat
  saveHeld : Bool
  saved : Bool
  /-- Saved, or being saved, to be placed again by the hardware before any new team (R238, R351). -/
  replace : Bool
  /-- Tile entries, quadrants, codebook and fusion mode as saved (R237, R279). -/
  savedTiles : List (Nat × DWord)
  savedQuads : List (Nat × Quad)
  savedBook : List (Nat × Nat)
  savedFuse : Nat
deriving DecidableEq, Repr

/-- A tile of a `.tile` template (R31). -/
structure TileTmpl where
  m : Nat
  off : Nat
  size : Nat
deriving DecidableEq, Repr

/-- The kernel descriptor's values (R222, R329). -/
structure Desc where
  width : Nat
  ngroups : Nat
  tpc : Nat
  regs : Nat
  wb : Nat
  lease : Nat
  spad : Nat
  tiles : List TileTmpl
  entry : Nat
deriving DecidableEq, Repr

/-- A grid (R56, R222). -/
structure Grid where
  id : Nat
  part : Nat
  vf : Nat
  tenant : Nat
  reqtag : Nat
  prio : Nat
  coop : Bool
  fast : Bool
  half : Nat
  l1share : Nat
  nteams : Nat
  desc : Desc
  capTab : List Nat
  chain : Nat
  entry : Nat
  placed : Nat
  ended : Nat
  killed : Bool
  /-- Removed by PURGE: no further team is placed (R349). -/
  purged : Bool
  /-- Pre-empted by command: no further team is placed until one is restored (R237). -/
  paused : Bool
  complete : Bool
  /-- The tick of its start, no older than which its instructions are fetched (R41). -/
  since : Nat
deriving DecidableEq, Repr

/-! ## Accesses in flight -/

/-- Where an access goes. -/
inductive Space where
  /-- Bytes of memory: the key and length of each piece (R178). Keys below 2^60 are physical addresses of this device;
  the others name bytes of other devices (R188, R212). -/
  | mem (pieces : List (Nat × Nat))
  /-- Bytes of a team's scratchpad, at an offset (R189). -/
  | spad (t : TeamId) (off : Nat)
  /-- No bytes: PHASE, CMAINT. -/
  | none
deriving DecidableEq, Repr

/-- What an access does. -/
inductive OpKind where
  | load (sz : LdSize) (pst : Bool)
  | loadFrag
  | store
  | atomic (op : AtomOp) (dbl : Bool) (sc : AtomScope) (s c : Nat)
  | rel (sc : Scope)
  | acq (sc : Scope)
  | relacq (sc : Scope) (released : Bool)
  | cmaint (op : MaintOp) (lv : Nat) (bytes : List (Nat × Nat))
deriving DecidableEq, Repr

/-- One access of one lane, issued and not complete. `num` is its issue; `iss` is the issue in whose count it stands,
another one where the lane executes again (R184). -/
structure Op where
  id : Nat
  num : Nat
  iss : Nat
  kind : OpKind
  th : ThreadId
  core : CoreId
  quad : Nat
  space : Space
  vaddr : Nat
  size : Nat
  data : List Byte
  dst : Option Nat
  deps : List Nat
  due : Nat
  addr0 : Nat
  pst : Bool
  hint : Hint
  reqtag : Nat
  tenant : Nat
  part : Nat
  /-- Bytes of a remote response, once received; for a store to another device, none of them, once it has performed at
  the core (R188). -/
  answer : Option (List Byte)
  /-- The fault that holds the access until the supervisor resumes its thread: cause (R214). -/
  failed : Option Nat
  /-- The cycle at which its Dusk stall began (R19); and since when it waits at a locked frame (R219) or for a port (R320). -/
  stall : Option Nat
  /-- For a remote access: its packets have been handed to the port, and the last sequence number. -/
  sent : Bool
  /-- The window base at issue. -/
  wb : Nat
  /-- For a release: ports and the sequence numbers whose packets it waits for (R188). -/
  marks : List (Nat × Nat)
  /-- The 16-byte words of the blocks that its misses allocated, to be read from below (R202). -/
  fills : List Nat
deriving DecidableEq, Repr

/-! ## Engine commands -/

/-- The parameter block of TMM and TEPI (R262, R263), with the captured epilogue capabilities. -/
structure EpiDesc where
  oty : Nat
  osat : Bool
  rm : Rm
  act : Nat
  ben : Bool
  nrow : Nat
  scale : Nat
  ooff : Nat
  boff : Nat
  alpha : Nat
  hi : Nat
  out : Cap
  bias : Cap
  /-- The draws of the issuer's generator, in ascending row and column order, when it rounds STO (R271). -/
  seed : Word
deriving DecidableEq, Repr

/-- Captured operands and effect of a command. Columns and rows are sparse lists of (TID, registers). -/
inductive CmdKind where
  | wld (ty : Ty) (cols : List (Nat × List Word))
  | wlds (n : Nat) (cols : List (Nat × List Word))
  | tmm (afmt : Ty) (kh : Nat) (za : Bool) (rows : List (Nat × List Word × List Word)) (epi : Option EpiDesc)
  | tzero
  /-- Each thread with its rounding mode as resolved at issue and its generator (R117). -/
  | trd (ty : F2Ty) (sat : Bool) (d : Nat) (ths : List (ThreadId × Rm × Word))
  | twr (rows : List (Nat × List Word))
  | tepi (e : EpiDesc)
  | tfuse (m : Nat)
  | cbld (ents : List (Nat × Nat))
  | tstat (clr : Bool) (d : Nat) (ths : List ThreadId)
  | cpy (blk : List Word) (src dst lay : Cap)
  | cpyr (blk : List Word) (src dst lay flag : Cap)
  | cred (blk : List Word) (src dst : Cap)
deriving DecidableEq, Repr

/-- Where a command stands. -/
inductive CmdState where
  /-- Captured at issue; its capture has not ended (R261). -/
  | capture
  /-- Issued; the descriptor read or status is outstanding (R292). -/
  | decide
  /-- In its queue. -/
  | queued
  /-- Begun; for a copy, being moved. -/
  | running
  /-- A TMM with EPI, complete, that waits for a free epilogue entry (R264, R271). -/
  | copyWait
  /-- A TMM with EPI or a TEPI that copies its tile out (R271). -/
  | copyOut
  /-- Copied into an epilogue entry, which drains (R272). -/
  | draining
  /-- Held by a fault: cause and address (R273, R297, R314). -/
  | held (cause addr : Nat)
deriving DecidableEq, Repr

/-- An engine command (R257, R284, R311). -/
structure Cmd where
  id : Nat
  kind : CmdKind
  st : CmdState
  th : ThreadId
  core : CoreId
  /-- Quadrant of the issuer, and of the array or tile the command acts on. -/
  quad : Nat
  target : Nat
  tile : Nat
  regs : List Nat
  at_ : Nat
  due : Nat
  cw : Option Nat
  guard : Option (Nat × Nat)
  dreg : Nat
  /-- Bytes that a copy moves; for a matrix command the fusion mode it was issued under. -/
  bytes : Nat
  bound : Nat
  /-- For a TMM: 1 once its products are in the tile. For a copy: how many elements have been moved from the first on, and which of those behind one that stalls (R19). -/
  moved : Nat
  ahead : List Nat
  /-- For a CPYR: it has left. For a domain CRED: the combined value of this device, once sent (R313). -/
  contrib : Option (List Byte)
  /-- Source elements of a CPYR or CRED that have been read, each by its place (R19). -/
  taken : List (Nat × List Byte)
  /-- Requests for 16-byte words of other devices: device and words; and bytes that have come, by key (R188). -/
  asks : List (Nat × List Nat)
  got : List (Nat × Nat)
  /-- The packets in which a CPYR has left: port and sequence number. -/
  marks : List (Nat × Nat)
  /-- Cycles since its start that are not charged against its bound (R294). -/
  lost : Nat
  /-- Its accesses that are stalled (R19) or wait for a port (R320), each by its place, and since which cycle. -/
  stalls : List (Nat × Nat)
  reqtag : Nat
  tenant : Nat
  part : Nat
  counted : Bool
  /-- The issuing instruction: its address and window base. -/
  pc : Nat
  wb : Nat
deriving DecidableEq, Repr

/-! ## Cores and quadrants -/

/-- A block of the L1 (R202). -/
structure Block where
  line : Nat
  first : Nat
  len : Nat
  owner : GroupId
  /-- The partition of its owner, in whose part of the SRAM it lies (R201). -/
  part : Nat
  touched : Nat
  evict : Bool
  keep : Bool
  sized : Option Nat
  nextMiss : Bool
  lastUse : Nat
  /-- The cycle at which its words have arrived from below (R209). -/
  ready : Nat
  /-- Words the owner's groups touched in the current lease window. -/
  winTouched : List (GroupId × Nat)
deriving DecidableEq, Repr

/-- An image of a 16-byte word, stamped with the tick of its fill (R205). `base` is the tick at which the bytes that it
took from the device point were read there (R209). -/
structure Image where
  word : Nat
  fill : Nat
  base : Nat
  bytes : List Host.Cell
  /-- Bytes that came from a write not yet at the device point (R76). -/
  fresh : List Nat
  poison : Bool
  /-- The threads that read it in their phase, with a mask of the bytes for which it is their snapshot. -/
  holders : List (ThreadId × Nat)
  /-- Its place in the core's overflow area, where it stands there (R206). -/
  slot : Option Nat
deriving DecidableEq, Repr

/-- A core write: byte, tick of performance, the tick at which it first reached a wider point (R74, R207), and just
before that what the byte read at the cluster point, and what it read here of the device point. -/
structure CoreWrite where
  addr : Nat
  val : Byte
  perf : Nat
  pub : Option Nat
  under : Byte
  underDev : Byte
  /-- The engine operation that wrote it and has not completed (R74). -/
  engine : Option Nat
deriving DecidableEq, Repr

/-- A compute core (R201 to R206, R213, R246, R274, R285). -/
structure Core where
  blocks : List Block
  images : List Image
  writes : List CoreWrite
  /-- Lines whose written bytes are poisoned in the L1 (R215). -/
  poison : List Nat
  predictor : List (Nat × Nat)
  tlb : List TlbEntry
  tiles : List (Nat × DWord)
  /-- Copies in flight that write a tile entry (R285). -/
  tileCopies : List (Nat × Nat)
  /-- Codebook entries by partition and index (R246): key 256 * partition + index. -/
  codebook : List (Nat × Nat)
  /-- Fusion mode by partition (R274). -/
  fuse : List (Nat × Nat)
  ovBase : Nat
  ovSize : Nat
  /-- Lease words of groups that ended in a cycle, which are free from the next on: grid, cycle, words (R210, R239). -/
  freed : List (Nat × Nat × Nat)
deriving DecidableEq, Repr

/-! ## Dies, caches, records -/

/-- Die states (R337). -/
inductive DieState where
  | dawn | noon | dusk | midnight
deriving DecidableEq, Repr

/-- Causes of Dusk (R337). -/
inductive DuskCause where
  | none | rolling | link | draining
deriving DecidableEq, Repr

/-- A byte published in an L2 and not yet at the device point: the cores that published it, and the tick of the last. -/
structure Dirty where
  addr : Nat
  val : Byte
  cores : List Nat
  pub : Nat
deriving DecidableEq, Repr

/-- A line of the L2 (R208): clean bytes as filled at a tick (none: not filled), bytes published here and not yet at the
device point, and whether the line carries poison (R215). -/
structure L2Line where
  line : Nat
  fill : Option Nat
  clean : List Host.Cell
  dirty : List Dirty
  poison : Bool
deriving DecidableEq, Repr

/-- A fault record as its sixteen words, without the lap parity (R342), the queue it goes to, and the held command that
it reports. -/
structure Record where
  q : QueueRef
  words : List Nat
  cmd : Option Nat := none
deriving DecidableEq, Repr

/-- An entry of the classification table (R345): location, cycles of its corrected events, lasting, and whether an
uncorrectable event made it so. -/
structure ClsEntry where
  loc : Location
  times : List Nat
  lasting : Bool
  hard : Bool := false
deriving DecidableEq, Repr

/-- A record queue (R343). -/
structure RecQueue where
  base : Nat
  len : Nat
  posted : Nat
  taken : Nat
  notify : Nat
deriving DecidableEq, Repr

/-- A die (R18, R208, R216 to R218, R335 to R337, R343 to R347, R357). -/
structure Die where
  st : DieState
  cause : DuskCause
  since : Nat
  attested : Bool
  resets : Nat
  waiting : List Record
  /-- Reliability records held because the store of waiting records is full (R343). -/
  relHeld : List Record
  cls : List ClsEntry
  l2 : List L2Line
  /-- Lines in the memory-side cache of an I/O die, the latest first (R208). -/
  cached : List Nat
  temp : Option Nat
  scrubPos : Nat
  scrubStart : Nat
  /-- The cycle after the latest in which the scrubber took precedence (0: none): each is counted once (R353). -/
  scrubAt : Nat
  spares : List (Location × Nat)
  /-- The sweeper of an I/O die: the place of its next frame in its walk, and the cycle of that visit (R217). -/
  sweepPos : Nat
  sweepAt : Nat
  coldBase : Nat
  coldLen : Nat
  produced : Nat
  consumed : Nat
  watermark : Nat
  coldAge : Nat
  /-- Result of the last attestation: the failing check, 0 when it passed (R334). -/
  lastAttest : Option Nat
deriving DecidableEq, Repr

/-! ## Launch, partitions, virtual functions -/

/-- Stages of a launch entry in its chain (R223, R225). -/
inductive EntryStage where
  /-- Read; its conditions do not yet hold. -/
  | waiting
  /-- Its grid is being placed or runs; the number of the grid. -/
  | grid (g : Nat)
  /-- Completed with a STATUS code. -/
  | completed (status : Nat)
deriving DecidableEq, Repr

/-- A launch entry as read (R222). -/
structure Entry where
  num : Nat
  addr : Nat
  raw : Nat
  stage : EntryStage
  depOk : Bool
  /-- The address of the front-end read for which a record was posted, while the entry waits (R226). -/
  faulted : Option Nat
  /-- For a spawned entry: the function of its spawner, and whether its STATUS may be written back (R234). -/
  spawned : Option (Nat × Bool)
deriving DecidableEq, Repr

/-- A chain (R224), or a partition's spawn queue (R234). -/
structure Chain where
  vf : Nat
  first : Nat
  tail : Nat
  done : Nat
  compaddr : Nat
  notify : Nat
  enable : Bool
  /-- ENABLE was cleared by a disable of the function, whose enabling sets it again (R238). -/
  off : Bool
  next : Nat
  read : Nat
  halted : Bool
  entries : List Entry
  /-- Spawned entries appended and not yet read: address, raw entry, write-back, function. -/
  queue : List (Nat × Nat × Bool × Nat)
  /-- The addresses at which the front end's accesses for the chain are stalled in Dusk, and since when (R18, R19). -/
  stalls : List (Nat × Nat)
  /-- The address of a read of the chain's own, or of a write for it, for which a record was posted. -/
  faulted : Option Nat
deriving DecidableEq, Repr

/-- The work of a partition at a replay checkpoint, or after a later step (R351). -/
structure Saved where
  threads : List Thread
  groups : List Group
  teams : List Team
  grids : List Grid
  cmds : List Cmd
  ops : List Op
  quads : List (Nat × Quad)
  cores : List (Nat × Core)
  l2 : List (Nat × List L2Line)
  /-- The chains of the partition's functions (R224). -/
  chains : List (Nat × Chain)
deriving DecidableEq, Repr

/-- Replay mode of a partition (R351, R352): area and interval, whether a checkpoint is asked for, the checkpoint, and
since then each step of the partition's work: what it left, and the bytes of memory that it changed as they were. -/
structure Replay where
  base : Nat
  size : Nat
  interval : Nat
  nextAt : Nat
  asked : Bool
  ckpt : Option Saved
  log : List (Saved × List (Nat × Byte))
deriving DecidableEq, Repr

/-- A partition (R216, R233, R236, R238, R308, R311, R343, R353, R354). -/
structure Part where
  quads : List QuadId
  saveBase : Nat
  threshold : Nat
  schedMode : Nat
  /-- The mode in force to the end of the cycle in which SCHEDMODE was written: cycle, mode (R233). -/
  schedOld : Option (Nat × Nat)
  hangLimit : Nat
  tags : List (Nat × Nat)
  colls : List (Nat × CollGroup)
  bindings : List (Nat × Nat)
  /-- Kernel descriptors of the loaded code objects, each with the base of its object (R328). -/
  codes : List (Nat × Nat)
  queue : RecQueue
  views : List (Nat × View)
  viewBase : List (Nat × Nat)
  derived : List (Nat × Derived)
  replay : Option Replay
deriving DecidableEq, Repr

/-- A virtual function (R212, R238). -/
structure Vf where
  tenant : Nat
  part : Nat
  root : Nat
  enabled : Bool
  /-- A disable has begun and its teams are not all saved yet (R238). -/
  disabling : Bool
  agents : List Nat
deriving DecidableEq, Repr

/-! ## Links, root -/

/-- Port states (R318); `half` is the half that carries or will carry traffic. -/
inductive PortState where
  | up16
  | up8 (half : Nat)
  | degrading (half since : Nat)
  | retrain (maxWidth since : Nat)
  | down
deriving DecidableEq, Repr

/-- Keys of one direction (R319, R336): the sender's epoch (0: no key yet), the next key installed, the cycle at which the
marker was accepted, and the count of packets sent under the epoch. -/
structure KeyDir where
  send : Nat
  installed : Bool
  marker : Option Nat
  count : Nat
deriving DecidableEq, Repr

/-- A fabric port (R316 to R319). -/
structure Port where
  st : PortState
  /-- Lanes that do not train, as a mask (R318). -/
  failed : Nat
  bad : Nat
  sendSeq : Nat
  recvSeq : Nat
  unacked : List Packet
  sentAt : Nat
  ackDue : Option Nat
  tx : KeyDir
  rx : KeyDir
  replays : Nat
  /-- The latest acknowledgement-only packet that the port has sent (R317). -/
  ackOut : Option Packet
deriving DecidableEq, Repr

/-- A die-to-die link (R336, R339): the keyed epoch, and the roll of its two directions. -/
structure Link where
  keyed : Bool
  epoch : Nat
  dirA : KeyDir
  dirB : KeyDir
  down : Bool
deriving DecidableEq, Repr

/-- A root command that waits for another to finish (R338). -/
inductive RootCmd where
  | roll
  | reset (d : Nat)
  | quarantine (d : Nat)
  | attest (d : Nat)
deriving DecidableEq, Repr

/-- A transfer that reaches this device and is not complete (R285, R296): the command that sent it, where that is one of
this device; the die at which it enters; how many of its steps are done (each byte, then the tile's arrival, then the flag);
since when the next is stalled; and whether it has failed, and the rest of it is ignored. `owner` is the team that owned its
tile when it was accepted. -/
structure Inbound where
  x : Transfer
  owner : Option TeamId
  cmd : Option Nat
  via : Nat
  done : Nat
  stall : Option Nat
  failed : Bool
deriving DecidableEq, Repr

/-- The package root and the device's own settings (R216, R337, R338, R343, R345, R356). -/
structure Root where
  power : Bool
  rolling : Bool
  rollOrder : List Nat
  /-- Die-to-die links that the current ROLL has rolled. -/
  rolled : List Nat
  busy : Option Nat
  deferred : List RootCmd
  rollInterval : Nat
  lastRoll : Nat
  /-- The cycle at which the package was powered on. -/
  poweredAt : Nat
  queue : RecQueue
  frameTable : Nat
  clsN : Nat
  clsT : Nat
  /-- Reports and refusals the supervisor and the host are given, newest first: a code and a value. -/
  reports : List (Nat × Nat)
  /-- Bytes answered to host reads and notification writes sent, newest first. -/
  hostOut : List (Nat × List Nat)
  inbound : List Inbound
  /-- Migration requests that have arrived in this cycle: frame and agent (R219). -/
  requests : List (Nat × Nat)
  /-- Host accesses that wait for a die in Dusk or at a locked frame (R18, R219): agent, access, and since when. -/
  hostWait : List (Nat × HostOp × Nat)
deriving DecidableEq, Repr

/-! ## The issue and the clock -/

/-- The instruction being issued: what the picker formed (R61). -/
structure Issue where
  slot : Option Instr
  bundle : List ThreadId
  pc : Nat
  word : Nat
  len : Nat
  num : Nat
  /-- Recipes regenerated (0) and materialised (1) for the issue, each once: SLICE address, register, which, and the
  cycles that it takes (R162). -/
  work : List (Nat × Nat × Nat × Nat)
deriving DecidableEq, Repr

/-- Time (R5) and the model's own counters: events so far, the quadrant whose picker acts next, the next number for
an access, issue, command or grid, and how many lease windows have ended (R210). -/
structure Clock where
  cycle : Nat
  tick : Nat
  turn : Nat
  fresh : Nat
  windows : Nat
deriving DecidableEq, Repr

/-- The machine. `agenda` is the model's own field: what happens next, in order, where the spec leaves it open
(log entry 3). -/
structure State where
  agenda : List Instr
  issue : Issue
  clock : Clock
  threads : List Thread
  groups : List Group
  teams : List Team
  grids : List Grid
  ops : List Op
  cmds : List Cmd
  cores : List (Nat × Core)
  quads : List (Nat × Quad)
  dies : List (Nat × Die)
  mem : List Host.Cell
  poison : List Nat
  chains : List (Nat × Chain)
  parts : List (Nat × Part)
  vfs : List (Nat × Vf)
  ports : List (Nat × Port)
  links : List (Nat × Link)
  domain : List (Nat × DomainEntry)
  events : List (Nat × Nat)
  root : Root
deriving DecidableEq, Repr

/-! ## Reset values -/

/-- A queue that no supervisor has set (R343). -/
def RecQueue.unset : RecQueue := { base := 0, len := 0, posted := 0, taken := 0, notify := 0 }

/-- A core with nothing in it; tiles, codebook and fusion mode at their reset values (R285, R246, R275); the overflow
area at the default size of R216. -/
def Core.reset : Core :=
  { blocks := [], images := [], writes := [], poison := [], predictor := [], tlb := [], tiles := [], tileCopies := [],
    codebook := [], fuse := [], ovBase := 0, ovSize := 16777216, freed := [] }

/-- No weights and no format (WFMT 0x1F, R275). -/
def Latch.reset : Latch := { fmt := none, cols := [], scales := [] }

/-- A tile of +0, NANS and INFS clear (R275; the elements: log entry 1). -/
def Tile.zero : Tile := { els := [], nans := false, infs := false, poison := false }

/-- A quadrant with nothing in it (R275). -/
def Quad.reset : Quad :=
  { tlb := [], victims := [], slotUntil := 0, sfUntil := 0, regenUntil := 0, lastClass := [], lastSeed := none, tiles := [],
    latch := Latch.reset, issuedFmt := none, epi := [], env := false, eof := false, mism := 0, tmms := 0,
    migrating := none }

/-- A die in Dawn (R337), with the cold-queue defaults of R216. -/
def Die.reset : Die :=
  { st := .dawn, cause := .none, since := 0, attested := false, resets := 0, waiting := [], relHeld := [], cls := [], l2 := [], cached := [],
    temp := none, scrubPos := 0, scrubStart := 0, scrubAt := 0, spares := [], sweepPos := 0, sweepAt := 0, coldBase := 0, coldLen := 65536,
    produced := 0, consumed := 0, watermark := 16384, coldAge := 4, lastAttest := none }

/-- No key yet: the first has epoch 1 (R336). -/
def KeyDir.reset : KeyDir := { send := 0, installed := false, marker := none, count := 0 }

/-- The keys of a direction at an epoch. -/
def KeyDir.at_ (n : Nat) : KeyDir := { KeyDir.reset with send := n }

/-- A port at full width with no traffic (log entry 6), and without a key: it carries no data before its partner's session
has given it one (R334, R336). -/
def Port.reset : Port :=
  { st := .up16, failed := 0, bad := 0, sendSeq := 0, recvSeq := 0, unacked := [], sentAt := 0, ackDue := none,
    tx := KeyDir.reset, rx := KeyDir.reset, replays := 0, ackOut := none }

/-- A link that carries no data until it is keyed (R336). -/
def Link.reset : Link :=
  { keyed := false, epoch := 0, dirA := KeyDir.reset, dirB := KeyDir.reset, down := false }

/-- A chain no supervisor has set (R224). -/
def Chain.unset : Chain :=
  { vf := 0, first := 0, tail := 0, done := 0, compaddr := 0, notify := 0, enable := false, off := false, next := 0, read := 0,
    halted := false, entries := [], queue := [], stalls := [], faulted := none }

/-- A partition without quadrants, its settings at the defaults of R216 and R236. -/
def Part.unset : Part :=
  { quads := [], saveBase := 0, threshold := 64, schedMode := 0, schedOld := none, hangLimit := 1400000000, tags := [], colls := [],
    bindings := [], codes := [], queue := RecQueue.unset, views := [], viewBase := [], derived := [], replay := none }

/-- A virtual function that is not set up (R238). -/
def Vf.unset : Vf := { tenant := 0, part := 0, root := 0, enabled := false, disabling := false, agents := [] }

/-- A guard slot at team start (R298). -/
def Slot.reset : Slot := { st := .free, gen := 0 }

/-- A named barrier at team start (R306). -/
def Barrier.reset : Barrier := { e := 0, c := 0, live := false, gen := 0, here := [] }

/-- An epilogue entry that is FREE (R272). -/
def EpiEntry.free : EpiEntry :=
  { st := .free, cmd := 0, tileNo := 0, image := Tile.zero, row := 0, ahead := [], due := 0, bias := none, oob := false,
    marks := [] }

/-- The root after power-on: no command, rollover every hour in cycles of 1.4 GHz (R338), N 3 and T 24 h (R345). -/
def Root.reset : Root :=
  { power := true, rolling := false, rollOrder := [], rolled := [], busy := none, deferred := [], rollInterval := 5040000000000,
    lastRoll := 0, poweredAt := 0, queue := RecQueue.unset, frameTable := 0, clsN := 3, clsT := 120960000000000, reports := [],
    hostOut := [], inbound := [], requests := [], hostWait := [] }

/-- Right after package power-on: every die in Dawn (R337), nothing resident, memory with nothing listed. -/
def State.reset : State :=
  { agenda := [], issue := { slot := none, bundle := [], pc := 0, word := 0, len := 0, num := 0, work := [] },
    clock := { cycle := 0, tick := 0, turn := 0, fresh := 0, windows := 0 }, threads := [], groups := [], teams := [], grids := [],
    ops := [], cmds := [], cores := [], quads := [], dies := [], mem := [], poison := [], chains := [], parts := [],
    vfs := [], ports := [], links := [], domain := [], events := [], root := Root.reset }

end Sys2Proof.Machine
end

