-- ==== Sys2Proof/Machine/Ops.lean ====
section
/-! DEFINITION. The named operations over the state: sparse tables, memory, registers, the parts of the state by name,
taking an exception (R36, R341 to R343) and returning from one (R141, R214, R343). -/

namespace Sys2Proof.Machine

/-! ## Sparse tables -/

/-- The value at a key; `d` where the table lists none. -/
def tget {α : Type} (d : α) : List (Nat × α) → Nat → α
  | [], _ => d
  | (k', v) :: r, k => if k' = k then v else tget d r k

/-- The table without a key. -/
def tdel {α : Type} (m : List (Nat × α)) (k : Nat) : List (Nat × α) := m.filter fun e => decide (e.1 ≠ k)

/-- The table with an entry placed in order. -/
def tins {α : Type} : List (Nat × α) → Nat → α → List (Nat × α)
  | [], k, v => [(k, v)]
  | (k', v') :: r, k, v => if k < k' then (k, v) :: (k', v') :: r else (k', v') :: tins r k v

/-- The table with a value at a key; writing the default removes the entry. -/
def tput {α : Type} [DecidableEq α] (d : α) (m : List (Nat × α)) (k : Nat) (v : α) : List (Nat × α) :=
  if v = d then tdel m k else tins (tdel m k) k v

/-- Keys strictly rising. -/
def tsorted {α : Type} : List (Nat × α) → Bool
  | [] => true
  | [_] => true
  | (k, _) :: (k', v') :: r => decide (k < k') && tsorted ((k', v') :: r)

/-! ## Memory -/

/-- What a byte that nothing has written reads as (log entry 2). -/
def Memory.blank : Byte := 0

/-- One byte of memory (R209). -/
def Memory.read (m : List Host.Cell) (a : Nat) : Byte := tget Memory.blank m a

/-- Writes one byte, keeping the canonical form. -/
def Memory.write (m : List Host.Cell) (a : Nat) (b : Byte) : List Host.Cell := tput Memory.blank m a b

/-- The canonical form: addresses strictly rising, no entry that reads as an unlisted byte does. -/
def Memory.wf (m : List Host.Cell) : Bool := tsorted m && m.all fun e => decide (e.2 ≠ Memory.blank)

/-- Consecutive bytes from an address. -/
def Memory.readN (m : List Host.Cell) (a : Nat) : Nat → List Byte
  | 0 => []
  | n + 1 => Memory.read m a :: Memory.readN m (a + 1) n

/-- Writes consecutive bytes from an address. -/
def Memory.writeN (m : List Host.Cell) (a : Nat) : List Byte → List Host.Cell
  | [] => m
  | b :: r => Memory.writeN (Memory.write m a b) (a + 1) r

/-- The number that bytes hold, lowest address first (R4). -/
def leNat : List Byte → Nat
  | [] => 0
  | b :: r => b.toNat + 256 * leNat r

/-- The `n` bytes of a number, lowest address first (R4). -/
def natLE (n v : Nat) : List Byte :=
  match n with
  | 0 => []
  | k + 1 => BitVec.ofNat 8 v :: natLE k (v / 256)

/-! ## Indexes -/

def CoreId.idx (c : CoreId) : Nat := c.die * 48 + c.core
def QuadId.idx (q : QuadId) : Nat := (q.die * 48 + q.core) * 4 + q.quad

/-- Masks of TIDs as numbers: bit test, set and clear. -/
def mbit (m t : Nat) : Bool := m.testBit t
def mset (m t : Nat) : Nat := if m.testBit t then m else m + 2 ^ t
def mclr (m t : Nat) : Nat := if m.testBit t then m - 2 ^ t else m

/-- The mask of a list of TIDs. -/
def maskOf (ts : List Nat) : Nat := ts.foldl mset 0

/-- One below 2^n and the bits below it. -/
def ones (n : Nat) : Nat := 2 ^ n - 1

/-! ## The parts of the state -/

def State.thread? (s : State) (t : ThreadId) : Option Thread := s.threads.find? fun x => decide (x.id = t)
def State.group? (s : State) (g : GroupId) : Option Group := s.groups.find? fun x => decide (x.id = g)
def State.team? (s : State) (t : TeamId) : Option Team := s.teams.find? fun x => decide (x.id = t)
def State.grid? (s : State) (g : Nat) : Option Grid := s.grids.find? fun x => decide (x.id = g)
def State.op? (s : State) (n : Nat) : Option Op := s.ops.find? fun x => decide (x.id = n)
def State.cmd? (s : State) (n : Nat) : Option Cmd := s.cmds.find? fun x => decide (x.id = n)
def State.core (s : State) (c : CoreId) : Core := tget Core.reset s.cores (CoreId.idx c)
def State.quad (s : State) (q : QuadId) : Quad := tget Quad.reset s.quads (QuadId.idx q)
def State.die (s : State) (d : Nat) : Die := tget Die.reset s.dies d
def State.part (s : State) (p : Nat) : Part := tget Part.unset s.parts p
def State.vf (s : State) (v : Nat) : Vf := tget Vf.unset s.vfs v
def State.chain (s : State) (c : Nat) : Chain := tget Chain.unset s.chains c
def State.port (s : State) (p : Nat) : Port := tget Port.reset s.ports p
def State.link (s : State) (l : Nat) : Link := tget Link.reset s.links l

/-- Applies `f` to each thread. -/
def State.mapThreads (f : Thread → Thread) (s : State) : State := { s with threads := s.threads.map f }
/-- Applies `f` to one thread. -/
def State.modThread (t : ThreadId) (f : Thread → Thread) (s : State) : State :=
  s.mapThreads fun x => if x.id = t then f x else x
def State.modGroup (g : GroupId) (f : Group → Group) (s : State) : State :=
  { s with groups := s.groups.map fun x => if x.id = g then f x else x }
def State.modTeam (t : TeamId) (f : Team → Team) (s : State) : State :=
  { s with teams := s.teams.map fun x => if x.id = t then f x else x }
def State.modGrid (g : Nat) (f : Grid → Grid) (s : State) : State :=
  { s with grids := s.grids.map fun x => if x.id = g then f x else x }
def State.modOp (n : Nat) (f : Op → Op) (s : State) : State :=
  { s with ops := s.ops.map fun x => if x.id = n then f x else x }
def State.modCmd (n : Nat) (f : Cmd → Cmd) (s : State) : State :=
  { s with cmds := s.cmds.map fun x => if x.id = n then f x else x }
def State.modCore (c : CoreId) (f : Core → Core) (s : State) : State :=
  { s with cores := tput Core.reset s.cores (CoreId.idx c) (f (s.core c)) }
def State.modQuad (q : QuadId) (f : Quad → Quad) (s : State) : State :=
  { s with quads := tput Quad.reset s.quads (QuadId.idx q) (f (s.quad q)) }
def State.modDie (d : Nat) (f : Die → Die) (s : State) : State :=
  { s with dies := tput Die.reset s.dies d (f (s.die d)) }
def State.modPart (p : Nat) (f : Part → Part) (s : State) : State :=
  { s with parts := tput Part.unset s.parts p (f (s.part p)) }
def State.modVf (v : Nat) (f : Vf → Vf) (s : State) : State :=
  { s with vfs := tput Vf.unset s.vfs v (f (s.vf v)) }
def State.modChain (c : Nat) (f : Chain → Chain) (s : State) : State :=
  { s with chains := tput Chain.unset s.chains c (f (s.chain c)) }
def State.modPort (p : Nat) (f : Port → Port) (s : State) : State :=
  { s with ports := tput Port.reset s.ports p (f (s.port p)) }
def State.modLink (l : Nat) (f : Link → Link) (s : State) : State :=
  { s with links := tput Link.reset s.links l (f (s.link l)) }
def State.modRoot (f : Root → Root) (s : State) : State := { s with root := f s.root }
/-- The supervisors and agents are told: a code and a value. -/
def State.report (code v : Nat) (s : State) : State := s.modRoot fun r => { r with reports := (code, v) :: r.reports }
def State.setMem (s : State) (m : List Host.Cell) : State := { s with mem := m }
def State.setOps (s : State) (o : List Op) : State := { s with ops := o }
def State.setCmds (s : State) (c : List Cmd) : State := { s with cmds := c }
def State.dropOp (n : Nat) (s : State) : State := s.setOps (s.ops.filter fun o => decide (o.id ≠ n))
def State.dropCmd (n : Nat) (s : State) : State := s.setCmds (s.cmds.filter fun c => decide (c.id ≠ n))
/-- Counts a raw event (R353). -/
def State.count (n by_ : Nat) (s : State) : State := { s with events := tput 0 s.events n (tget 0 s.events n + by_) }
/-- Takes a fresh number. -/
def State.bump (n : Nat) (s : State) : State := { s with clock := { s.clock with fresh := s.clock.fresh + n } }

/-- The grid, partition and tenant of a thread's work. -/
def State.gridOf (s : State) (t : ThreadId) : Option Grid := s.grid? t.grid
def State.tenantOf (s : State) (t : ThreadId) : Nat := ((s.gridOf t).map Grid.tenant).getD 0
def State.partOf (s : State) (t : ThreadId) : Nat := ((s.gridOf t).map Grid.part).getD 0
def State.vfOf (s : State) (t : ThreadId) : Nat := ((s.gridOf t).map Grid.vf).getD 0
def State.reqtagOf (s : State) (t : ThreadId) : Nat := ((s.gridOf t).map Grid.reqtag).getD 0
/-- The launch's register count (R40 step 7). -/
def State.regsOf (s : State) (t : ThreadId) : Nat := ((s.gridOf t).map fun g => g.desc.regs).getD 0

def Thread.qid (t : Thread) : QuadId := { die := t.core.die, core := t.core.core, quad := t.quad }

/-! ## Registers of a thread -/

/-- Register number `r`: g0 reads zero (R46); a recipe reads the value regenerated for this issue (R161). -/
def Thread.reg (t : Thread) (r : Nat) : Word :=
  if r = 0 then 0
  else match t.regen.find? fun e => decide (e.1 = r) with
    | some e => e.2
    | none => tget 0 t.regs r

def RForm.value : RForm := { recipe := false, backed := false, entry := 0 }

/-- Writes register number `r`: g0 discards (R46); the register becomes a value that is not Backed (R155), and a
write of the whole register clears its poison (R344). -/
def Thread.setReg (t : Thread) (r : Nat) (v : Word) : Thread :=
  if r = 0 then t
  else { t with regs := tput 0 t.regs r v, forms := tdel t.forms r, poisoned := t.poisoned.filter fun x => decide (x ≠ r) }

/-- The pair of an even register, odd register high (R4, R46). -/
def Thread.pair (t : Thread) (r : Nat) : DWord := (t.reg (r + 1)) ++ (t.reg r)

def Thread.setPair (t : Thread) (r : Nat) (v : DWord) : Thread :=
  (t.setReg r (v.extractLsb' 0 32)).setReg (r + 1) (v.extractLsb' 32 32)

/-- Writes consecutive registers. -/
def Thread.setRegs (t : Thread) (r : Nat) : List Word → Thread
  | [] => t
  | v :: vs => (t.setReg r v).setRegs (r + 1) vs

/-- Reads `n` consecutive registers. -/
def Thread.regsFrom (t : Thread) (r : Nat) : Nat → List Word
  | 0 => []
  | n + 1 => t.reg r :: t.regsFrom (r + 1) n

/-- Predicate `q`: q0 reads 1 (R37). -/
def Thread.pred (t : Thread) (q : Nat) : Bool := if q = 0 then true else t.preds.testBit q

/-- Writes predicate `q`: q0 discards (R37). -/
def Thread.setPred (t : Thread) (q : Nat) (v : Bool) : Thread :=
  if q = 0 then t else { t with preds := if v then mset t.preds q else mclr t.preds q }

/-- Passes(Q, N, l) (R28, listing 48 and 49). -/
def Thread.passes (t : Thread) (g : Guard) : Bool := t.pred g.q != g.neg

/-- Listing 41 to 43: a field below 16 is an anchor register, the others are offset by the window base (R26, R45). -/
def regNo (wb f : Nat) : Nat := if f < 16 then f else f + wb

/-! ## Fault records (R342) -/

/-- The fields of a record by name. -/
structure RecInfo where
  cause : Nat
  under : Nat := 0
  reason : Nat := 0
  kind : Nat := 0
  addr0 : Nat := 0
  addr1 : Nat := 0
  info : Nat := 0
  aux0 : Nat := 0
  aux1 : Nat := 0
  /-- The die that cause 0x0C names; without one, the die of the work. -/
  die : Option Nat := none
  /-- The addresses are the lane's own (R39, R141, R144): lanes with others have records of their own, but those of cause 0x16,
  of which a group has one record (R326). -/
  own : Bool := false
  /-- One record stands for every group of a team (R360). -/
  team : Bool := false
deriving DecidableEq, Repr

def DieState.code : DieState → Nat
  | .dawn => 0 | .noon => 1 | .dusk => 2 | .midnight => 3

/-- The sixteen words of R342; bit 31 of word 15 (PHASE) is set when the record is posted. -/
def recordWords (i : RecInfo) (reqtag tenant grid team gidx tids die dstate core quad : Nat) : List Nat :=
  [i.cause * 16777216 + i.under * 65536 + i.reason * 256 + i.kind * 16,
   reqtag % 65536 * 65536 + tenant % 65536, grid % 4294967296, team % 16777216 * 256 + gidx % 16 * 16,
   tids % 4294967296, tids / 4294967296 % 4294967296, i.addr0 % 4294967296, i.addr0 / 4294967296 % 4294967296,
   i.addr1 % 4294967296, i.addr1 / 4294967296 % 4294967296,
   die * 536870912 + dstate * 134217728 + core * 2097152 + quad * 524288, i.info % 4294967296,
   i.aux0 % 4294967296, i.aux0 / 4294967296 % 4294967296, i.aux1 % 4294967296, i.aux1 / 4294967296 % 65536]

/-- A record joins the waiting records of the die that raised it, to be posted by FAULT_RECORD_POST (R343). -/
def State.waitRecord (d : Nat) (r : Record) (s : State) : State :=
  s.modDie d fun x => { x with waiting := x.waiting ++ [r] }

/-- The record of parked lanes of one group; DIE is the die named, with its state. -/
def State.groupRecord (g : Group) (tids die : Nat) (i : RecInfo) (s : State) : Record :=
  let gr := s.grid? g.id.grid
  { q := .part ((gr.map Grid.part).getD 0),
    words := recordWords i ((gr.map Grid.reqtag).getD 0) ((gr.map Grid.tenant).getD 0) g.id.grid g.id.team g.id.group
      tids die (DieState.code (s.die die).st) g.core.core g.quad }

/-- A reliability or die record to the device queue (R342, R345). -/
def deviceRecord (die : DieState) (d core quad reqtag : Nat) (i : RecInfo) : Record :=
  { q := .device, words := recordWords i reqtag 0 0 0 0 0 d (DieState.code die) core quad }

/-! ## Taking an exception (R36, R141) -/

/-- A lane that faults: the thread, and what its record says. -/
structure LaneFault where
  th : ThreadId
  info : RecInfo
  resume : Nat
deriving DecidableEq, Repr

/-- Two lane faults that one record may stand for. -/
def RecInfo.shares (i j : RecInfo) : Bool :=
  decide (i.cause = j.cause ∧ i.reason = j.reason ∧ i.under = j.under ∧ i.own = j.own ∧ i.team = j.team ∧
    (i.own = true → i.addr0 = j.addr0 ∧ (i.cause = 0x16 ∨ i.addr1 = j.addr1)))

/-- The lane faults of a group that share a record. -/
def sharing (fs : List LaneFault) (g : GroupId) (i : RecInfo) : List LaneFault :=
  fs.filter fun f => decide (f.th.gid = g) && f.info.shares i

/-- The threads of a group whose faults share a record, as a mask. -/
def faultMask (fs : List LaneFault) (g : GroupId) (i : RecInfo) : Nat := maskOf ((sharing fs g i).map fun f => f.th.tid)

/-- The lowest FAULTADDR1 among the lanes that share a record (R214). -/
def faultLow (fs : List LaneFault) (g : GroupId) (i : RecInfo) : Nat :=
  (sharing fs g i).foldl (fun m f => Nat.min m f.info.addr1) i.addr1

/-- FAULTADDR1 of a lane: its own, or the lowest of those that share its record. -/
def LaneFault.at1 (fs : List LaneFault) (f : LaneFault) : Nat := if f.info.own then f.info.addr1 else faultLow fs f.th.gid f.info

/-- A record of the first fault stands for the second too: they are of one group, or of one team where one record does
for a team. -/
def LaneFault.covers (h f : LaneFault) : Bool :=
  h.info.shares f.info && (decide (h.th.gid = f.th.gid) || (h.info.team && decide (h.th.tmid = f.th.tmid)))

/-- One fault per record: the first of the lanes that share it. -/
def recordHeads : List LaneFault → List LaneFault → List LaneFault
  | _, [] => []
  | seen, f :: r => if seen.any fun h => h.covers f then recordHeads seen r else f :: recordHeads (f :: seen) r

/-- A wait that holds a thread at an instruction which has not retired: the instruction executes again. -/
def Wait.holdsIssue : Wait → Bool
  | .fault _ _ _ _ _ _ | .dusk _ | .barArrive _ _ _ _ | .tbarArrive _ _ | .refill _ | .regen _ | .gslot _ => true
  | _ => false

/-- The words of the instruction in whose wait a thread is held, where its program counter has passed it. -/
def Wait.passed : Wait → Nat
  | .counts _ _ _ _ | .rejoin _ | .sleep _ | .yield _ => 1
  | .seq _ _ | .tile _ | .bar _ _ | .tbar _ _ | .phase _ | .capture _ | .status _ | .spawn _ _ _ _ _ => 2
  | _ => 0

/-- The address of the instruction at which a thread stands: the one that it waits in, or its next. -/
def Thread.standsAt (t : Thread) : Nat := (t.pc + 2 ^ 57 - 4 * t.wait.passed) % 2 ^ 57

/-- Parks one lane with its cause. A thread held in any other wait parks in that wait (R361), and the step trap that
follows the wait stays owed (R153). -/
def Thread.parkAt (c a0 a1 resume : Nat) (t : Thread) : Thread :=
  { t with park := some { cause := c, addr0 := a0, addr1 := a1, resume := resume },
           wait := if t.wait.holdsIssue then .none else t.wait, regen := [], stallAt := none,
           stepOwed := if t.wait = .none ∨ t.wait.holdsIssue then none else t.stepOwed }

/-- Adds the record of one head to the waiting records of its die. -/
def State.raiseRecord (fs : List LaneFault) (die : Option Nat) (f : LaneFault) (s : State) : State :=
  match s.group? f.th.gid with
  | none => s
  | some g =>
    s.waitRecord g.core.die
      (s.groupRecord g (faultMask fs g.id f.info) ((f.info.die.orElse fun _ => die).getD g.core.die)
        { f.info with addr1 := faultLow fs g.id f.info })

/-- TAKES THE EXCEPTION of every lane in `fs`: each parks with its cause, addresses and resumption point, and one
record per group and cause waits to be posted (R36, R214, R341, R343). `die` names another die for cause 0x0C. -/
def State.raise (fs : List LaneFault) (die : Option Nat) (s : State) : State :=
  (recordHeads [] fs).foldl (fun st f => st.raiseRecord fs die f)
    (s.mapThreads fun t =>
      match fs.find? fun f => decide (f.th = t.id) with
      | some f => t.parkAt f.info.cause f.info.addr0 (f.at1 fs) f.resume
      | none => t)

/-! ## Returning from an exception (R141, R214, R343) -/

/-- The supervisor resumes a parked thread: FAULTCAUSE and the addresses are loaded from its record, and it goes on at
its resumption point, or where the supervisor redirects it. -/
def Thread.resumeAt (pc : Option Nat) (t : Thread) : Thread :=
  match t.park with
  | none => t
  | some p =>
    { t with park := none, pc := pc.getD p.resume, faultCause := p.cause, faultAddr0 := p.addr0, faultAddr1 := p.addr1 }

/-! ## Counts (R15, R184) -/

/-- A group's count of a class. -/
def Group.countOf (g : Group) (c : CountClass) : Nat := (g.counts.filter fun x => decide (x.cls = c)).length

/-- Adds an issue with `n` lanes or commands to the count. -/
def Group.addCount (iss : Nat) (c : CountClass) (n : Nat) (g : Group) : Group :=
  if n = 0 then g else { g with counts := g.counts ++ [{ iss := iss, cls := c, left := n }] }

/-- One lane or command of an issue leaves the count. -/
def Group.leaveCount (iss : Nat) (g : Group) : Group :=
  { g with counts := ((g.counts.map fun x => if x.iss = iss then { x with left := x.left - 1 } else x).filter
      (fun x => decide (x.left ≠ 0))) }

/-! ## The issue -/

/-- What a lane does: it retires with new state, it faults, or it is held without retiring. -/
inductive LaneRes where
  | done (t : Thread)
  | fault (i : RecInfo) (resume : Nat)
  | hold (t : Thread)
deriving DecidableEq, Repr

/-- The address after the instruction being issued (R138). -/
def State.nextPc (s : State) : Nat := (s.issue.pc + 4 * (s.issue.len + 1)) % 2 ^ 57

/-- A thread stands at an instruction that it executes again, and will then go on from where it stood (R214). -/
def Thread.redoAt (op pc wb : Nat) (counted : Option Nat) (t : Thread) : Thread :=
  { t with redo := { op := op, pc := t.pc, wb := t.wb, wait := if t.wait.holdsIssue then .none else t.wait,
                     counted := t.counted, stepOwed := t.stepOwed } :: t.redo,
           pc := pc, wb := wb, wait := .none, counted := counted, stepOwed := none, stallAt := none }

/-- A thread is done with the instruction at its pc. One that executed it again goes on from where it stood (R214); the step
trap of this execution is due at once, and one owed for the wait it returns to stays owed (R153). -/
def Thread.leave (t : Thread) : Thread :=
  match t.redo with
  | [] => { t with regen := [], counted := none, stallAt := none }
  | r :: l => { t with pc := r.pc, wb := r.wb, wait := r.wait, counted := r.counted, stepOwed := r.stepOwed, stepNow := t.stepOwed, redo := l,
                       regen := [], stallAt := none }

/-- A thread retires: the retired-work count rises (R350), but not for an instruction that it executed again. -/
def Thread.retire (t : Thread) : Thread := { t.leave with retired := if t.redo.isEmpty then t.retired + 1 else t.retired }

/-- A thread of a group that retires with no effect (R257): its retired-work count does not rise (R350). -/
def Thread.retireIdle (t : Thread) : Thread := t.leave

/-- A thread is held at its instruction. One that is held by no wait issues it anew, and owes no step trap for this time. -/
def Thread.heldAt (pc : Nat) (t : Thread) : Thread :=
  { t with regen := [], pc := pc, stepOwed := if t.wait = .none then none else t.stepOwed }

/-- A member of a slice faults: the slice ends (R157). -/
def Thread.endSlice (t : Thread) : Thread := { t with slice := none }

/-- What a fault of the issued instruction reports: its address, and word 0 for causes 0x01 and 0x12 (R342). -/
def State.atIssue (s : State) (i : RecInfo) : RecInfo :=
  { i with addr0 := s.issue.pc, info := if i.cause = 0x01 ∨ i.cause = 0x12 then s.issue.word else i.info }

/-- The effect of a lane function on a thread of the bundle; its pc stands at the next instruction (R138). -/
def State.laneEffect (f : Thread → LaneRes) (s : State) (t : Thread) : Thread :=
  if t.id ∈ s.issue.bundle then
    match f { t with pc := s.nextPc } with
    | .done t' => t'.retire
    | .hold t' => t'.heldAt t.pc
    | .fault _ _ => t.endSlice
  else t

/-- The faults of a lane function over the bundle. -/
def State.laneFaults (f : Thread → LaneRes) (s : State) : List LaneFault :=
  (s.threads.filter fun t => decide (t.id ∈ s.issue.bundle)).filterMap fun t =>
    match f { t with pc := s.nextPc } with
    | .fault i r => some { th := t.id, info := s.atIssue i, resume := r }
    | _ => none

/-- The lane loop of R35 and R36: every lane of the bundle for itself; a faulting lane parks and has no effect. -/
def State.lanes (f : Thread → LaneRes) (s : State) : State :=
  (s.mapThreads (s.laneEffect f)).raise (s.laneFaults f) none

/-- A fault before any lane loop: every lane of the bundle parks at the instruction (R36). -/
def State.faultAll (i : RecInfo) (s : State) : State := s.lanes fun _ => .fault i s.issue.pc

end Sys2Proof.Machine
end

