-- ==== Sys2Proof/Machine/Operands.lean ====
section
/-! DEFINITION. The operand forms: register fields under the window base (R45), pairs (R46), anchors, immediates
(R43), packed elements (R51), and the lane loops that the instruction meanings share. -/

namespace Sys2Proof.Machine

/-- A 32-bit source field (R45). -/
def Thread.src (t : Thread) (f : Nat) : Word := t.reg (regNo t.wb f)
/-- A 64-bit source field: the pair from its even register (R46). -/
def Thread.srcPair (t : Thread) (f : Nat) : DWord := t.pair (regNo t.wb f)
/-- Writes a 32-bit destination field. -/
def Thread.dst (t : Thread) (f : Nat) (v : Word) : Thread := t.setReg (regNo t.wb f) v
/-- Writes a 64-bit destination field. -/
def Thread.dstPair (t : Thread) (f : Nat) (v : DWord) : Thread := t.setPair (regNo t.wb f) v
/-- A source of 32 or 64 bits as a number. -/
def Thread.srcN (t : Thread) (dbl : Bool) (f : Nat) : Nat := if dbl then (t.srcPair f).toNat else (t.src f).toNat
/-- Writes a destination of 32 or 64 bits. -/
def Thread.dstN (t : Thread) (dbl : Bool) (f : Nat) (v : Nat) : Thread :=
  if dbl then t.dstPair f (BitVec.ofNat 64 v) else t.dst f (BitVec.ofNat 32 v)

/-- A two-source operation on 32-bit registers. -/
def bin32 (op : Word → Word → Word) (d a b : Nat) (t : Thread) : Thread := t.dst d (op (t.src a) (t.src b))
/-- A two-source operation on pairs (R93). -/
def bin64 (op : DWord → DWord → DWord) (d a b : Nat) (t : Thread) : Thread :=
  t.dstPair d (op (t.srcPair a) (t.srcPair b))

/-- The bits of a number read as two's complement of width `w` (SInt, R37). -/
def sInt (w v : Nat) : Int := if v < 2 ^ (w - 1) then (v : Int) else (v : Int) - 2 ^ w
/-- Wrap(v, w) (R37). -/
def wrap (w : Nat) (v : Int) : Nat := (v % (2 ^ w : Int)).toNat
/-- The value clamped into a range. -/
def clampI (lo hi v : Int) : Int := if v < lo then lo else if hi < v then hi else v
/-- Clamp of R106 and R108: to a signed or an unsigned type of width `w`. -/
def clampTo (sg : Bool) (w : Nat) (v : Int) : Int :=
  if sg then clampI (-(2 ^ (w - 1))) (2 ^ (w - 1) - 1) v else clampI 0 (2 ^ w - 1) v
/-- Element `i` of width `e` of a number (R51). -/
def elem (e v i : Nat) : Nat := v / 2 ^ (e * i) % 2 ^ e
/-- The elements, element 0 in the lowest bits. -/
def fromElems (e : Nat) : List Nat → Nat
  | [] => 0
  | x :: xs => x + 2 ^ e * fromElems e xs
/-- The first `n` elements of a number. -/
def elems (e n v : Nat) : List Nat := (List.range n).map (elem e v)

/-- The bundle's lanes each take `f` and retire (R35): `f` sees the pc at the next instruction. -/
def State.lanesOk (f : Thread → Thread) (s : State) : State :=
  s.mapThreads fun t => if t.id ∈ s.issue.bundle then (f { t with pc := s.nextPc }).retire else t

/-- The bundle retires with no further effect. -/
def State.retireAll (s : State) : State := s.lanesOk id

/-- The threads of the bundle, in the order of R63: TEAMID, then GIDX, then TID. -/
def ThreadId.before (a b : ThreadId) : Bool :=
  decide (a.team < b.team) || (decide (a.team = b.team) && (decide (a.group < b.group) ||
    (decide (a.group = b.group) && decide (a.tid ≤ b.tid))))

/-- Inserts in the order of R63. -/
def insThread (t : Thread) : List Thread → List Thread
  | [] => [t]
  | x :: r => if ThreadId.before t.id x.id then t :: x :: r else x :: insThread t r

/-- The bundle's threads in the order of R63. -/
def State.bundleThreads (s : State) : List Thread :=
  (s.threads.filter fun t => decide (t.id ∈ s.issue.bundle)).foldr insThread []

/-- The groups, and the teams, that have threads in the bundle, in that order. -/
def State.bundleGroups (s : State) : List GroupId :=
  (s.bundleThreads.map fun t => t.id.gid).foldl (fun l g => if g ∈ l then l else l ++ [g]) []
def State.bundleTeams (s : State) : List TeamId :=
  (s.bundleThreads.map fun t => t.id.tmid).foldl (fun l g => if g ∈ l then l else l ++ [g]) []
/-- The leader of a group in the bundle: its thread of lowest TID (R257). -/
def State.groupLeader (s : State) (g : GroupId) : Option Thread := s.bundleThreads.find? fun t => decide (t.id.gid = g)
/-- The leader of a team in the bundle: lowest GIDX, then TID (R177). -/
def State.teamLeader (s : State) (g : TeamId) : Option Thread := s.bundleThreads.find? fun t => decide (t.id.tmid = g)

end Sys2Proof.Machine
end

