-- ==== Sys2Proof/Machine/Flags.lean ====
section
/-! DEFINITION. Floating-point formats, the flags of FPCSR (R114, R115), rounding (R37, R52, R115 to R117, R129) and the
conditions of the compares (R50). A value is exact until `roundTo` rounds it once. -/

namespace Sys2Proof.Machine

/-! ## Flags of FPCSR (R114) -/

def fNV : Nat := 1
def fDZ : Nat := 2
def fOF : Nat := 4
def fUF : Nat := 8
def fNX : Nat := 16

/-- The flags of two sets. -/
def forr (a b : Nat) : Nat := Nat.lor a b

/-! ## Formats (R115, R242 to R245) -/

/-- A binary floating format: significand bits with the hidden one, least and greatest normal exponents, stored
mantissa bits, and the largest finite magnitude's bits. -/
structure Fmt where
  p : Nat
  emin : Int
  man : Nat
  width : Nat
  maxBits : Nat
  nanBits : Nat
  infBits : Option Nat
deriving DecidableEq, Repr

def Fmt.f32 : Fmt := { p := 24, emin := -126, man := 23, width := 32, maxBits := 0x7F7FFFFF, nanBits := 0x7FC00000, infBits := some 0x7F800000 }
def Fmt.f64 : Fmt := { p := 53, emin := -1022, man := 52, width := 64, maxBits := 0x7FEFFFFFFFFFFFFF, nanBits := 0x7FF8000000000000, infBits := some 0x7FF0000000000000 }
def Fmt.f16 : Fmt := { p := 11, emin := -14, man := 10, width := 16, maxBits := 0x7BFF, nanBits := 0x7E00, infBits := some 0x7C00 }
def Fmt.bf16 : Fmt := { p := 8, emin := -126, man := 7, width := 16, maxBits := 0x7F7F, nanBits := 0x7FC0, infBits := some 0x7F80 }
def Fmt.e5m2 : Fmt := { p := 3, emin := -14, man := 2, width := 8, maxBits := 0x7B, nanBits := 0x7E, infBits := some 0x7C }
/-- No infinity; 0x7F and 0xFF are the NaNs (R129). -/
def Fmt.e4m3 : Fmt := { p := 4, emin := -6, man := 3, width := 8, maxBits := 0x7E, nanBits := 0x7F, infBits := none }
/-- No infinity and no NaN (R129). -/
def Fmt.e2m1 : Fmt := { p := 2, emin := 0, man := 1, width := 4, maxBits := 7, nanBits := 0, infBits := none }

/-- A decoded value: m × 2^e with a sign, an infinity, or a NaN that may be signalling. -/
inductive FV where
  | fin (neg : Bool) (m : Nat) (e : Int)
  | inf (neg : Bool)
  | nan (sig : Bool)
deriving DecidableEq, Repr

/-- The bits without the sign. -/
def Fmt.mag (F : Fmt) (x : Nat) : Nat := x % 2 ^ (F.width - 1)
def Fmt.neg (F : Fmt) (x : Nat) : Bool := x.testBit (F.width - 1)

/-- Decodes the bits of a format. -/
def Fmt.dec (F : Fmt) (x : Nat) : FV :=
  let g := F.mag x
  let nan := match F.infBits with
    | some i => decide (i < g)
    | none => decide (F.maxBits < g)
  if nan then .nan (decide (8 < F.width) && !(x.testBit (F.man - 1)))
  else if F.infBits = some g then .inf (F.neg x)
  else
    let ex := g / 2 ^ F.man
    if ex = 0 then .fin (F.neg x) g (F.emin - F.man)
    else .fin (F.neg x) (g % 2 ^ F.man + 2 ^ F.man) (F.emin - F.man + (ex - 1 : Nat))

/-- The largest finite value as m × 2^e. -/
def Fmt.maxM (F : Fmt) : Nat := F.maxBits % 2 ^ F.man + 2 ^ F.man
def Fmt.maxE (F : Fmt) : Int := F.emin - F.man + (F.maxBits / 2 ^ F.man - 1 : Nat)

def Fmt.signBit (F : Fmt) (neg : Bool) : Nat := if neg then 2 ^ (F.width - 1) else 0

/-- A mode resolved for one element: STO carries its draw r (R117). -/
inductive Mode where
  | rne | rz | rdn | rup | rna
  | sto (r : Nat)
deriving DecidableEq, Repr

/-! ## Rounding -/

/-- 2^e as a fraction applied to n / d: the numerator and denominator of (n / d) ÷ 2^e. -/
def scaleN (n : Nat) (e : Int) : Nat := if e < 0 then n * 2 ^ e.natAbs else n
def scaleD (d : Nat) (e : Int) : Nat := if e < 0 then d else d * 2 ^ e.natAbs

/-- floor(log2(n / d)), n and d positive. -/
def flog2 (n d : Nat) : Int :=
  let k : Int := (Nat.log2 n : Int) - (Nat.log2 d : Int)
  if scaleN n k < scaleD d k then k - 1 else k

/-- Whether the magnitude rounds up from the lower neighbour q, with remainder r of den. -/
def roundsUp (m : Mode) (neg : Bool) (q r den : Nat) : Bool :=
  match m with
  | .rne => decide (den < 2 * r) || (decide (2 * r = den) && decide (q % 2 = 1))
  | .rz => false
  | .rdn => neg && decide (r ≠ 0)
  | .rup => !neg && decide (r ≠ 0)
  | .rna => decide (den ≤ 2 * r) && decide (r ≠ 0)
  | .sto k => decide (r ≠ 0) && decide (k < r * 16777216 / den)

/-- n / d rounded to a multiple of 2^e: the integer multiple, and whether it differs from n / d. -/
def quantize (m : Mode) (neg : Bool) (n d : Nat) (e : Int) : Nat × Bool :=
  let den := scaleD d e
  let q := scaleN n e / den
  let r := scaleN n e % den
  (if roundsUp m neg q r den then q + 1 else q, decide (r ≠ 0))

/-- q × 2^e < q' × 2^e', magnitudes. -/
def magLt (q : Nat) (e : Int) (q' : Nat) (e' : Int) : Bool :=
  let k := if e < e' then e else e'
  decide (q * 2 ^ (e - k).toNat < q' * 2 ^ (e' - k).toNat)

/-- The bits of q × 2^e in a format that holds it exactly, e at or above the least quantum. -/
def Fmt.enc (F : Fmt) (q : Nat) (e : Int) : Nat :=
  if q = 0 then 0
  else
    let k := Nat.log2 q
    -- normal when the leading bit has weight 2^emin or more
    let top : Int := e + k
    if top < F.emin then q * 2 ^ (e - (F.emin - F.man)).toNat
    else (top - F.emin + 1).toNat * 2 ^ F.man +
      (if k ≤ F.man then q * 2 ^ (F.man - k) else q / 2 ^ (k - F.man)) % 2 ^ F.man

/-- What a format delivers for a finite value beyond its range (R115, R116, R117, R129), with its flags. -/
def Fmt.over (F : Fmt) (m : Mode) (sat neg : Bool) : Nat × Nat :=
  if sat then (F.signBit neg + F.maxBits, forr fOF fNX)
  else match F.infBits with
    | some i =>
      let toInf := match m with
        | .rne | .rna | .sto _ => true
        | .rz => false
        | .rdn => neg
        | .rup => !neg
      (F.signBit neg + (if toInf then i else F.maxBits), forr fOF fNX)
    | none =>
      if F.width = 4 then (F.signBit neg + F.maxBits, forr fNV (forr fOF fNX))
      else (F.nanBits, forr fOF fNX)

/-- RoundTo of a magnitude n / d (d positive) with a sign: the bits and the flags OF, UF, NX (R115). -/
def Fmt.round (F : Fmt) (m : Mode) (sat neg : Bool) (n d : Nat) : Nat × Nat :=
  if n = 0 then (F.signBit neg, 0)
  else
    let k := flog2 n d
    let eu := k - (F.p - 1 : Nat)
    let least := F.emin - (F.man : Int)
    let u := quantize m neg n d eu
    if magLt F.maxM F.maxE u.1 eu then F.over m sat neg
    else
      let e := if eu < least then least else eu
      let b := quantize m neg n d e
      let tiny := magLt u.1 eu 1 F.emin
      (F.signBit neg + F.enc b.1 e,
        (if b.2 then fNX else 0) + (if tiny && b.2 then fUF else 0))

/-- RoundTo of z × 2^e; `zneg` is the sign of an exact zero. -/
def Fmt.roundZ (F : Fmt) (m : Mode) (sat : Bool) (z : Int) (e : Int) (zneg : Bool) : Nat × Nat :=
  F.round m sat (if z = 0 then zneg else decide (z < 0))
    (if e < 0 then z.natAbs else z.natAbs * 2 ^ e.natAbs) (if e < 0 then 2 ^ e.natAbs else 1)

/-- The infinity that a result delivers: types without one follow R129. -/
def Fmt.inf (F : Fmt) (sat neg : Bool) : Nat × Nat :=
  match F.infBits with
  | some i => (F.signBit neg + i, 0)
  | none =>
    if sat then (F.signBit neg + F.maxBits, forr fOF fNX)
    else if F.width = 4 then (F.signBit neg + F.maxBits, fNV)
    else (F.nanBits, fNV)

/-- The NaN that a result delivers, with NV when an operand is signalling. -/
def Fmt.nan (F : Fmt) (nv : Bool) : Nat × Nat := (F.nanBits, if nv then fNV else 0)

def FV.isSig : FV → Bool
  | .nan s => s
  | _ => false

def FV.isNan : FV → Bool
  | .nan _ => true
  | _ => false

/-- The sign of an exact zero sum of operands of opposite sign (R115). -/
def zeroNeg (m : Mode) (a b : Bool) : Bool := if a = b then a else decide (m = .rdn)

/-- z × 2^e of a finite value. -/
def FV.z : FV → Int × Int
  | .fin neg m e => (if neg then -(m : Int) else (m : Int), e)
  | _ => (0, 0)

/-- The sum of two exact values z × 2^e. -/
def addZ (a b : Int × Int) : Int × Int :=
  let e := if a.2 < b.2 then a.2 else b.2
  (a.1 * 2 ^ (a.2 - e).toNat + b.1 * 2 ^ (b.2 - e).toNat, e)

def FV.negate : FV → FV
  | .fin n m e => .fin (!n) m e
  | .inf n => .inf (!n)
  | .nan s => .nan s

/-- a + b rounded once (R115). -/
def Fmt.add (F : Fmt) (m : Mode) (sat : Bool) (a b : FV) : Nat × Nat :=
  match a, b with
  | .nan s, y => F.nan (s || y.isSig)
  | x, .nan s => F.nan (s || x.isSig)
  | .inf n, .inf n' => if n = n' then F.inf sat n else F.nan true
  | .inf n, _ => F.inf sat n
  | _, .inf n => F.inf sat n
  | .fin n ma ea, .fin n' mb eb =>
    let v := addZ (FV.z (.fin n ma ea)) (FV.z (.fin n' mb eb))
    F.roundZ m sat v.1 v.2 (zeroNeg m n n')

/-- a × b rounded once (R115). -/
def Fmt.mul (F : Fmt) (m : Mode) (sat : Bool) (a b : FV) : Nat × Nat :=
  match a, b with
  | .nan s, y => F.nan (s || y.isSig)
  | x, .nan s => F.nan (s || x.isSig)
  | .inf n, .inf n' => F.inf sat (n != n')
  | .inf n, .fin n' mb _ => if mb = 0 then F.nan true else F.inf sat (n != n')
  | .fin n ma _, .inf n' => if ma = 0 then F.nan true else F.inf sat (n != n')
  | .fin n ma ea, .fin n' mb eb =>
    F.roundZ m sat (if n != n' then -((ma * mb : Nat) : Int) else (ma * mb : Nat)) (ea + eb) (n != n')

/-- An exact product: a signed value, an infinity, or invalid (R115). -/
def prod (a b : FV) : FV :=
  match a, b with
  | .nan s, y => .nan (s || y.isSig)
  | x, .nan s => .nan (s || x.isSig)
  | .inf n, .inf n' => .inf (n != n')
  | .inf n, .fin n' mb _ => if mb = 0 then .nan true else .inf (n != n')
  | .fin n ma _, .inf n' => if ma = 0 then .nan true else .inf (n != n')
  | .fin n ma ea, .fin n' mb eb => .fin (n != n') (ma * mb) (ea + eb)

/-- a × b + c rounded once (R122). The product's NaN is signalling when it raises NV. -/
def Fmt.fma (F : Fmt) (m : Mode) (sat : Bool) (a b c : FV) : Nat × Nat := F.add m sat (prod a b) c

/-- a0 × b0 + a1 × b1 + c rounded once (R122). -/
def Fmt.dot2 (F : Fmt) (m : Mode) (sat : Bool) (a0 b0 a1 b1 c : FV) : Nat × Nat :=
  match prod a0 b0, prod a1 b1, c with
  | .fin n x e, .fin n' y e', .fin n'' w e'' =>
    let v := addZ (addZ (FV.z (.fin n x e)) (FV.z (.fin n' y e'))) (FV.z (.fin n'' w e''))
    F.roundZ m sat v.1 v.2 (if n = n' ∧ n' = n'' then n else decide (m = .rdn))
  | x, y, z =>
    let infs := [x, y, z].filterMap fun v => match v with | .inf n => some n | _ => none
    if x.isNan || y.isNan || z.isNan then
      F.nan (x.isSig || y.isSig || z.isSig || (decide (true ∈ infs) && decide (false ∈ infs)))
    else
      match infs with
      | n :: r => if r.all fun k => decide (k = n) then F.inf sat n else F.nan true
      | [] => F.nan true

/-- a ÷ b rounded once (R115). The quotient of a finite value by ±0 is an exact infinity and no rounded one, so saturation
leaves it, with DZ alone (R116 names only results that round to ±∞: DESIGN CHOICE, log entry 68). -/
def Fmt.div (F : Fmt) (m : Mode) (sat : Bool) (a b : FV) : Nat × Nat :=
  match a, b with
  | .nan s, y => F.nan (s || y.isSig)
  | x, .nan s => F.nan (s || x.isSig)
  | .inf _, .inf _ => F.nan true
  | .inf n, .fin n' _ _ => F.inf sat (n != n')
  | .fin n _ _, .inf n' => (F.signBit (n != n'), 0)
  | .fin n ma ea, .fin n' mb eb =>
    if mb = 0 then if ma = 0 then F.nan true else ((F.inf false (n != n')).1, fDZ)
    else
      let e := ea - eb
      F.round m sat (n != n') (scaleN ma (-e)) (scaleD mb (-e))

/-- The integer square root of n, by bits from bit k down. -/
def isqrtAux : Nat → Nat → Nat → Nat
  | 0, _, r => r
  | k + 1, n, r =>
    let c := r + 2 ^ k
    isqrtAux k n (if c * c ≤ n then c else r)

def isqrt (n : Nat) : Nat := isqrtAux (Nat.log2 n / 2 + 1) n 0

/-- √a rounded once: the root is taken to 2^-k with a half added when it is inexact, which rounds as the exact
root does for every quantum of 2^-k or more (R115, R117). -/
def Fmt.sqrt (F : Fmt) (m : Mode) (a : FV) : Nat × Nat :=
  match a with
  | .nan s => F.nan s
  | .inf true => F.nan true
  | .inf false => F.inf false false
  | .fin neg ma ea =>
    if ma = 0 then (F.signBit neg, 0)
    else if neg then F.nan true
    else
      -- ma * 2^ea with an even exponent, scaled by 4^96
      let m1 := if ea % 2 = 0 then ma else 2 * ma
      let h := (if ea % 2 = 0 then ea else ea - 1) / 2
      let x := m1 * 4 ^ 96
      let r := isqrt x
      let v : Nat := if r * r = x then 2 * r else 2 * r + 1
      let e := h - 97
      F.round m false false (scaleN v (-e)) (scaleD 1 (-e))

/-- FMIN and FMAX (R120): −0 below +0; a NaN loses; two NaNs give the canonical one. -/
def FV.lt (a b : FV) : Bool :=
  match a, b with
  | .inf n, .inf n' => n && !n'
  | .inf n, _ => n
  | _, .inf n => !n
  | .fin n ma ea, .fin n' mb eb =>
    let v := addZ (FV.z (.fin n ma ea)) (let w := FV.z (.fin n' mb eb); (-w.1, w.2))
    decide (v.1 < 0) || (decide (v.1 = 0) && n && !n')
  | _, _ => false

def Fmt.minmax (F : Fmt) (mx : Bool) (a b : Nat) : Nat × Nat :=
  let x := F.dec a
  let y := F.dec b
  let nv := if x.isSig || y.isSig then fNV else 0
  if x.isNan && y.isNan then (F.nanBits, nv)
  else if x.isNan then (b, nv)
  else if y.isNan then (a, nv)
  else (if (if mx then x.lt y else y.lt x) then b else a, nv)

/-! ## Comparison (R50) -/

/-- a < b, a = b or a > b as −1, 0, 1; none when unordered. +0 and −0 are equal (R145). -/
def FV.cmp (a b : FV) : Option Int :=
  if a.isNan || b.isNan then none
  else match a, b with
    | .inf n, .inf n' => some (if n = n' then 0 else if n then -1 else 1)
    | .inf n, _ => some (if n then -1 else 1)
    | _, .inf n => some (if n then 1 else -1)
    | x, y =>
      let w := y.z
      let v := addZ x.z (-w.1, w.2)
      some (if v.1 < 0 then -1 else if v.1 = 0 then 0 else 1)

/-- The condition of FCMP and its NV flag (R50, R115). -/
def fltCond (cc : FltCond) (a b : FV) : Bool × Nat :=
  let o := FV.cmp a b
  let un := o.isNone
  let v := o.getD 0
  let res := match cc with
    | .eq => !un && decide (v = 0)
    | .ne => un || decide (v ≠ 0)
    | .lt => !un && decide (v < 0)
    | .le => !un && decide (v ≤ 0)
    | .gt => !un && decide (0 < v)
    | .ge => !un && decide (0 ≤ v)
    | .un => un
    | .ord => !un
    | .equ => un || decide (v = 0)
    | .ltu => un || decide (v < 0)
    | .leu => un || decide (v ≤ 0)
    | .gtu => un || decide (0 < v)
    | .geu => un || decide (0 ≤ v)
  let strict := match cc with
    | .lt | .le | .gt | .ge => true
    | _ => false
  (res, if a.isSig || b.isSig || (strict && un) then fNV else 0)

/-- The condition of CMP on the operands' bits at the type's width (R50, R145). -/
def intCond (cc : IntCond) (sg : Bool) (w a b : Nat) : Bool :=
  let x := if sg then sInt w a else (a : Int)
  let y := if sg then sInt w b else (b : Int)
  match cc with
  | .eq => decide (a = b)
  | .ne => decide (a ≠ b)
  | .lt => decide (x < y)
  | .le => decide (x ≤ y)
  | .gt => decide (y < x)
  | .ge => decide (y ≤ x)
  | .lo => decide (a < b)
  | .ls => decide (a ≤ b)
  | .hi => decide (b < a)
  | .hs => decide (b ≤ a)
  | .bits => decide (Nat.land a b ≠ 0)
  | .nbits => decide (Nat.land a b = 0)

/-- What a compare writes to its predicates under the combining type (R49): q1 and q2, none where not written. -/
def combine (ct : Ct) (c p1 p2 : Bool) : Bool × Option Bool :=
  match ct with
  | .set => (c, some !c)
  | .nest => (p2 && c, some (p2 && !c))
  | .meet => (p1 && c, some (p2 || !c))
  | .join => (p1 || c, some (p2 && !c))
  | .meetn => (p1 && !c, some (p2 || c))
  | .joinn => (p1 || !c, some (p2 && c))
  | .one => (c, none)

/-- ORs flags into FPCSR: instructions set flags and never clear them (R114). -/
def Thread.raiseFlags (t : Thread) (f : Nat) : Thread := { t with fpcsr := t.fpcsr ||| BitVec.ofNat 32 (f % 32) }

/-! ## Modes and the generator (R52, R117) -/

/-- FPCSR's MODE field (R114). -/
def Thread.mode (t : Thread) : Nat := t.fpcsr.toNat / 32 % 8

/-- The mode that RM selects, DYN read from FPCSR (R52). -/
def Thread.rm (t : Thread) (rm : Rm) : Rm :=
  match rm with
  | .dyn => (Rm.ofCode t.mode).getD .rne
  | r => r

/-- One advance of the generator (R117). -/
def rngStep (s : Word) : Word :=
  let a := s ^^^ (s <<< 13)
  let b := a ^^^ (a >>> 17)
  b ^^^ (b <<< 5)

/-- The draw r = s[31:8]. -/
def rngDraw (s : Word) : Nat := s.toNat / 256

/-- The mode of one element and the generator after it: an element under STO advances it once (R117). -/
def elemMode (rm : Rm) (s : Word) : Mode × Word :=
  match rm with
  | .rne => (.rne, s)
  | .rz => (.rz, s)
  | .rdn => (.rdn, s)
  | .rup => (.rup, s)
  | .rna => (.rna, s)
  | .sto => (.sto (rngDraw (rngStep s)), rngStep s)
  | .dyn => (.rne, s)

end Sys2Proof.Machine
end

