-- ==== Sys2Proof/Machine/Approx.lean ====
section
/-! DEFINITION. The approximate functions of R124 and R125. The function that the device computes is not published: a
free value of Config gives its bits. The model takes those bits where they lie inside the error bound of R124, judged
against a reference of some 500 fraction bits, and the rounded reference otherwise (log entry 7). -/

namespace Sys2Proof.Machine

/-! ## A fixed-point reference: integers that count 2^-512 -/

def fxBits : Nat := 512
def fxOne : Int := 2 ^ fxBits
def fxMul (a b : Int) : Int := a * b / fxOne

/-- The sum of (term k) × z^k with term 0 first, over `n` terms: Σ sg^k z2^k z / (2k+1). -/
def fxAtan (sg : Int) (z2 : Int) : Nat → Nat → Int → Int → Int
  | 0, _, _, acc => acc
  | n + 1, k, p, acc => fxAtan sg z2 n (k + 1) (sg * fxMul p z2) (acc + p / (2 * (k : Int) + 1))

/-- atanh(z) and atan(z), |z| at most 1/3, by their series. -/
def fxAtanh (z : Int) : Int := fxAtan 1 (fxMul z z) 170 0 z 0
def fxArctan (z : Int) : Int := fxAtan (-1) (fxMul z z) 120 0 z 0

def fxLn2 : Int := 2 * fxAtanh (fxOne / 3)
def fxPi : Int := 16 * fxArctan (fxOne / 5) - 4 * fxArctan (fxOne / 239)

/-- Σ r^k / k!, from term k on. -/
def fxExpSum (r : Int) : Nat → Nat → Int → Int → Int
  | 0, _, _, acc => acc
  | n + 1, k, term, acc => fxExpSum r n (k + 1) (fxMul term r / ((k : Int) + 1)) (acc + term)

/-- e^r for r in [0, ln 2). -/
def fxExpSmall (r : Int) : Int := fxExpSum r 100 0 fxOne 0

/-- Σ (-1)^k r^(2k+j) / (2k+j)!: the sine for j = 1 with term r, the cosine for j = 0 with term 1. -/
def fxTrig (r2 : Int) : Nat → Nat → Int → Int → Int
  | 0, _, _, acc => acc
  | n + 1, j, term, acc => fxTrig r2 n (j + 2) (-(fxMul term r2 / (((j : Int) + 1) * ((j : Int) + 2)))) (acc + term)

/-- A positive value n / d with a sign. -/
structure Ref where
  neg : Bool
  n : Nat
  d : Nat
deriving DecidableEq, Repr

def Ref.ofFx (v : Int) : Ref := { neg := decide (v < 0), n := v.natAbs, d := 2 ^ fxBits }

/-- A finite value in fixed point; exact when its exponent is −512 or more. -/
def fxOf (neg : Bool) (m : Nat) (e : Int) : Int :=
  let v : Int := if e + 512 < 0 then (m / 2 ^ (-(e + 512)).toNat : Nat) else (m * 2 ^ (e + 512).toNat : Nat)
  if neg then -v else v

/-- e^y as (mantissa in fixed point, power of two). -/
def fxExp (y : Int) : Int × Int := (fxExpSmall (y % fxLn2), y / fxLn2)

/-- A fixed-point value times 2^k. -/
def Ref.scaled (v : Int) (k : Int) : Ref :=
  { neg := decide (v < 0), n := scaleN v.natAbs (-k), d := scaleD (2 ^ fxBits) (-k) }

def refExp2 (x : Int) : Ref := Ref.scaled (fxExpSmall (fxMul (x % fxOne) fxLn2)) (x / fxOne)

/-- log2 of m × 2^e. -/
def refLog2 (m : Nat) (e : Int) : Ref :=
  let k := Nat.log2 m
  let u := fxOf false m (-(k : Int))
  Ref.ofFx (((k : Int) + e) * fxOne + 2 * fxAtanh ((u - fxOne) * fxOne / (u + fxOne)) * fxOne / fxLn2)

/-- x reduced to [−π, π). -/
def fxReduce (x : Int) : Int := (x + fxPi) % (2 * fxPi) - fxPi

def refSin (x : Int) : Ref :=
  let r := fxReduce x
  Ref.ofFx (fxTrig (fxMul r r) 70 1 r 0)

def refCos (x : Int) : Ref :=
  let r := fxReduce x
  Ref.ofFx (fxTrig (fxMul r r) 70 0 fxOne 0)

/-- e^y in fixed point, y clamped to a magnitude of 256. -/
def fxExpAt (y : Int) : Int :=
  let z := fxExp (clampI (-(256 * fxOne)) (256 * fxOne) y)
  if z.2 < 0 then z.1 / 2 ^ z.2.natAbs else z.1 * 2 ^ z.2.natAbs

def refTanh (x : Int) : Ref :=
  let q := fxExpAt (2 * x)
  Ref.ofFx ((q - fxOne) * fxOne / (q + fxOne))

def refSigm (x : Int) : Ref := Ref.ofFx (fxOne * fxOne / (fxOne + fxExpAt (-x)))

/-- 1 ÷ (m × 2^e). -/
def refRcp (neg : Bool) (m : Nat) (e : Int) : Ref := { neg := neg, n := scaleN 1 e, d := scaleD m e }

/-- 1 ÷ √(m × 2^e), to 2^-700. -/
def refRsq (m : Nat) (e : Int) : Ref :=
  { neg := false, n := isqrt (scaleN (4 ^ 700) e / scaleD m e), d := 2 ^ 700 }

/-! ## The value the model takes -/

/-- The quantum of the result's binade: one ulp is 2 to this power. -/
def Fmt.ulpExp (F : Fmt) (r : Ref) : Int :=
  let e := flog2 r.n r.d - (F.man : Int)
  if e < F.emin - F.man then F.emin - F.man else e

/-- |x − r| ≤ k × 2^e, with the signs agreeing: a result of the other sign counts as outside an absolute bound too (DESIGN
CHOICE, log entry 7). -/
def within (x : FV) (r : Ref) (k : Nat) (e : Int) : Bool :=
  match x with
  | .fin neg m ex =>
    decide (neg = r.neg) &&
      decide (((scaleN m (-ex) * r.d : Nat) - (r.n * scaleD 1 (-ex) : Nat) : Int).natAbs * scaleD 1 (-e) ≤
        scaleN k (-e) * (scaleD 1 (-ex) * r.d))
  | _ => false

/-- The device's bits where they meet what binds them; the rounded reference otherwise. -/
def Fmt.takeApprox (F : Fmt) (cand : Nat) (r : Ref) (ok : Bool) : Nat :=
  if r.n = 0 then F.signBit r.neg
  else if ok then cand else (F.round .rne false r.neg r.n r.d).1

/-- A value of f32 rounded RNE to a smaller type. -/
def Fmt.fromF32 (F : Fmt) (y : Nat) : Nat :=
  match Fmt.f32.dec y with
  | .fin neg m e => (F.roundZ .rne false (if neg then -(m : Int) else m) e neg).1
  | .inf n => (F.inf false n).1
  | .nan _ => F.nanBits

/-- Beyond 2^20 in magnitude. -/
def FV.big : FV → Bool
  | .fin _ m e => magLt (2 ^ 20) 0 m e
  | _ => false

/-- The bound of R124 as a multiple and a quantum's exponent. -/
def approxBound (F : Fmt) (fn : ApproxFn) (x : FV) (r : Ref) : Nat × Int :=
  let ulp := F.ulpExp r
  let near := match x with
    | .fin _ m e => !(magLt m e 1 (-1)) && !(magLt 2 0 m e)
    | _ => false
  match fn with
  | .rcp | .rsq => (1, ulp)
  | .log2 => if near then (1, -22) else (2, ulp)
  | .sin | .cos => if x.big then (1, -20) else (2, ulp)
  | _ => (2, ulp)

/-- What binds the function at an input of a format: the bound of R124; and, as the element of a bf16x2 is the f32 function's
value rounded RNE and within 1 ulp of bf16, that too where the bound of FSIN and FCOS beyond 2^20 does not bring it. -/
def Fmt.approxOk (F : Fmt) (fn : ApproxFn) (x cand : Nat) (r : Ref) : Bool :=
  let b := approxBound F fn (F.dec x) r
  within (F.dec cand) r b.1 b.2 && (match fn with
    | .sin | .cos => !((F.dec x).big) || decide (x % 65536 ≠ 0) ||
        within (Fmt.bf16.dec (Fmt.bf16.fromF32 cand)) r 1 (Fmt.bf16.ulpExp r)
    | _ => true)

/-- The reference of a finite nonzero input (for FRSQ and FLOG2, a positive one). -/
def approxRef (fn : ApproxFn) (neg : Bool) (m : Nat) (e : Int) : Ref :=
  match fn with
  | .rcp => refRcp neg m e
  | .rsq => refRsq m e
  | .exp2 => refExp2 (fxOf neg m e)
  | .log2 => refLog2 m e
  | .sin => refSin (fxOf neg m e)
  | .cos => refCos (fxOf neg m e)
  | .tanh => refTanh (fxOf neg m e)
  | .sigm => refSigm (fxOf neg m e)

/-- An approximate function with the special values and flags of R125. -/
def Fmt.approx (F : Fmt) (fn : ApproxFn) (cand : Nat) (x : Nat) : Nat × Nat :=
  let one := (F.round .rne false false 1 1).1
  match F.dec x, fn with
  | .nan sg, _ => F.nan sg
  | .inf n, .rcp => (F.signBit n, 0)
  | .inf n, .rsq | .inf n, .log2 => if n then F.nan true else if fn = .rsq then (0, 0) else F.inf false false
  | .inf n, .exp2 => if n then (0, 0) else F.inf false false
  | .inf _, .sin | .inf _, .cos => F.nan true
  | .inf n, .tanh => (F.signBit n + one, 0)
  | .inf n, .sigm => (if n then 0 else one, 0)
  | .fin neg m e, _ =>
    if m = 0 then
      match fn with
      | .rcp | .rsq => ((F.inf false neg).1, fDZ)
      | .log2 => ((F.inf false true).1, fDZ)
      | .exp2 | .cos => (one, 0)
      | .sin | .tanh => (x, 0)
      | .sigm => ((F.round .rne false false 1 2).1, 0)
    else if neg && (decide (fn = .rsq) || decide (fn = .log2)) then F.nan true
    else if fn = .exp2 ∧ neg ∧ magLt 150 0 m e then (0, fUF)
    else if fn = .exp2 ∧ ¬ neg ∧ ¬ magLt m e 128 0 then ((F.inf false false).1, fOF)
    else if fn = .log2 ∧ x = one then (0, 0)
    else
      let r := approxRef fn neg m e
      (F.takeApprox cand r (F.approxOk fn x cand r), 0)

/-- The f32 function. -/
def approx32 (fn : ApproxFn) (x : Nat) : Nat × Nat := Fmt.f32.approx fn (Config.approx32 fn (BitVec.ofNat 32 x)).toNat x

/-- The f64 function: FRCP and FRSQ. -/
def approx64 (fn : ApproxFn) (x : Nat) : Nat × Nat := Fmt.f64.approx fn (Config.approx64 fn (BitVec.ofNat 64 x)).toNat x

/-- An element of f16x2 or bf16x2: widened, evaluated by the f32 function, rounded RNE; NV and DZ of R125, OF and UF judged
against the element type (R124). -/
def approxElem (F : Fmt) (fn : ApproxFn) (x : Nat) : Nat × Nat :=
  match F.dec x with
  | .nan sg => F.nan sg
  | v =>
    let w := match v with
      | .fin neg m e => Fmt.f32.roundZ .rne false (if neg then -(m : Int) else m) e neg
      | .inf n => Fmt.f32.inf false n
      | .nan _ => (0, 0)
    let y := approx32 fn w.1
    let z := F.fromF32 y.1
    let fl := y.2 % 4
    if fn = .exp2 then
      match v with
      | .fin neg m e =>
        let half : Nat := (1 + (F.man : Int) - F.emin).toNat
        (z, if (F.dec z) = .inf false then forr fl fOF
            else if z = 0 ∧ neg ∧ magLt half 0 m e then forr fl fUF else fl)
      | _ => (z, fl)
    else (z, fl)

end Sys2Proof.Machine
end

