-- ==== Sys2Proof/Machine/Integer.lean ====
section
/-! DEFINITION. Integer, packed, multiply-add, bit-field and immediate instructions (R92 to R113). -/

namespace Sys2Proof.Machine
open Host

/-! ## Operations on words of width w (R96 to R98) -/

def aAdd {w : Nat} (a b : BitVec w) : BitVec w := a + b
def aSub {w : Nat} (a b : BitVec w) : BitVec w := a - b
def aAnd {w : Nat} (a b : BitVec w) : BitVec w := a &&& b
def aOr {w : Nat} (a b : BitVec w) : BitVec w := a ||| b
def aXor {w : Nat} (a b : BitVec w) : BitVec w := a ^^^ b
def aAndn {w : Nat} (a b : BitVec w) : BitVec w := a &&& ~~~b
def aOrn {w : Nat} (a b : BitVec w) : BitVec w := a ||| ~~~b
def aXnor {w : Nat} (a b : BitVec w) : BitVec w := ~~~(a ^^^ b)

/-- The shift count of R97: bits 5:0 of b. -/
def shCount {w : Nat} (b : BitVec w) : Nat := b.toNat % 64
def aShlN {w : Nat} (a : BitVec w) (n : Nat) : BitVec w := if n < w then a <<< n else 0
def aShrN {w : Nat} (a : BitVec w) (n : Nat) : BitVec w := if n < w then a >>> n else 0
def aSraN {w : Nat} (a : BitVec w) (n : Nat) : BitVec w :=
  if n < w then a.sshiftRight n else if a.msb then BitVec.allOnes w else 0
def aShl {w : Nat} (a b : BitVec w) : BitVec w := aShlN a (shCount b)
def aShr {w : Nat} (a b : BitVec w) : BitVec w := aShrN a (shCount b)
def aSra {w : Nat} (a b : BitVec w) : BitVec w := aSraN a (shCount b)
def aRol {w : Nat} (a b : BitVec w) : BitVec w :=
  let m := shCount b % w
  (a <<< m) ||| (a >>> (w - m))
def aRor {w : Nat} (a b : BitVec w) : BitVec w :=
  let m := shCount b % w
  (a >>> m) ||| (a <<< (w - m))
def aMin {w : Nat} (a b : BitVec w) : BitVec w := if a.toInt ≤ b.toInt then a else b
def aMax {w : Nat} (a b : BitVec w) : BitVec w := if a.toInt ≥ b.toInt then a else b
def aMinn {w : Nat} (a b : BitVec w) : BitVec w := if a.toNat ≤ b.toNat then a else b
def aMaxn {w : Nat} (a b : BitVec w) : BitVec w := if a.toNat ≥ b.toNat then a else b
def aMul {w : Nat} (a b : BitVec w) : BitVec w := a * b
def aMulh {w : Nat} (a b : BitVec w) : BitVec w := BitVec.ofInt w (a.toInt * b.toInt / (2 ^ w : Int))
def aMulhn {w : Nat} (a b : BitVec w) : BitVec w := BitVec.ofNat w (a.toNat * b.toNat / 2 ^ w)
/-- DIV (R98): truncates; division by zero gives all ones, the overflow case gives a. -/
def aDiv {w : Nat} (a b : BitVec w) : BitVec w :=
  if b.toNat = 0 then BitVec.allOnes w
  else if a.toInt = -(2 ^ (w - 1) : Int) ∧ b.toInt = -1 then a
  else BitVec.ofInt w (Int.tdiv a.toInt b.toInt)
def aDivn {w : Nat} (a b : BitVec w) : BitVec w :=
  if b.toNat = 0 then BitVec.allOnes w else BitVec.ofNat w (a.toNat / b.toNat)
def aRem {w : Nat} (a b : BitVec w) : BitVec w :=
  if b.toNat = 0 then a
  else if a.toInt = -(2 ^ (w - 1) : Int) ∧ b.toInt = -1 then 0
  else BitVec.ofInt w (a.toInt - b.toInt * Int.tdiv a.toInt b.toInt)
def aRemn {w : Nat} (a b : BitVec w) : BitVec w :=
  if b.toNat = 0 then a else BitVec.ofNat w (a.toNat % b.toNat)

/-! ## Bit counts of an element of width e (R100) -/

/-- Zero bits above the highest set bit. -/
def nClz (e x : Nat) : Nat := if x = 0 then e else e - 1 - Nat.log2 x
/-- Zero bits below the lowest set bit, of `e` bits. -/
def nCtz : Nat → Nat → Nat
  | 0, _ => 0
  | e + 1, x => if x % 2 = 1 then 0 else 1 + nCtz e (x / 2)
def nFfs (e x : Nat) : Nat := if x = 0 then 0 else 1 + nCtz e x
def nPopc : Nat → Nat → Nat
  | 0, _ => 0
  | e + 1, x => x % 2 + nPopc e (x / 2)
/-- Bit j moved to bit e - 1 - j. -/
def nBrev : Nat → Nat → Nat
  | 0, _ => 0
  | e + 1, x => x % 2 * 2 ^ e + nBrev e (x / 2)
def nAbs (e x : Nat) : Nat := if 0 ≤ sInt e x then x else wrap e (-(sInt e x))

def EWidth.bits : EWidth → Nat
  | .w32 => 32 | .w16 => 16 | .w8 => 8 | .w64 => 64

/-- An elementwise operation of INT3 (R100). -/
def int3 (f : Nat → Nat → Nat) (e : EWidth) (d a : Nat) (t : Thread) : Thread :=
  match e with
  | .w64 => t.dstPair d (BitVec.ofNat 64 (f 64 (t.srcPair a).toNat))
  | _ => t.dst d (BitVec.ofNat 32 (fromElems (EWidth.bits e)
      ((elems (EWidth.bits e) (32 / EWidth.bits e) (t.src a).toNat).map (f (EWidth.bits e)))))

/-- SEXT and ZEXT (R100): widen the low e bits of the 32-bit register. -/
def laneSext (e : EWidth) (d a : Nat) (t : Thread) : Thread :=
  match e with
  | .w8 => t.dst d (((t.src a).setWidth 8).signExtend 32)
  | .w16 => t.dst d (((t.src a).setWidth 16).signExtend 32)
  | .w32 => t.dst d (t.src a)
  | .w64 => t.dstPair d ((t.src a).signExtend 64)

def laneZext (e : EWidth) (d a : Nat) (t : Thread) : Thread :=
  match e with
  | .w8 => t.dst d (((t.src a).setWidth 8).setWidth 32)
  | .w16 => t.dst d (((t.src a).setWidth 16).setWidth 32)
  | .w32 => t.dst d (t.src a)
  | .w64 => t.dstPair d ((t.src a).setWidth 64)

/-! ## PACK (R106) -/

def PackTy.bits : PackTy → Nat
  | .s8x4 | .n8x4 => 8
  | .s16x2 | .n16x2 => 16

def PackTy.signed : PackTy → Bool
  | .s8x4 | .s16x2 => true
  | _ => false

/-- An element read as SInt or NInt. -/
def rdEl (sg : Bool) (e x : Nat) : Int := if sg then sInt e x else (x : Int)

/-- The element stored for the exact value v: clamped or wrapped. -/
def packEl (ty : PackTy) (sat : Bool) (v : Int) : Nat :=
  wrap (PackTy.bits ty) (if sat then clampTo (PackTy.signed ty) (PackTy.bits ty) v else v)

/-- A packed operation given by its exact value on x, y and the unsigned count element. -/
def pack (f : Int → Int → Nat → Int) (ty : PackTy) (sat : Bool) (d a b : Nat) (t : Thread) : Thread :=
  let e := PackTy.bits ty
  t.dst d (BitVec.ofNat 32 (fromElems e ((List.range (32 / e)).map fun i =>
    packEl ty sat (f (rdEl (PackTy.signed ty) e (elem e (t.src a).toNat i))
      (rdEl (PackTy.signed ty) e (elem e (t.src b).toNat i)) (elem e (t.src b).toNat i)))))

/-! ## MAD (R108) -/

/-- The result of DP4, DP2 and SAD: saturated to s32 when S, to n32 otherwise, or wrapped. -/
def madOut (s sat : Bool) (v : Int) : Word := BitVec.ofInt 32 (if sat then clampTo s 32 v else v)

def laneMad (d a b c : Nat) (t : Thread) : Thread := t.dst d (t.src a * t.src b + t.src c)
def laneMadh (d a b c : Nat) (t : Thread) : Thread := t.dst d (aMulh (t.src a) (t.src b) + t.src c)
def laneMadhn (d a b c : Nat) (t : Thread) : Thread := t.dst d (aMulhn (t.src a) (t.src b) + t.src c)
def laneMad64 (sg : Bool) (d a b c : Nat) (t : Thread) : Thread :=
  t.dstPair d (BitVec.ofInt 64 ((if sg then (t.src a).toInt * (t.src b).toInt
    else ((t.src a).toNat : Int) * ((t.src b).toNat : Int)) + ((t.srcPair c).toNat : Int)))

/-- The dot product over elements of width e. -/
def laneDot (e : Nat) (sg bs sat : Bool) (d a b c : Nat) (t : Thread) : Thread :=
  let s := sg || bs
  let v := (List.range (32 / e)).foldl (fun acc i =>
    acc + rdEl sg e (elem e (t.src a).toNat i) * rdEl bs e (elem e (t.src b).toNat i))
    (if s then (t.src c).toInt else ((t.src c).toNat : Int))
  t.dst d (madOut s sat v)

def laneSad (ty : PackTy) (sat : Bool) (d a b c : Nat) (t : Thread) : Thread :=
  let e := PackTy.bits ty
  let v := (List.range (32 / e)).foldl (fun acc i =>
    acc + ((rdEl (PackTy.signed ty) e (elem e (t.src a).toNat i) -
      rdEl (PackTy.signed ty) e (elem e (t.src b).toNat i)).natAbs : Int)) ((t.src c).toNat : Int)
  t.dst d (madOut false sat v)

/-! ## BITF (R110 to R113) -/

/-- The effective field length (R110). -/
def fieldLen (pos len : Nat) : Nat := Nat.min len (32 - pos)

def laneBfx (d a pos len : Nat) (t : Thread) : Thread :=
  let l := fieldLen pos len
  t.dst d (if l = 0 then 0 else BitVec.ofInt 32 (sInt l ((t.src a).toNat / 2 ^ pos % 2 ^ l)))
def laneBfxn (d a pos len : Nat) (t : Thread) : Thread :=
  let l := fieldLen pos len
  t.dst d (if l = 0 then 0 else BitVec.ofNat 32 ((t.src a).toNat / 2 ^ pos % 2 ^ l))
def laneBfi (d a b pos len : Nat) (t : Thread) : Thread :=
  let l := fieldLen pos len
  let m : Word := BitVec.ofNat 32 (ones l * 2 ^ pos)
  t.dst d ((t.src b &&& ~~~m) ||| ((t.src a <<< pos) &&& m))
def laneBgath (d a b sel : Nat) (t : Thread) : Thread :=
  let x := (t.src a).toNat + 2 ^ 32 * (t.src b).toNat
  t.dst d (BitVec.ofNat 32 (fromElems 8 ((List.range 4).map fun i =>
    let s := elem 4 sel i
    if s < 8 then elem 8 x s else 0)))
def spanCount (n : SpanCount) (t : Thread) : Nat :=
  match n with
  | .reg c => (t.src c).toNat % 64
  | .imm k => k
def laneSpan (rot : Bool) (d a b : Nat) (n : SpanCount) (t : Thread) : Thread :=
  let v := (t.src a).toNat + 2 ^ 32 * (t.src b).toNat
  t.dst d (BitVec.ofNat 32 ((if rot then v + 2 ^ 64 * v else v) / 2 ^ (spanCount n t)))
/-- Bit j from bits a[j], b[j], c[j] (R113). -/
def lut3 (tt : Nat) (a b c : Word) : Word :=
  BitVec.ofNat 32 (fromElems 1 ((List.range 32).map fun j =>
    tt / 2 ^ (bit (a.getLsbD j) + 2 * bit (b.getLsbD j) + 4 * bit (c.getLsbD j)) % 2))
def laneLut3 (d a b c tt : Nat) (t : Thread) : Thread := t.dst d (lut3 tt (t.src a) (t.src b) (t.src c))

/-! ## Immediates (R101 to R104) -/

/-- An immediate operation: v in place of b (R101). -/
def imm32 (op : Word → Word → Word) (d a : Nat) (v : Word) (t : Thread) : Thread := t.dst d (op (t.src a) v)
def laneLi (d : Nat) (v : Word) (t : Thread) : Thread := t.dst d v
def laneLi64 (d v : Nat) (t : Thread) : Thread := t.dstPair d (BitVec.ofNat 64 v)
/-- Anchor fields name g0 to g15 directly (R45). -/
def laneLiu (d v : Nat) (t : Thread) : Thread := t.setReg d (BitVec.ofNat 32 (v * 4096))
def laneAddl (d a : Nat) (i : Int) (t : Thread) : Thread := t.setReg d (t.reg a + BitVec.ofInt 32 i)

/-! ## The meanings. Each cites its row's rule through the lane operation it names. -/

abbrev Out := Outcome State Fault Refusal

/-- ADD (R96). -/
def execAdd (d a b : Nat) (s : State) : Out := .next (s.lanesOk (bin32 aAdd d a b))

/-- SUB (R96). -/
def execSub (d a b : Nat) (s : State) : Out := .next (s.lanesOk (bin32 aSub d a b))

/-- AND (R96). -/
def execAnd (d a b : Nat) (s : State) : Out := .next (s.lanesOk (bin32 aAnd d a b))

/-- OR (R96). -/
def execOr (d a b : Nat) (s : State) : Out := .next (s.lanesOk (bin32 aOr d a b))

/-- XOR (R96). -/
def execXor (d a b : Nat) (s : State) : Out := .next (s.lanesOk (bin32 aXor d a b))

/-- ANDN (R96). -/
def execAndn (d a b : Nat) (s : State) : Out := .next (s.lanesOk (bin32 aAndn d a b))

/-- ORN (R96). -/
def execOrn (d a b : Nat) (s : State) : Out := .next (s.lanesOk (bin32 aOrn d a b))

/-- XNOR (R96). -/
def execXnor (d a b : Nat) (s : State) : Out := .next (s.lanesOk (bin32 aXnor d a b))

/-- SHL (R97). -/
def execShl (d a b : Nat) (s : State) : Out := .next (s.lanesOk (bin32 aShl d a b))

/-- SHR (R97). -/
def execShr (d a b : Nat) (s : State) : Out := .next (s.lanesOk (bin32 aShr d a b))

/-- SRA (R97). -/
def execSra (d a b : Nat) (s : State) : Out := .next (s.lanesOk (bin32 aSra d a b))

/-- ROL (R97). -/
def execRol (d a b : Nat) (s : State) : Out := .next (s.lanesOk (bin32 aRol d a b))

/-- ROR (R97). -/
def execRor (d a b : Nat) (s : State) : Out := .next (s.lanesOk (bin32 aRor d a b))

/-- MIN (R97). -/
def execMin (d a b : Nat) (s : State) : Out := .next (s.lanesOk (bin32 aMin d a b))

/-- MAX (R97). -/
def execMax (d a b : Nat) (s : State) : Out := .next (s.lanesOk (bin32 aMax d a b))

/-- MINN (R97). -/
def execMinn (d a b : Nat) (s : State) : Out := .next (s.lanesOk (bin32 aMinn d a b))

/-- MUL (R98). -/
def execMul (d a b : Nat) (s : State) : Out := .next (s.lanesOk (bin32 aMul d a b))

/-- MULH (R98). -/
def execMulh (d a b : Nat) (s : State) : Out := .next (s.lanesOk (bin32 aMulh d a b))

/-- MULHN (R98). -/
def execMulhn (d a b : Nat) (s : State) : Out := .next (s.lanesOk (bin32 aMulhn d a b))

/-- DIV (R98). -/
def execDiv (d a b : Nat) (s : State) : Out := .next (s.lanesOk (bin32 aDiv d a b))

/-- DIVN (R98). -/
def execDivn (d a b : Nat) (s : State) : Out := .next (s.lanesOk (bin32 aDivn d a b))

/-- REM (R98). -/
def execRem (d a b : Nat) (s : State) : Out := .next (s.lanesOk (bin32 aRem d a b))

/-- REMN (R98). -/
def execRemn (d a b : Nat) (s : State) : Out := .next (s.lanesOk (bin32 aRemn d a b))

/-- MAXN (R98). -/
def execMaxn (d a b : Nat) (s : State) : Out := .next (s.lanesOk (bin32 aMaxn d a b))

/-- ADD.64 (R96, R93). -/
def execAdd64 (d a b : Nat) (s : State) : Out := .next (s.lanesOk (bin64 aAdd d a b))

/-- SUB.64 (R96, R93). -/
def execSub64 (d a b : Nat) (s : State) : Out := .next (s.lanesOk (bin64 aSub d a b))

/-- AND.64 (R96, R93). -/
def execAnd64 (d a b : Nat) (s : State) : Out := .next (s.lanesOk (bin64 aAnd d a b))

/-- OR.64 (R96, R93). -/
def execOr64 (d a b : Nat) (s : State) : Out := .next (s.lanesOk (bin64 aOr d a b))

/-- XOR.64 (R96, R93). -/
def execXor64 (d a b : Nat) (s : State) : Out := .next (s.lanesOk (bin64 aXor d a b))

/-- ANDN.64 (R96, R93). -/
def execAndn64 (d a b : Nat) (s : State) : Out := .next (s.lanesOk (bin64 aAndn d a b))

/-- ORN.64 (R96, R93). -/
def execOrn64 (d a b : Nat) (s : State) : Out := .next (s.lanesOk (bin64 aOrn d a b))

/-- XNOR.64 (R96, R93). -/
def execXnor64 (d a b : Nat) (s : State) : Out := .next (s.lanesOk (bin64 aXnor d a b))

/-- SHL.64 (R97, R93). -/
def execShl64 (d a b : Nat) (s : State) : Out := .next (s.lanesOk (bin64 aShl d a b))

/-- SHR.64 (R97, R93). -/
def execShr64 (d a b : Nat) (s : State) : Out := .next (s.lanesOk (bin64 aShr d a b))

/-- SRA.64 (R97, R93). -/
def execSra64 (d a b : Nat) (s : State) : Out := .next (s.lanesOk (bin64 aSra d a b))

/-- ROL.64 (R97, R93). -/
def execRol64 (d a b : Nat) (s : State) : Out := .next (s.lanesOk (bin64 aRol d a b))

/-- ROR.64 (R97, R93). -/
def execRor64 (d a b : Nat) (s : State) : Out := .next (s.lanesOk (bin64 aRor d a b))

/-- MIN.64 (R97, R93). -/
def execMin64 (d a b : Nat) (s : State) : Out := .next (s.lanesOk (bin64 aMin d a b))

/-- MAX.64 (R97, R93). -/
def execMax64 (d a b : Nat) (s : State) : Out := .next (s.lanesOk (bin64 aMax d a b))

/-- MINN.64 (R97, R93). -/
def execMinn64 (d a b : Nat) (s : State) : Out := .next (s.lanesOk (bin64 aMinn d a b))

/-- MUL.64 (R98, R93). -/
def execMul64 (d a b : Nat) (s : State) : Out := .next (s.lanesOk (bin64 aMul d a b))

/-- MULH.64 (R98, R93). -/
def execMulh64 (d a b : Nat) (s : State) : Out := .next (s.lanesOk (bin64 aMulh d a b))

/-- MULHN.64 (R98, R93). -/
def execMulhn64 (d a b : Nat) (s : State) : Out := .next (s.lanesOk (bin64 aMulhn d a b))

/-- DIV.64 (R98, R93). -/
def execDiv64 (d a b : Nat) (s : State) : Out := .next (s.lanesOk (bin64 aDiv d a b))

/-- DIVN.64 (R98, R93). -/
def execDivn64 (d a b : Nat) (s : State) : Out := .next (s.lanesOk (bin64 aDivn d a b))

/-- REM.64 (R98, R93). -/
def execRem64 (d a b : Nat) (s : State) : Out := .next (s.lanesOk (bin64 aRem d a b))

/-- REMN.64 (R98, R93). -/
def execRemn64 (d a b : Nat) (s : State) : Out := .next (s.lanesOk (bin64 aRemn d a b))

/-- MAXN.64 (R98, R93). -/
def execMaxn64 (d a b : Nat) (s : State) : Out := .next (s.lanesOk (bin64 aMaxn d a b))

/-- CLZ (R100). -/
def execClz (e : EWidth) (d a : Nat) (s : State) : Out := .next (s.lanesOk (int3 nClz e d a))

/-- CTZ (R100). -/
def execCtz (e : EWidth) (d a : Nat) (s : State) : Out := .next (s.lanesOk (int3 nCtz e d a))

/-- FFS (R100). -/
def execFfs (e : EWidth) (d a : Nat) (s : State) : Out := .next (s.lanesOk (int3 nFfs e d a))

/-- POPC (R100). -/
def execPopc (e : EWidth) (d a : Nat) (s : State) : Out := .next (s.lanesOk (int3 nPopc e d a))

/-- BREV (R100). -/
def execBrev (e : EWidth) (d a : Nat) (s : State) : Out := .next (s.lanesOk (int3 nBrev e d a))

/-- ABS (R100). -/
def execAbs (e : EWidth) (d a : Nat) (s : State) : Out := .next (s.lanesOk (int3 nAbs e d a))

/-- SEXT (R100). -/
def execSext (e : EWidth) (d a : Nat) (s : State) : Out := .next (s.lanesOk (laneSext e d a))

/-- ZEXT (R100). -/
def execZext (e : EWidth) (d a : Nat) (s : State) : Out := .next (s.lanesOk (laneZext e d a))

/-- packAdd (R106). -/
def execPackAdd (ty : PackTy) (sat : Bool) (d a b : Nat) (s : State) : Out :=
  .next (s.lanesOk (pack (fun x y _ => x + y) ty sat d a b))

/-- packSub (R106). -/
def execPackSub (ty : PackTy) (sat : Bool) (d a b : Nat) (s : State) : Out :=
  .next (s.lanesOk (pack (fun x y _ => x - y) ty sat d a b))

/-- packMin (R106). -/
def execPackMin (ty : PackTy) (sat : Bool) (d a b : Nat) (s : State) : Out :=
  .next (s.lanesOk (pack (fun x y _ => Min.min x y) ty sat d a b))

/-- packMax (R106). -/
def execPackMax (ty : PackTy) (sat : Bool) (d a b : Nat) (s : State) : Out :=
  .next (s.lanesOk (pack (fun x y _ => Max.max x y) ty sat d a b))

/-- avg (R106). -/
def execAvg (ty : PackTy) (sat : Bool) (d a b : Nat) (s : State) : Out :=
  .next (s.lanesOk (pack (fun x y _ => (x + y + 1) / 2) ty sat d a b))

/-- absd (R106). -/
def execAbsd (ty : PackTy) (sat : Bool) (d a b : Nat) (s : State) : Out :=
  .next (s.lanesOk (pack (fun x y _ => ((x - y).natAbs : Int)) ty sat d a b))

/-- packMul (R106). -/
def execPackMul (ty : PackTy) (sat : Bool) (d a b : Nat) (s : State) : Out :=
  .next (s.lanesOk (pack (fun x y _ => x * y) ty sat d a b))

/-- packShl (R106). -/
def execPackShl (ty : PackTy) (sat : Bool) (d a b : Nat) (s : State) : Out :=
  .next (s.lanesOk (pack (fun x _ k => x * 2 ^ k) ty sat d a b))

/-- MAD (R108). -/
def execMad (d a b c : Nat) (s : State) : Out := .next (s.lanesOk (laneMad d a b c))

/-- MADH (R108). -/
def execMadh (d a b c : Nat) (s : State) : Out := .next (s.lanesOk (laneMadh d a b c))

/-- MADHN (R108). -/
def execMadhn (d a b c : Nat) (s : State) : Out := .next (s.lanesOk (laneMadhn d a b c))

/-- MAD.64 (R108). -/
def execMad64 (sg : Bool) (d a b c : Nat) (s : State) : Out := .next (s.lanesOk (laneMad64 sg d a b c))

/-- DP4 (R108). -/
def execDp4 (sg bs sat : Bool) (d a b c : Nat) (s : State) : Out :=
  .next (s.lanesOk (laneDot 8 sg bs sat d a b c))

/-- DP2 (R108). -/
def execDp2 (sg bs sat : Bool) (d a b c : Nat) (s : State) : Out :=
  .next (s.lanesOk (laneDot 16 sg bs sat d a b c))

/-- SAD (R108). -/
def execSad (ty : PackTy) (sat : Bool) (d a b c : Nat) (s : State) : Out := .next (s.lanesOk (laneSad ty sat d a b c))

/-- BFX (R110). -/
def execBfx (d a pos len : Nat) (s : State) : Out := .next (s.lanesOk (laneBfx d a pos len))

/-- BFXN (R110). -/
def execBfxn (d a pos len : Nat) (s : State) : Out := .next (s.lanesOk (laneBfxn d a pos len))

/-- BFI (R110). -/
def execBfi (d a b pos len : Nat) (s : State) : Out := .next (s.lanesOk (laneBfi d a b pos len))

/-- BGATH (R111). -/
def execBgath (d a b sel : Nat) (s : State) : Out := .next (s.lanesOk (laneBgath d a b sel))

/-- SPAN (R112). -/
def execSpan (rot : Bool) (d a b : Nat) (n : SpanCount) (s : State) : Out := .next (s.lanesOk (laneSpan rot d a b n))

/-- LUT3 (R113). -/
def execLut3 (d a b c tt : Nat) (s : State) : Out := .next (s.lanesOk (laneLut3 d a b c tt))

/-- ADDI (R101). -/
def execAddi (d a : Nat) (i : Int) (s : State) : Out := .next (s.lanesOk (imm32 aAdd d a (BitVec.ofInt 32 i)))

/-- ADDI with IMM32 (R101). -/
def execAddiImm32 (d a v : Nat) (s : State) : Out := .next (s.lanesOk (imm32 aAdd d a (BitVec.ofNat 32 v)))

/-- ANDI (R101). -/
def execAndi (d a : Nat) (i : Int) (s : State) : Out := .next (s.lanesOk (imm32 aAnd d a (BitVec.ofInt 32 i)))

/-- ANDI with IMM32 (R101). -/
def execAndiImm32 (d a v : Nat) (s : State) : Out := .next (s.lanesOk (imm32 aAnd d a (BitVec.ofNat 32 v)))

/-- ORI (R101). -/
def execOri (d a : Nat) (i : Int) (s : State) : Out := .next (s.lanesOk (imm32 aOr d a (BitVec.ofInt 32 i)))

/-- ORI with IMM32 (R101). -/
def execOriImm32 (d a v : Nat) (s : State) : Out := .next (s.lanesOk (imm32 aOr d a (BitVec.ofNat 32 v)))

/-- XORI (R101). -/
def execXori (d a : Nat) (i : Int) (s : State) : Out := .next (s.lanesOk (imm32 aXor d a (BitVec.ofInt 32 i)))

/-- XORI with IMM32 (R101). -/
def execXoriImm32 (d a v : Nat) (s : State) : Out := .next (s.lanesOk (imm32 aXor d a (BitVec.ofNat 32 v)))

/-- MULI (R101). -/
def execMuli (d a : Nat) (i : Int) (s : State) : Out := .next (s.lanesOk (imm32 aMul d a (BitVec.ofInt 32 i)))

/-- MULI with IMM32 (R101). -/
def execMuliImm32 (d a v : Nat) (s : State) : Out := .next (s.lanesOk (imm32 aMul d a (BitVec.ofNat 32 v)))

/-- SHLI (R101). -/
def execShli (d a n : Nat) (s : State) : Out := .next (s.lanesOk (imm32 aShl d a (BitVec.ofNat 32 n)))

/-- SHRI (R101). -/
def execShri (d a n : Nat) (s : State) : Out := .next (s.lanesOk (imm32 aShr d a (BitVec.ofNat 32 n)))

/-- SRAI (R101). -/
def execSrai (d a n : Nat) (s : State) : Out := .next (s.lanesOk (imm32 aSra d a (BitVec.ofNat 32 n)))

/-- LI (R102). -/
def execLi (d : Nat) (i : Int) (s : State) : Out := .next (s.lanesOk (laneLi d (BitVec.ofInt 32 i)))

/-- LI with IMM32 (R102). -/
def execLiImm32 (d v : Nat) (s : State) : Out := .next (s.lanesOk (laneLi d (BitVec.ofNat 32 v)))

/-- LI.64 (R102). -/
def execLi64 (d v : Nat) (s : State) : Out := .next (s.lanesOk (laneLi64 d v))

/-- LIU (R103). -/
def execLiu (d v : Nat) (s : State) : Out := .next (s.lanesOk (laneLiu d v))

/-- ADDL (R104). -/
def execAddl (d a : Nat) (i : Int) (s : State) : Out := .next (s.lanesOk (laneAddl d a i))

end Sys2Proof.Machine
end

