-- ==== Sys2Proof/Machine/Float.lean ====
section
/-! DEFINITION. Floating-point and conversion instructions (R114 to R131). -/

namespace Sys2Proof.Machine
open Host

/-! ## Rounded elements -/

/-- An element computed under a mode: its bits and flags. -/
abbrev El := Mode → Nat × Nat

/-- The elements of one instruction in order: each takes its mode from `rm`, element 0 advancing the generator first
(R117); their bits, the OR of their flags, and the generator after them. -/
def elemsUnder (rm : Rm) : List El → Word → List Nat × Nat × Word
  | [], g => ([], 0, g)
  | f :: r, g =>
    let m := elemMode rm g
    let v := f m.1
    let t := elemsUnder rm r m.2
    (v.1 :: t.1, forr v.2 t.2.1, t.2.2)

/-- Writes the elements of width `w` to a destination, raises their flags and keeps the generator. -/
def Thread.deliver (t : Thread) (dbl : Bool) (w d : Nat) (r : List Nat × Nat × Word) : Thread :=
  ({ t with rng := r.2.2 }.dstN dbl d (fromElems w r.1)).raiseFlags r.2.1

def F1Ty.fmt : F1Ty → Fmt
  | .f32 => Fmt.f32 | .f64 => Fmt.f64 | .f16x2 => Fmt.f16 | .bf16x2 => Fmt.bf16
def F1Ty.count : F1Ty → Nat
  | .f32 | .f64 => 1
  | _ => 2
def F1Ty.is64 (ty : F1Ty) : Bool := decide (ty = .f64)

/-- An elementwise operation of a type on its operands' bits. -/
def elementwise (ty : F1Ty) (rm : Rm) (f : Nat → El) (d : Nat) (t : Thread) : Thread :=
  t.deliver (F1Ty.is64 ty) (F1Ty.fmt ty).width d (elemsUnder (t.rm rm) ((List.range (F1Ty.count ty)).map f) t.rng)

/-- Element `i` of a source of the type, decoded. -/
def srcEl (ty : F1Ty) (t : Thread) (a i : Nat) : FV :=
  (F1Ty.fmt ty).dec (elem (F1Ty.fmt ty).width (t.srcN (F1Ty.is64 ty) a) i)

/-! ## FP0 and FP1 (R120 to R122) -/

/-- A two-source operation of FP1 on each element. -/
def fp2s (op : Fmt → Mode → Bool → FV → FV → Nat × Nat) (ty : F1Ty) (rm : Rm) (sat : Bool) (d a b : Nat)
    (t : Thread) : Thread :=
  elementwise ty rm (fun i m => op (F1Ty.fmt ty) m sat (srcEl ty t a i) (srcEl ty t b i)) d t

/-- The fused forms: the product and the addend may each be negated. -/
def fused (negP negC : Bool) (ty : F1Ty) (rm : Rm) (sat : Bool) (d a b c : Nat) (t : Thread) : Thread :=
  elementwise ty rm (fun i m =>
    let p := prod (srcEl ty t a i) (srcEl ty t b i)
    let z := srcEl ty t c i
    (F1Ty.fmt ty).add m sat (if negP then p.negate else p) (if negC then z.negate else z)) d t

def fSub (F : Fmt) (m : Mode) (sat : Bool) (x y : FV) : Nat × Nat := F.add m sat x y.negate

/-- FDOT2 (R122): two products and an f32 addend, one rounding. -/
def laneFdot2 (bf : Bool) (rm : Rm) (sat : Bool) (d a b c : Nat) (t : Thread) : Thread :=
  let ty : F1Ty := if bf then .bf16x2 else .f16x2
  t.deliver false 32 d (elemsUnder (t.rm rm) [fun m => Fmt.f32.dot2 m sat (srcEl ty t a 0) (srcEl ty t b 0)
    (srcEl ty t a 1) (srcEl ty t b 1) (Fmt.f32.dec (t.src c).toNat)] t.rng)

/-- FMIN and FMAX of FP0. -/
def laneMinmax (mx : Bool) (d a b : Nat) (t : Thread) : Thread :=
  let r := Fmt.f32.minmax mx (t.src a).toNat (t.src b).toNat
  (t.dst d (BitVec.ofNat 32 r.1)).raiseFlags r.2
/-- FCPYS, FABS, FNEG alter only the sign bit and raise no flag. -/
def fcpys (a b : Word) : Word := (b &&& 0x80000000) ||| (a &&& 0x7FFFFFFF)
def laneFabs (d a : Nat) (t : Thread) : Thread := t.dst d (t.src a &&& 0x7FFFFFFF)
def laneFneg (d a : Nat) (t : Thread) : Thread := t.dst d (t.src a ^^^ 0x80000000)

/-! ## FP2 and FP3 (R123 to R126) -/

def F1Ty.ofDbl (dbl : Bool) : F1Ty := if dbl then .f64 else .f32
def F2Ty.f1 : F2Ty → F1Ty
  | .f32 => .f32 | .f16x2 => .f16x2 | .bf16x2 => .bf16x2

def laneFsqrt (dbl : Bool) (rm : Rm) (d a : Nat) (t : Thread) : Thread :=
  elementwise (F1Ty.ofDbl dbl) rm (fun i m => (F1Ty.fmt (F1Ty.ofDbl dbl)).sqrt m (srcEl (F1Ty.ofDbl dbl) t a i)) d t

/-- FRCP and FRSQ: no mode is read. -/
def laneApprox (fn : ApproxFn) (dbl : Bool) (d a : Nat) (t : Thread) : Thread :=
  let r := if dbl then approx64 fn (t.srcPair a).toNat else approx32 fn (t.src a).toNat
  (t.dstN dbl d r.1).raiseFlags r.2

/-- The approximate functions on f32 and packed types. -/
def laneApprox2 (fn : ApproxFn) (ty : F2Ty) (d a : Nat) (t : Thread) : Thread :=
  elementwise (F2Ty.f1 ty) .rne (fun i _ =>
    match ty with
    | .f32 => approx32 fn (t.src a).toNat
    | .f16x2 => approxElem Fmt.f16 fn (elem 16 (t.src a).toNat i)
    | .bf16x2 => approxElem Fmt.bf16 fn (elem 16 (t.src a).toNat i)) d t

/-- FRND (R126): an integral value, never NX. -/
def Fmt.rnd (F : Fmt) (m : Mode) (x : Nat) : Nat × Nat :=
  match F.dec x with
  | .nan sg => F.nan sg
  | .inf _ => (x, 0)
  | .fin neg k e =>
    if k = 0 ∨ 0 ≤ e then (x, 0)
    else ((F.round .rne false neg (quantize m neg (scaleN k (-e)) (scaleD 1 (-e)) 0).1 1).1, 0)

/-- Under DYN with MODE 5, NV and the source unchanged (R123); no draw is taken (log entry 9). -/
def laneFrnd (ty : F1Ty) (rm : Rm) (d a : Nat) (t : Thread) : Thread :=
  if t.rm rm = .sto then (t.dstN (F1Ty.is64 ty) d (t.srcN (F1Ty.is64 ty) a)).raiseFlags fNV
  else elementwise ty rm (fun i m =>
    (F1Ty.fmt ty).rnd m (elem (F1Ty.fmt ty).width (t.srcN (F1Ty.is64 ty) a) i)) d t

/-- The class mask of R126. -/
def Fmt.cls (F : Fmt) (x : Nat) : Nat :=
  match F.dec x with
  | .nan sg => if sg then 256 else 512
  | .inf n => if n then 1 else 128
  | .fin neg m _ =>
    if m = 0 then if neg then 8 else 16
    else if m < 2 ^ F.man then if neg then 4 else 32
    else if neg then 2 else 64

def laneFclass (dbl : Bool) (d a : Nat) (t : Thread) : Thread :=
  t.dst d (BitVec.ofNat 32 ((F1Ty.fmt (F1Ty.ofDbl dbl)).cls (t.srcN dbl a)))

/-- FGETX (R126). -/
def Fmt.getx (F : Fmt) (x : Nat) : Word × Nat :=
  match F.dec x with
  | .nan sg => (0x7FFFFFFF, if sg then fNV else 0)
  | .inf _ => (0x7FFFFFFF, 0)
  | .fin _ m e => if m = 0 then (0x80000000, 0) else (BitVec.ofInt 32 ((Nat.log2 m : Int) + e), 0)

def laneFgetx (dbl : Bool) (d a : Nat) (t : Thread) : Thread :=
  let r := (F1Ty.fmt (F1Ty.ofDbl dbl)).getx (t.srcN dbl a)
  (t.dst d r.1).raiseFlags r.2

/-- FSCALE (R126): an exponent beyond ±8000 gives what ±8000 gives in every format. -/
def Fmt.scale (F : Fmt) (m : Mode) (sat : Bool) (x : Nat) (k : Int) : Nat × Nat :=
  match F.dec x with
  | .nan sg => F.nan sg
  | .inf _ => (x, 0)
  | .fin neg v e => F.roundZ m sat (if neg then -(v : Int) else v) (e + clampI (-8000) 8000 k) neg

def laneFscale (dbl : Bool) (rm : Rm) (sat : Bool) (d a b : Nat) (t : Thread) : Thread :=
  elementwise (F1Ty.ofDbl dbl) rm (fun _ m =>
    (F1Ty.fmt (F1Ty.ofDbl dbl)).scale m sat (t.srcN dbl a) (t.src b).toInt) d t

/-! ## Conversions (R127 to R131) -/

/-- A source or destination type of the conversions: an integer of a sign and width, a float, or e8m0. -/
inductive CvtClass where
  | int (sg : Bool) (w : Nat)
  | flt (F : Fmt)
  | e8
deriving DecidableEq, Repr

/-- The class of an element type; a packed type counts as its element. -/
def Ty.cvtClass : Ty → CvtClass
  | .s32 => .int true 32 | .n32 => .int false 32 | .s64 => .int true 64 | .n64 => .int false 64
  | .s16 | .s16x2 => .int true 16 | .n16 | .n16x2 | .cb2 => .int false 16
  | .s8 | .s8x4 => .int true 8 | .n8 | .n8x4 => .int false 8
  | .s4 => .int true 4 | .n4 => .int false 4
  | .f32 => .flt Fmt.f32 | .f64 => .flt Fmt.f64
  | .f16 | .f16x2 => .flt Fmt.f16 | .bf16 | .bf16x2 => .flt Fmt.bf16
  | .e4m3 | .e4m3x4 => .flt Fmt.e4m3 | .e5m2 | .e5m2x4 => .flt Fmt.e5m2 | .e2m1 => .flt Fmt.e2m1
  | .e8m0 => .e8

def CvtClass.width : CvtClass → Nat
  | .int _ w => w
  | .flt F => F.width
  | .e8 => 8

/-- The value of a source's bits: an integer has no −0. -/
def CvtClass.val (c : CvtClass) (x : Nat) : FV :=
  match c with
  | .int sg w => let v := if sg then sInt w (x % 2 ^ w) else ((x % 2 ^ w : Nat) : Int); .fin (decide (v < 0)) v.natAbs 0
  | .flt F => F.dec (x % 2 ^ F.width)
  | .e8 => if x % 256 = 255 then .nan false else .fin false 1 ((x % 256 : Nat) - 127)

/-- Float to integer (R128): clamps; NV alone when clamped or NaN. -/
def toInt (sg : Bool) (w : Nat) (m : Mode) (v : FV) : Nat × Nat :=
  match v with
  | .nan _ => (0, fNV)
  | .inf n => (wrap w (clampTo sg w (if n then -(2 ^ 64 : Int) else 2 ^ 64)), fNV)
  | .fin neg k e =>
    let q := quantize m neg (scaleN k (-e)) (scaleD 1 (-e)) 0
    let i : Int := if neg then -(q.1 : Int) else q.1
    if clampTo sg w i = i then (wrap w i, if q.2 then fNX else 0) else (wrap w (clampTo sg w i), fNV)

/-- The exponent k of the power of two that m selects for the positive n / d (R129), and whether 2^k differs. -/
def pow2Of (m : Mode) (n d : Nat) : Int × Bool :=
  let k := flog2 n d
  let num := scaleN n k
  let den := scaleD d k
  -- num / den is in [1, 2)
  let r := num - den
  let up := match m with
    | .rz | .rdn => false
    | .rup => decide (r ≠ 0)
    | .rne => decide (den < 2 * r) || (decide (2 * r = den) && decide ((k + 127) % 2 ≠ 0))
    | .rna => decide (den ≤ 2 * r)
    | .sto s => decide (r ≠ 0) && decide (s < r * 16777216 / den)
  (if up then k + 1 else k, decide (r ≠ 0))

/-- To e8m0 (R129). -/
def toE8 (m : Mode) (sat : Bool) (v : FV) : Nat × Nat :=
  match v with
  | .nan _ => (255, fNV)
  | .inf n => if n then (255, fNV) else if sat then (254, forr fOF fNX) else (255, fNV)
  | .fin neg k e =>
    if k = 0 then (0, forr fUF fNX)
    else if neg then (255, fNV)
    else
      let p := pow2Of m (scaleN k (-e)) (scaleD 1 (-e))
      if p.1 < -127 then (0, forr fUF fNX)
      else if 127 < p.1 then (if sat then 254 else 255, forr fOF fNX)
      else ((p.1 + 127).toNat, if p.2 then fNX else 0)

/-- To a float type (R128, R129). A NaN into e2m1 gives +0 and NV. -/
def toFlt (F : Fmt) (m : Mode) (sat : Bool) (v : FV) : Nat × Nat :=
  match v with
  | .nan sg => if F.width = 4 then (0, fNV) else F.nan sg
  | .inf n =>
    match F.infBits with
    | some i => if F.width = 8 ∧ sat then (F.signBit n + F.maxBits, forr fOF fNX) else (F.signBit n + i, 0)
    | none => F.inf sat n
  | .fin neg k e => F.roundZ m sat (if neg then -(k : Int) else k) e neg

/-- One conversion of an element: bits of the destination's width, and flags. -/
def convert (dt st : Ty) (sat : Bool) (x : Nat) : El := fun m =>
  match Ty.cvtClass st, Ty.cvtClass dt with
  | .int sg w, .int sg' w' =>
    let v := if sg then sInt w (x % 2 ^ w) else ((x % 2 ^ w : Nat) : Int)
    (wrap w' (if sat then clampTo sg' w' v else v), 0)
  | c, .int sg' w' => toInt sg' w' m (c.val x)
  | c, .flt F => toFlt F m sat (c.val x)
  | c, .e8 => toE8 m sat (c.val x)

/-- Writes a scalar of a type: a pair for the 64-bit types, 8 and 16-bit signed integers sign-extended (R127). -/
def Thread.dstTy (t : Thread) (ty : Ty) (d x : Nat) : Thread :=
  match ty with
  | .s64 | .n64 | .f64 => t.dstPair d (BitVec.ofNat 64 x)
  | .s16 => t.dst d (BitVec.ofInt 32 (sInt 16 x))
  | .s8 => t.dst d (BitVec.ofInt 32 (sInt 8 x))
  | _ => t.dst d (BitVec.ofNat 32 x)

/-- A scalar source of a type. -/
def Thread.srcTy (t : Thread) (ty : Ty) (a : Nat) : Nat :=
  match ty with
  | .s64 | .n64 | .f64 => (t.srcPair a).toNat
  | _ => (t.src a).toNat

def laneCvt (dt st : Ty) (rm : Rm) (sat : Bool) (d a : Nat) (t : Thread) : Thread :=
  let r := elemsUnder (t.rm rm) [convert dt st sat (t.srcTy st a)] t.rng
  ({ t with rng := r.2.2 }.dstTy dt d (r.1.headD 0)).raiseFlags r.2.1

/-- CVTP (R130). -/
def laneCvtp (dt : Ty) (rm : Rm) (sat : Bool) (d a b c h : Nat) (t : Thread) : Thread :=
  let r := elemsUnder (t.rm rm) [convert dt .f32 sat (t.src a).toNat, convert dt .f32 sat (t.src b).toNat] t.rng
  let v := fromElems (CvtClass.width (Ty.cvtClass dt)) r.1
  let w := if CvtClass.width (Ty.cvtClass dt) = 16 then v
    else if h = 0 then (t.src c).toNat / 65536 * 65536 + v else v * 65536 + (t.src c).toNat % 65536
  ({ t with rng := r.2.2 }.dst d (BitVec.ofNat 32 w)).raiseFlags r.2.1

/-- CVTE (R131). -/
def laneCvte (dt st : Ty) (rm : Rm) (sat : Bool) (d a i : Nat) (t : Thread) : Thread :=
  let r := elemsUnder (t.rm rm) [convert dt st sat (elem (CvtClass.width (Ty.cvtClass st)) (t.src a).toNat i)] t.rng
  ({ t with rng := r.2.2 }.dstTy dt d (r.1.headD 0)).raiseFlags r.2.1

/-! ## The meanings -/

/-- FADD of FP0 (R120). -/
def execFadd (d a b : Nat) (s : State) : Out := .next (s.lanesOk (fp2s Fmt.add .f32 .rne false d a b))
/-- FSUB of FP0 (R120). -/
def execFsub (d a b : Nat) (s : State) : Out := .next (s.lanesOk (fp2s fSub .f32 .rne false d a b))
/-- FMUL of FP0 (R120). -/
def execFmul (d a b : Nat) (s : State) : Out := .next (s.lanesOk (fp2s Fmt.mul .f32 .rne false d a b))
/-- FMIN (R120). -/
def execFmin (d a b : Nat) (s : State) : Out := .next (s.lanesOk (laneMinmax false d a b))
/-- FMAX (R120). -/
def execFmax (d a b : Nat) (s : State) : Out := .next (s.lanesOk (laneMinmax true d a b))
/-- FCPYS (R120). -/
def execFcpys (d a b : Nat) (s : State) : Out := .next (s.lanesOk (bin32 fcpys d a b))
/-- FABS (R120). -/
def execFabs (d a : Nat) (s : State) : Out := .next (s.lanesOk (laneFabs d a))
/-- FNEG (R120). -/
def execFneg (d a : Nat) (s : State) : Out := .next (s.lanesOk (laneFneg d a))
/-- FADD of FP1 (R122). -/
def execFaddFp1 (ty : F1Ty) (rm : Rm) (sat : Bool) (d a b : Nat) (s : State) : Out :=
  .next (s.lanesOk (fp2s Fmt.add ty rm sat d a b))
/-- FSUB of FP1 (R122). -/
def execFsubFp1 (ty : F1Ty) (rm : Rm) (sat : Bool) (d a b : Nat) (s : State) : Out :=
  .next (s.lanesOk (fp2s fSub ty rm sat d a b))
/-- FMUL of FP1 (R122). -/
def execFmulFp1 (ty : F1Ty) (rm : Rm) (sat : Bool) (d a b : Nat) (s : State) : Out :=
  .next (s.lanesOk (fp2s Fmt.mul ty rm sat d a b))
/-- FFMA (R122). -/
def execFfma (ty : F1Ty) (rm : Rm) (sat : Bool) (d a b c : Nat) (s : State) : Out :=
  .next (s.lanesOk (fused false false ty rm sat d a b c))
/-- FFMS (R122). -/
def execFfms (ty : F1Ty) (rm : Rm) (sat : Bool) (d a b c : Nat) (s : State) : Out :=
  .next (s.lanesOk (fused false true ty rm sat d a b c))
/-- FNMA (R122). -/
def execFnma (ty : F1Ty) (rm : Rm) (sat : Bool) (d a b c : Nat) (s : State) : Out :=
  .next (s.lanesOk (fused true false ty rm sat d a b c))
/-- FNMS (R122). -/
def execFnms (ty : F1Ty) (rm : Rm) (sat : Bool) (d a b c : Nat) (s : State) : Out :=
  .next (s.lanesOk (fused true true ty rm sat d a b c))
/-- FDOT2 (R122). -/
def execFdot2 (bf : Bool) (rm : Rm) (sat : Bool) (d a b c : Nat) (s : State) : Out :=
  .next (s.lanesOk (laneFdot2 bf rm sat d a b c))
/-- FDIV (R123, R124). -/
def execFdiv (dbl : Bool) (rm : Rm) (sat : Bool) (d a b : Nat) (s : State) : Out :=
  .next (s.lanesOk (fp2s Fmt.div (F1Ty.ofDbl dbl) rm sat d a b))
/-- FSQRT (R123, R124). -/
def execFsqrt (dbl : Bool) (rm : Rm) (d a : Nat) (s : State) : Out := .next (s.lanesOk (laneFsqrt dbl rm d a))
/-- FRCP (R124, R125). -/
def execFrcp (dbl : Bool) (d a : Nat) (s : State) : Out := .next (s.lanesOk (laneApprox .rcp dbl d a))
/-- FRSQ (R124, R125). -/
def execFrsq (dbl : Bool) (d a : Nat) (s : State) : Out := .next (s.lanesOk (laneApprox .rsq dbl d a))
/-- FEXP2 (R124, R125). -/
def execFexp2 (ty : F2Ty) (d a : Nat) (s : State) : Out := .next (s.lanesOk (laneApprox2 .exp2 ty d a))
/-- FLOG2 (R124, R125). -/
def execFlog2 (ty : F2Ty) (d a : Nat) (s : State) : Out := .next (s.lanesOk (laneApprox2 .log2 ty d a))
/-- FSIN (R124, R125). -/
def execFsin (ty : F2Ty) (d a : Nat) (s : State) : Out := .next (s.lanesOk (laneApprox2 .sin ty d a))
/-- FCOS (R124, R125). -/
def execFcos (ty : F2Ty) (d a : Nat) (s : State) : Out := .next (s.lanesOk (laneApprox2 .cos ty d a))
/-- FTANH (R124, R125). -/
def execFtanh (ty : F2Ty) (d a : Nat) (s : State) : Out := .next (s.lanesOk (laneApprox2 .tanh ty d a))
/-- FSIGM (R124, R125). -/
def execFsigm (ty : F2Ty) (d a : Nat) (s : State) : Out := .next (s.lanesOk (laneApprox2 .sigm ty d a))
/-- FRND (R123, R126). -/
def execFrnd (ty : F1Ty) (rm : Rm) (d a : Nat) (s : State) : Out := .next (s.lanesOk (laneFrnd ty rm d a))
/-- FCLASS (R126). -/
def execFclass (dbl : Bool) (d a : Nat) (s : State) : Out := .next (s.lanesOk (laneFclass dbl d a))
/-- FSCALE (R126). -/
def execFscale (dbl : Bool) (rm : Rm) (sat : Bool) (d a b : Nat) (s : State) : Out :=
  .next (s.lanesOk (laneFscale dbl rm sat d a b))
/-- FGETX (R126). -/
def execFgetx (dbl : Bool) (d a : Nat) (s : State) : Out := .next (s.lanesOk (laneFgetx dbl d a))
/-- CVT (R127 to R129). -/
def execCvt (dt st : Ty) (rm : Rm) (sat : Bool) (d a : Nat) (s : State) : Out :=
  .next (s.lanesOk (laneCvt dt st rm sat d a))
/-- CVTP (R130). -/
def execCvtp (dt : Ty) (rm : Rm) (sat : Bool) (d a b c h : Nat) (s : State) : Out :=
  .next (s.lanesOk (laneCvtp dt rm sat d a b c h))
/-- CVTE (R131). -/
def execCvte (dt st : Ty) (rm : Rm) (sat : Bool) (d a i : Nat) (s : State) : Out :=
  .next (s.lanesOk (laneCvte dt st rm sat d a i))

end Sys2Proof.Machine
end

