-- ==== Sys2Proof/Machine/Routes.lean ====
section
/-! DEFINITION. The dies and their links (R9, R10), where a physical address is homed (R209), what the state of the dies
on a route does to an access (R18), the system registers DIESTATE and LINKEPOCH (R55, R339), and the event counts and
counter views (R353). -/

namespace Sys2Proof.Machine

/-! ## Dies and links. Dies are CD0 to CD3, IO0 and IO1 as 0 to 5, the order of DIESTATE. -/

/-- The thirteen die-to-die links by their ends, in the order of R9 (numbering: log entry 10). -/
def linkEnds : List (Nat × Nat) :=
  [(0, 4), (0, 5), (0, 1), (0, 2), (1, 4), (1, 5), (1, 3), (2, 4), (2, 5), (2, 3), (3, 4), (3, 5), (4, 5)]

/-- The links of a die. -/
def dieLinks (d : Nat) : List Nat :=
  (List.range 13).filter fun l => decide ((linkEnds.getD l (0, 0)).1 = d) || decide ((linkEnds.getD l (0, 0)).2 = d)

/-- Whether two compute dies are adjacent in the 2×2 arrangement. -/
def adjacent (a b : Nat) : Bool := decide (a ≠ b) && decide (a + b ≠ 3)

/-- The dies of the route from one die to another (R10). -/
def route (a b : Nat) : List Nat :=
  if a = b then [a]
  else if a < 4 ∧ b < 4 ∧ ¬ adjacent a b then
    [a, ((List.range 4).find? fun x => adjacent x a && adjacent x b).getD a, b]
  else [a, b]

/-- The home I/O die of a physical address: bit 16 (R209). -/
def homeDie (a : Nat) : Nat := 4 + a / 65536 % 2

/-- The I/O die of a fabric port: ports 0 to 8 on IO0, 9 to 17 on IO1 (R9; numbering: log entry 10). -/
def portDie (p : Nat) : Nat := if p < 9 then 4 else 5

/-- What the dies of a route allow an access that would start now (R18). -/
inductive Gate where
  | go
  | stall
  /-- Fails, naming the die that is in Dawn or Midnight. -/
  | dead (die : Nat)
deriving DecidableEq, Repr

def State.gate (s : State) (dies : List Nat) : Gate :=
  match dies.find? fun d => decide ((s.die d).st = .dawn) || decide ((s.die d).st = .midnight) with
  | some d => .dead d
  | none => if dies.any fun d => decide ((s.die d).st = .dusk) then .stall else .go

/-- The first die of a route that is in Dusk. -/
def State.duskOn (s : State) (dies : List Nat) : Option Nat := dies.find? fun d => decide ((s.die d).st = .dusk)

/-- DIESTATE (R55). -/
def State.dieStateWord (s : State) : Nat :=
  fromElems 2 ((List.range 6).map fun d => DieState.code (s.die d).st)

/-- Whether a direction is between steps 1 and 3 of a rollover (R319). -/
def KeyDir.rolling (k : KeyDir) : Bool := k.installed || k.marker.isSome

/-- LINKEPOCH of a compute die (R319, R339): the lowest sending epoch among its keyed links, and ROLL. -/
def State.linkEpochWord (s : State) (d : Nat) : Nat :=
  let ls := ((dieLinks d).map s.link).filter Link.keyed
  let low := match ls with
    | [] => 0
    | l :: r => r.foldl (fun m x => Nat.min m (Nat.min x.dirA.send x.dirB.send)) (Nat.min l.dirA.send l.dirB.send)
  low % 16777216 * 256 + (if ls.any fun l => l.dirA.rolling || l.dirB.rolling then 1 else 0)

/-! ## Event counts (R353). The table is keyed by event number and quadrant, 1023 for the device. -/

def evKey (n idx : Nat) : Nat := n * 1024 + idx
/-- The key of a derived event's count: partition, index, bin and scope (a quadrant, or 1023 for the partition). -/
def derKey (p i bin idx : Nat) : Nat := 2 ^ 40 + ((p * 32 + i) * 8 + bin) * 1024 + idx

def State.countEv (n idx by_ : Nat) (s : State) : State := s.count (evKey n idx) by_

/-- The partition that holds a quadrant (R238). -/
def State.partOfQuad (s : State) (q : QuadId) : Option Nat :=
  (s.parts.find? fun p => decide (q ∈ p.2.quads)).map Prod.fst

/-- The raw events that exist (R353). -/
def rawEvents : List Nat :=
  [0x01, 0x02, 0x10, 0x11, 0x12, 0x13, 0x14, 0x15, 0x16, 0x17, 0x18, 0x20, 0x21, 0x22, 0x23, 0x24, 0x25, 0x26, 0x30,
   0x31, 0x32, 0x40]

/-- The events that happen at ports, dies and storage outside the quadrants: a view of one counts the whole device, over
whichever quadrant or partition it is set (log entry 11). -/
def deviceEvents : List Nat := [0x25, 0x30, 0x31, 0x40]

/-- The count of a raw event in a quadrant, or for the device. Cycles are those since power-on; those of the idle class are
the ones that no other class has (R355). -/
def State.evCount (s : State) (n idx : Nat) : Nat :=
  let all := s.clock.cycle - s.root.poweredAt
  if n = 0x01 then all
  else if n = 0x13 then
    all - ([0x10, 0x11, 0x12, 0x14, 0x15, 0x16, 0x17, 0x18].map fun k => tget 0 s.events (evKey k idx)).foldl (· + ·) 0
  else tget 0 s.events (evKey n idx)

/-- The count of a raw event in a quadrant or over a partition. -/
def State.rawCount (s : State) (p : Nat) (quadrant : Option QuadId) (n : Nat) : Nat :=
  if n ∈ deviceEvents then s.evCount n 1023
  else match quadrant with
    | some q => s.evCount n (QuadId.idx q)
    | none => ((s.part p).quads.map fun q => s.evCount n (QuadId.idx q)).foldl (· + ·) 0

/-- The full count that a view shows, before its clearing point. -/
def State.viewCount (s : State) (p : Nat) (q : QuadId) (v : View) : Option Nat :=
  match v.ev with
  | .raw n => if n ∈ rawEvents then some (s.rawCount p (if v.quadrant then some q else none) n) else none
  | .derived i =>
    match (s.part p).derived.find? fun e => decide (e.1 = i) with
    | none => none
    | some _ => some (tget 0 s.events (derKey p i v.bin (if v.quadrant then QuadId.idx q else 1023)))

/-- The key under which a view's count at its last clearing stands: views over a quadrant have one for each. -/
def viewKey (i : Nat) (v : View) (q : QuadId) : Nat := i * 1024 + (if v.quadrant then QuadId.idx q else 1023)

/-- Counter view i as a thread reads it (R353); a view with no event assigned reads zero (log entry 11). -/
def State.viewWord (s : State) (p : Nat) (q : QuadId) (i : Nat) : Nat :=
  match (s.part p).views.find? fun e => decide (e.1 = i) with
  | none => 0
  | some e =>
    match s.viewCount p q e.2 with
    | none => 2 ^ 31
    | some n => (n - tget 0 (s.part p).viewBase (viewKey i e.2 q)) % 2 ^ 31

end Sys2Proof.Machine
end

