-- ==== Sys2Proof/Machine/View.lean ====
section
/-! DEFINITION. The levels of memory: the device point, the L2, the images and written bytes of a core (R73 to R76,
R205 to R209), publication, and the blocks, predictor and victim tags of the L1 (R202 to R204, R210, R211). -/

namespace Sys2Proof.Machine

/-! ## Keys of bytes -/

/-- Bytes of other devices have keys from here on: a device, and an address there (R188). -/
def remoteBase : Nat := 2 ^ 60
def isRemote (k : Nat) : Bool := decide (remoteBase ≤ k)
/-- The key of a virtual address of a device, and of a byte of a frame of an agent (R212). -/
def remoteKey (dev addr : Nat) : Nat := (dev + 1) * remoteBase + addr
def remoteFrameKey (agent addr : Nat) : Nat := (agent + 1) * remoteBase + 2 ^ 58 + addr
def remoteDev (k : Nat) : Nat := k / remoteBase - 1

/-- The words of some bytes, each once. -/
def wordsOf16 (keys : List Nat) : List Nat := (keys.map fun k => k / 16).eraseDups

/-! ## The device point and its frame table (R217, R219) -/

/-- 64 bits of device memory as the front ends and supervisors see them: at the device point. -/
def State.dev64 (s : State) (a : Nat) : Nat := leNat (Memory.readN s.mem a 8)
def State.dev32 (s : State) (a : Nat) : Nat := leNat (Memory.readN s.mem a 4)
/-- An update at the device point. -/
def State.devWrite (a : Nat) (bs : List Byte) (s : State) : State := s.setMem (Memory.writeN s.mem a bs)
def State.devWriteN (a n v : Nat) (s : State) : State := s.devWrite a (natLE n v)

/-- The address of a frame's entry in the frame table (R217); none before the table is set. -/
def State.frameEntry (s : State) (pa : Nat) : Option Nat :=
  if s.root.frameTable = 0 then none else some (s.root.frameTable + 8 * (pa / 65536))

/-- A frame's entry. -/
def State.frameWord (s : State) (pa : Nat) : Nat := ((s.frameEntry pa).map s.dev64).getD 0

/-- An agent's write to a frame waits: LOCK is held by another (R219). -/
def State.lockedFor (s : State) (agent pa : Nat) : Bool :=
  let e := s.frameWord pa
  e.testBit 63 && decide (e / 2 ^ 42 % 2 ^ 21 ≠ agent)

/-- A write of this device waits at a frame. -/
def State.frameLocked (s : State) (pa : Nat) : Bool := s.lockedFor Config.devid.toNat pa

/-- A frame has been moved: no write is applied to it (R219). -/
def State.frameMoved (s : State) (pa : Nat) : Bool := (s.frameWord pa).testBit 41

/-! ## The L2 (R208, R209) -/

def Die.line? (d : Die) (n : Nat) : Option L2Line := d.l2.find? fun l => decide (l.line = n)
def Die.emptyLine (n : Nat) : L2Line := { line := n, fill := none, clean := [], dirty := [], poison := false }
/-- Puts a line, as the latest; a line with nothing in it is not kept. -/
def Die.putLine (l : L2Line) (d : Die) : Die :=
  let r := d.l2.filter fun x => decide (x.line ≠ l.line)
  { d with l2 := if l.fill.isNone ∧ l.dirty.isEmpty then r else r ++ [l] }

/-- Lines that an L2, and a memory-side cache, hold (R11, R208). -/
def l2Lines : Nat := 786432
def cachedLines : Nat := 2097152

/-- A line is in the memory-side cache of its home (R208): the latest of it. -/
def State.touchCached (n : Nat) (s : State) : State :=
  s.modDie (homeDie (128 * n)) fun x =>
    if x.cached.head? = some n then x else { x with cached := n :: (x.cached.filter fun m => decide (m ≠ n)).take (cachedLines - 1) }

/-- A line leaves the memory-side cache of its home (R194). -/
def State.dropCached (n : Nat) (s : State) : State :=
  s.modDie (homeDie (128 * n)) fun x => { x with cached := x.cached.filter fun m => decide (m ≠ n) }

/-- The 128 bytes of a line at the device point, as cells. -/
def lineCells (m : List Host.Cell) (n : Nat) : List Host.Cell :=
  (List.range 128).filterMap fun i =>
    let b := Memory.read m (128 * n + i)
    if b = Memory.blank then none else some (128 * n + i, b)

/-- The L2 serves a phase: any filled line, but after an acquire at device or domain scope only a line filled since
(R209). -/
def L2Line.serves (l : L2Line) (sc : Scope) (since : Nat) : Bool :=
  match l.fill with
  | none => false
  | some f => match sc with
    | .device | .domain => decide (since ≤ f)
    | _ => true

/-- A read of a line leaves the die: the L2 does not serve it. -/
def State.l2Misses (s : State) (d : Nat) (sc : Scope) (since n : Nat) : Bool :=
  match (s.die d).line? n with
  | some l => !(l.serves sc since)
  | none => true

/-- The L2 line refreshed from the device point, with the poison that it has there (R215). -/
def State.l2Fill (d n : Nat) (s : State) : State :=
  (s.touchCached n).modDie d fun x =>
    let l := (x.line? n).getD (Die.emptyLine n)
    x.putLine { l with fill := some s.clock.tick, clean := lineCells s.mem n,
                       poison := decide (n ∈ s.poison) || (l.poison && !l.dirty.isEmpty) }

def State.ensureL2 (d : Nat) (sc : Scope) (since n : Nat) (s : State) : State :=
  if s.l2Misses d sc since n then s.l2Fill d n else s

/-- A byte published in the L2 and not yet at the device point. -/
def State.l2Dirty (s : State) (d a : Nat) : Option Dirty :=
  ((s.die d).line? (a / 128)).bind fun l => l.dirty.find? fun e => decide (e.addr = a)

/-- A byte at the cluster point of a die (R73, R208). -/
def State.readL2 (s : State) (d a : Nat) : Byte :=
  match s.l2Dirty d a with
  | some v => v.val
  | none => match (s.die d).line? (a / 128) with
    | some l => if l.fill.isSome then Memory.read l.clean a else Memory.read s.mem a
    | none => Memory.read s.mem a

/-- What a die reads of a byte of the device point: a byte that it published and that is not there yet counts as there. -/
def State.readDev (s : State) (d a : Nat) : Byte :=
  match s.l2Dirty d a with
  | some v => v.val
  | none => Memory.read s.mem a

/-- Writes a byte at the cluster point of a die, published by a core. -/
def State.writeL2 (d a : Nat) (b : Byte) (core : Nat) (s : State) : State :=
  s.modDie d fun x =>
    let l := (x.line? (a / 128)).getD (Die.emptyLine (a / 128))
    let cs := ((l.dirty.find? fun e => decide (e.addr = a)).map Dirty.cores).getD []
    x.putLine { l with dirty := (l.dirty.filter fun e => decide (e.addr ≠ a)) ++
      [{ addr := a, val := b, cores := if core ∈ cs then cs else cs ++ [core], pub := s.clock.tick }] }

/-- A byte made present at the device point, and in the L2 of die `d` where it holds the line (R76); nothing is written to
a frame that has been moved (R219). -/
def State.writeDev (d a : Nat) (b : Byte) (s : State) : State :=
  let gone := s.frameMoved a
  (if gone then s else (s.setMem (Memory.write s.mem a b)).touchCached (a / 128)).modDie d fun x =>
    match x.line? (a / 128) with
    | none => x
    | some l => x.putLine { l with clean := if l.fill.isSome ∧ ¬ gone then Memory.write l.clean a b else l.clean,
                                   dirty := l.dirty.filter fun e => decide (e.addr ≠ a) }

/-- A line is poisoned at the device point (R215). -/
def State.poisonDev (n : Nat) (s : State) : State := if n ∈ s.poison then s else { s with poison := s.poison ++ [n] }

/-- A line is poisoned in the L2 of a die, where it holds it. -/
def State.poisonL2 (d n : Nat) (s : State) : State :=
  s.modDie d fun x => match x.line? n with
    | none => x
    | some l => x.putLine { l with poison := true }

def State.l2Poisoned (s : State) (d n : Nat) : Bool := (((s.die d).line? n).map L2Line.poison).getD false

/-- The published bytes of a die that a test accepts go to the device point; bytes of a poisoned line take the poison
with them. -/
def State.pushL2 (d : Nat) (want : Dirty → Bool) (s : State) : State :=
  ((s.die d).l2.flatMap L2Line.dirty).foldl (fun st e =>
    if want e then (if s.l2Poisoned d (e.addr / 128) then (st.writeDev d e.addr e.val).poisonDev (e.addr / 128) else st.writeDev d e.addr e.val)
    else st) s

/-- Drops the clean copies of some lines in a die's L2. -/
def State.dropL2 (d : Nat) (keys : List Nat) (s : State) : State :=
  ((keys.map fun k => k / 128).eraseDups).foldl (fun st n => st.modDie d fun x => match x.line? n with
    | some l => x.putLine { l with fill := none, clean := [] }
    | none => x) s

/-- A line may leave a die's L2: no byte that goes to the device point with it waits at a locked frame (R219), and no die
between this one and the byte's home keeps it from there (R18). -/
def State.mayEvict (s : State) (d : Nat) (l : L2Line) : Bool :=
  l.dirty.isEmpty ||
    let last := (l.dirty.map Dirty.pub).foldl Nat.max 0
    ((s.die d).l2.flatMap L2Line.dirty).all fun e =>
      decide (last < e.pub) || (!(s.frameLocked e.addr) && decide (s.gate (route d (homeDie e.addr)) = .go))

/-- A line leaves a die's L2: where it holds bytes not yet at the device point, every byte that a core published before
them goes there first (R208). It stays while it may not leave. -/
def State.evictL2 (d : Nat) (l : L2Line) (s : State) : State :=
  if !(s.mayEvict d l) then s
  else ((if l.dirty.isEmpty then s
    else s.pushL2 d fun e => decide (e.pub ≤ (l.dirty.map Dirty.pub).foldl Nat.max 0)).dropL2 d [128 * l.line]).touchCached l.line

/-- The oldest line that may leave a die's L2 leaves it. -/
def State.evictOldest (d : Nat) (s : State) : State :=
  match (s.die d).l2.find? (s.mayEvict d) with
  | none => s
  | some l => s.evictL2 d l

/-- An L2 that holds more lines than it has room for loses its oldest, till it holds no more than that (R11; log entry 60). -/
def State.trimL2 (d : Nat) (s : State) : State :=
  ((s.die d).l2.drop l2Lines).foldl (fun st _ => st.evictOldest d) s

/-! ## Publication (R76, R207) -/

/-- One core write reaches a point: the L2 of its die at cluster scope, the device point beyond. -/
def State.publishOne (c : CoreId) (sc : Scope) (w : CoreWrite) (s : State) : State :=
  let bad := decide (w.addr / 128 ∈ (s.core c).poison)
  match sc with
  | .cluster =>
    let s1 := s.writeL2 c.die w.addr w.val (CoreId.idx c)
    if bad then s1.poisonL2 c.die (w.addr / 128) else s1
  | .device | .domain =>
    let s1 := s.writeDev c.die w.addr w.val
    if bad then s1.poisonDev (w.addr / 128) else s1
  | _ => s

/-- Publishes the writes of a core in order: those not yet published that the test accepts. Each keeps what its byte
read below just before. Bytes of an engine operation that has not completed are not carried (R76). -/
def State.publishWrites (c : CoreId) (sc : Scope) (want : CoreWrite → Bool) : List CoreWrite → State → State × List CoreWrite
  | [], s => (s, [])
  | w :: r, s =>
    if w.pub.isNone && want w && w.engine.isNone && !isRemote w.addr then
      let s1 := s.publishOne c sc w
      let t := State.publishWrites c sc want r s1
      (t.1, { w with pub := some s.clock.tick, under := s.readL2 c.die w.addr, underDev := s.readDev c.die w.addr } :: t.2)
    else
      let t := State.publishWrites c sc want r s
      (t.1, w :: t.2)

/-- A written byte that no snapshot can ask for any more is dropped: it is published, every thread of the core began
its phase since it performed, and every image of its word is newer. A line without written bytes left has no poison here. -/
def State.prune (c : CoreId) (s : State) : State :=
  s.modCore c fun x =>
    let ws := x.writes.filter fun w =>
      match w.pub with
      | none => true
      | some p => (s.threads.any fun t => decide (t.core = c) && decide (t.acqAt < w.perf)) ||
          (x.images.any fun i => decide (i.word = w.addr / 16) && decide (i.fill ≤ p))
    { x with writes := ws, poison := x.poison.filter fun l => ws.any fun w => w.pub.isNone && decide (w.addr / 128 = l) }

def State.publish (c : CoreId) (sc : Scope) (want : CoreWrite → Bool) (s : State) : State :=
  let r := State.publishWrites c sc want (s.core c).writes s
  (r.1.modCore c fun x => { x with writes := r.2 }).prune c

/-- The core's writes of other devices' bytes are present there (R188). -/
def State.ackRemote (c : CoreId) (s : State) : State :=
  s.modCore c (fun x => { x with writes := x.writes.map (fun w =>
    if (isRemote w.addr && w.pub.isNone) = true then { w with pub := some s.clock.tick } else w) })

/-- What a release at a scope carries (R76): the core's writes, and the bytes its thread observed. Bytes that earlier
releases of the core left in the L2 go on to the device point. -/
def State.release (c : CoreId) (sc : Scope) (observed : List Nat) (s : State) : State :=
  match sc with
  | .cluster => s.publish c .cluster fun _ => true
  | .device | .domain =>
    let s1 := (s.pushL2 c.die fun e => decide (CoreId.idx c ∈ e.cores) || decide (e.addr ∈ observed)).publish c .device fun _ => true
    if sc = .domain then s1.ackRemote c else s1
  | _ => s

/-- Core writes of bytes, in order (R74). -/
def State.coreWrite (c : CoreId) (bytes : List (Nat × Byte)) (s : State) : State :=
  s.modCore c fun x => { x with writes := x.writes ++ (bytes.map fun e =>
    { addr := e.1, val := e.2, perf := s.clock.tick, pub := none, under := 0, underDev := 0, engine := none }) }

/-- Bytes that an engine operation has written and that perform when it completes (R74): till then a read may return
them (R13) and no release carries them. -/
def State.engineWrite (c : CoreId) (cmd : Nat) (bytes : List (Nat × Byte)) (s : State) : State :=
  s.modCore c fun x => { x with writes := x.writes ++ (bytes.map fun e =>
    { addr := e.1, val := e.2, perf := s.clock.tick, pub := none, under := 0, underDev := 0, engine := some cmd }) }

/-- The writes of an engine operation perform, after every write performed so far. -/
def State.performEngine (cmd : Nat) (s : State) : State :=
  { s with cores := s.cores.map fun c => (c.1, { c.2 with writes :=
      (c.2.writes.filter fun w => decide (w.engine ≠ some cmd)) ++
      ((c.2.writes.filter fun w => decide (w.engine = some cmd)).map fun w => { w with engine := none, perf := s.clock.tick }) }) }

/-! ## Images (R205, R75) -/

/-- A thread's phase may take an image: it was filled since the phase began, and after an acquire at device or domain
scope its bytes were read at the device point since (R75, R205, R209). -/
def Image.fits (t : Thread) (i : Image) : Bool :=
  decide (t.acqAt ≤ i.fill) && (match t.acqScope with
    | .device | .domain => decide (t.acqAt ≤ i.base)
    | _ => true)

/-- The bytes of an image that are a thread's snapshot, as a mask. -/
def Image.held (t : ThreadId) (i : Image) : Nat := ((i.holders.find? fun h => decide (h.1 = t)).map Prod.snd).getD 0

/-- The newest image of a word that a thread's phase may take. -/
def Core.newest (x : Core) (t : Thread) (word : Nat) : Option Image :=
  (x.images.filter fun i => decide (i.word = word) && i.fits t).foldl (fun m i => match m with
    | none => some i
    | some j => if j.fill ≤ i.fill then some i else m) none

/-- The image from which a thread reads a byte: its snapshot, else the newest of its phase. -/
def Core.imageOf (x : Core) (t : Thread) (a : Nat) : Option Image :=
  match x.images.find? fun i => decide (i.word = a / 16) && (i.held t.id).testBit (a % 16) with
  | some i => some i
  | none => x.newest t (a / 16)

/-- Bytes of a word that are in no snapshot of a thread, of those in a mask. -/
def Core.unread (x : Core) (t : ThreadId) (word mask : Nat) : Nat :=
  (x.images.filter fun i => decide (i.word = word)).foldl (fun m i => m - Nat.land m (i.held t)) mask

/-- Bytes of an image become a thread's snapshot. -/
def Image.take (t : ThreadId) (mask : Nat) (i : Image) : Image :=
  { i with holders := (i.holders.filter fun h => decide (h.1 ≠ t)) ++ [(t, Nat.lor (i.held t) mask)], slot := none }

def Image.same (i j : Image) : Bool := decide (i.word = j.word) && decide (i.fill = j.fill) && decide (i.base = j.base)

/-- An image of a word of this device, as the L2 of a die has it now. -/
def State.l2Image (s : State) (d word : Nat) (holders : List (ThreadId × Nat)) : Image :=
  let line := (s.die d).line? (word / 8)
  { word := word, fill := s.clock.tick, base := (line.bind L2Line.fill).getD s.clock.tick,
    bytes := (List.range 16).filterMap fun i =>
      let b := s.readL2 d (16 * word + i)
      if b = Memory.blank then none else some (16 * word + i, b),
    fresh := (List.range 16).filterMap fun i =>
      if (s.l2Dirty d (16 * word + i)).isSome then some (16 * word + i) else none,
    poison := (line.map L2Line.poison).getD false, holders := holders, slot := none }

/-- A new image of a word, read below for a thread's phase; for a word of another device, from the bytes returned.
`mask` are the bytes that it is read for: none, where only a block is filled. -/
def State.makeImage (t : Thread) (word mask : Nat) (answer : Option (List Host.Cell)) (s : State) : State :=
  let holders := if mask = 0 then [] else [(t.id, mask)]
  let s1 := match answer with
    | some _ => s
    | none => s.ensureL2 t.core.die t.acqScope t.acqAt (word / 8)
  s1.modCore t.core fun x => { x with images := x.images ++ [match answer with
    | some b => { word := word, fill := s.clock.tick, base := s.clock.tick, bytes := b, fresh := [], poison := false,
                  holders := holders, slot := none }
    | none => s1.l2Image t.core.die word holders] }

/-- A release reconciles the points narrower than that of its thread's atomics (R76, R80): a byte that the L2 holds and that
no later write to it stands above becomes what the device point has, and the core point takes it from there. -/
def State.reconcile (c : CoreId) (ks : List (Nat × Bool)) (s : State) : State :=
  let own := ks.filter fun k => !(isRemote k.1)
  let s1 := own.foldl (fun st k => if k.2 then st.modDie c.die fun x => (match x.line? (k.1 / 128) with
      | none => x
      | some l => if l.fill.isSome then { x with l2 := x.l2.map fun y =>
          if y.line = l.line then { y with clean := Memory.write y.clean k.1 (Memory.read st.mem k.1) } else y } else x) else st) s
  (wordsOf16 (own.map Prod.fst)).foldl (fun st w =>
    if (st.core c).images.any fun i => decide (i.word = w) then
      st.modCore c fun x => { x with images := x.images ++ [st.l2Image c.die w []] }
    else st) s1

/-- The line of a place in a core's overflow area. -/
def Core.ovLine (x : Core) (slot : Nat) : Nat := (x.ovBase + 16 * slot) / 128

/-- Whether a die's L2 holds a line. -/
def State.l2Has (s : State) (d line : Nat) : Bool := (((s.die d).line? line).map fun l => l.fill.isSome).getD false

/-- The images from which a thread reads the bytes of a word in a mask, made when there is none. An image that answers
from the overflow area returns to the L1, and its line in that area is in the L2 from then on (R206). -/
def State.image (t : Thread) (word mask : Nat) (answer : Option (List Host.Cell)) (s : State) : State :=
  let x := s.core t.core
  let new := x.unread t.id word mask
  let back (i : Image) : Image := if i.word = word ∧ Nat.land (i.held t.id) mask ≠ 0 then { i with slot := none } else i
  let far := ((x.images.filter fun i => decide (i.word = word) && decide (Nat.land (i.held t.id) mask ≠ 0)).filterMap Image.slot).map x.ovLine
  let s0 := far.foldl (fun st l => if st.l2Has t.core.die l then st else st.l2Fill t.core.die l) s
  let s1 := s0.modCore t.core fun y => { y with images := y.images.map back }
  if new = 0 then s1
  else match x.newest t word with
    | some i => s1.modCore t.core fun y => { y with images := y.images.map fun j => if j.same i then j.take t.id new else j }
    | none => s1.makeImage t word new answer

/-- The mask of the bytes of a word among some. -/
def wordMask (keys : List Nat) (word : Nat) : Nat := (keys.filter fun k => decide (k / 16 = word)).foldl (fun m k => mset m (k % 16)) 0

/-- The images of every byte of an access of this device, as a plain load reads them. -/
def State.imageAll (t : Thread) (keys : List Nat) (s : State) : State :=
  (wordsOf16 keys).foldl (fun st w => st.image t w (wordMask keys w) none) s

/-- A plain load's byte (R75): the latest core write, or the image where that is later. -/
def Core.plainByte (x : Core) (i : Image) (a : Nat) : Byte :=
  match (x.writes.filter fun w => decide (w.addr = a)).getLast? with
  | none => Memory.read i.bytes a
  | some w => match w.pub with
    | none => w.val
    | some p => if i.fill ≤ p then w.val else Memory.read i.bytes a

/-- A PST load's byte (R75): the snapshot, never a core write performed after the phase began, nor one of an engine
operation that has not completed. Where the image took such
a write from below, the byte is what was there just before it: at the device point after an acquire that reads there. -/
def Core.pstByte (x : Core) (t : Thread) (i : Image) (a : Nat) : Byte :=
  match x.writes.find? fun w => decide (w.addr = a) && w.engine.isNone && decide (t.acqAt < w.perf) &&
      (match w.pub with | some p => decide (p < i.fill) | none => false) with
  | some w => (match t.acqScope with | .device | .domain => w.underDev | _ => w.under)
  | none =>
    match (x.writes.filter fun w => decide (w.addr = a) && w.engine.isNone && decide (w.perf ≤ t.acqAt)).getLast? with
    | none => Memory.read i.bytes a
    | some w => match w.pub with
      | none => w.val
      | some p => if i.fill ≤ p then w.val else Memory.read i.bytes a

/-- The byte that a thread's load returns, its image present. -/
def State.loadByte (s : State) (t : Thread) (pst : Bool) (a : Nat) : Byte :=
  match (s.core t.core).imageOf t a with
  | none => Memory.blank
  | some i => if pst then (s.core t.core).pstByte t i a else (s.core t.core).plainByte i a

/-- A thread's load of a byte consumes poison (R215): that of the image that serves it, of the level that it reads
below, or of the written bytes that it takes. -/
def State.bytePoisoned (s : State) (t : Thread) (a : Nat) : Bool :=
  let x := s.core t.core
  (match x.imageOf t a with
    | some i => i.poison
    | none => if isRemote a then false
        else if s.l2Misses t.core.die t.acqScope t.acqAt (a / 128) then decide (a / 128 ∈ s.poison)
        else s.l2Poisoned t.core.die (a / 128)) ||
    (decide (a / 128 ∈ x.poison) && x.writes.any fun w => decide (w.addr = a) && w.pub.isNone)

/-- Threads hold no image any more: they begin a phase, exit or are saved (R205). Images in the overflow area that no
thread holds are gone; the others stay until their block is evicted. -/
def Core.letGo (gone : ThreadId → Bool) (x : Core) : Core :=
  let is := x.images.map fun i => { i with holders := i.holders.filter fun h => !(gone h.1) }
  { x with images := is.filter fun i => i.slot.isNone || !i.holders.isEmpty }

def State.dropHolder (ts : List ThreadId) (s : State) : State :=
  { s with cores := s.cores.map fun c => (c.1, c.2.letGo fun h => decide (h ∈ ts)) }

/-- The thread begins a phase with an acquire at a scope (R72, R77). -/
def State.newPhase (tid : ThreadId) (sc : Scope) (s : State) : State :=
  (s.modThread tid fun t => { t with phaseno := (t.phaseno + 1) % 2 ^ 32, acqScope := sc, acqAt := s.clock.tick }).dropHolder [tid]

/-! ## Blocks of the L1 (R202 to R204), the predictor and the victim tags (R211) -/

def popcount (n : Nat) : Nat := ((List.range 64).filter fun i => n.testBit i).length

def Block.covers (b : Block) (line w : Nat) : Bool :=
  decide (b.line = line) && decide (b.first ≤ w) && decide (w < b.first + b.len)

/-- The partition of a group. -/
def State.partOfGroup (s : State) (g : GroupId) : Nat := ((s.grid? g.grid).map Grid.part).getD 0

/-- The quadrants of a partition on a core. -/
def quadOn (c : CoreId) (q : Nat) : QuadId := { die := c.die, core := c.core, quad := q }
def Part.quadsOn (p : Part) (c : CoreId) : List Nat := (List.range 4).filter fun q => decide (quadOn c q ∈ p.quads)

/-- The words of a partition's L1 on a core: its quadrants' part of the SRAM, less what its resident teams' scratchpads
take (R201). -/
def State.l1Words (s : State) (c : CoreId) (p : Nat) : Nat :=
  24576 * ((s.part p).quadsOn c).length - ((s.teams.filter fun t => decide (t.core = c) && !t.saved &&
      decide (((s.grid? t.id.grid).map Grid.part).getD 0 = p)).map fun t =>
    4096 * ((((s.grid? t.id.grid).map fun g => g.desc.spad).getD 0 + 65535) / 65536)).foldl (· + ·) 0

/-- The mask of a block's words in its line. -/
def Block.words (b : Block) : Nat := ones b.len * 2 ^ b.first

/-- The predictor's update at the eviction of a block it sized (R203). -/
def Core.learn (x : Core) (b : Block) : Core :=
  match b.sized with
  | none => x
  | some e =>
    let s := tget 4 x.predictor e
    let n := popcount b.touched
    let s' := if n < b.len then Nat.max (s - 1) 1 else if b.nextMiss then Nat.min (s + 1) 8 else s
    { x with predictor := tput 4 x.predictor e s' }

/-- Images go to the overflow area, each to the lowest free place, whose line is then in the die's L2 (R206). -/
def Core.placeImages (want : Image → Bool) (x : Core) : Core :=
  let put (l : List Image) (i : Image) : List Image :=
    if want i && i.slot.isNone then
      let used := x.images.filterMap Image.slot ++ l.filterMap Image.slot
      l ++ [{ i with slot := some (((List.range (used.length + 1)).find? fun n => decide (n ∉ used)).getD 0) }]
    else l ++ [i]
  { x with images := x.images.foldl put [] }

def State.spill (c : CoreId) (want : Image → Bool) (s : State) : State :=
  let s1 := s.modCore c (Core.placeImages want)
  let ls := (((s1.core c).images.filterMap Image.slot).filter fun n => n ∉ (s.core c).images.filterMap Image.slot).map (s.core c).ovLine
  ls.eraseDups.foldl (fun st n => st.modDie c.die fun d =>
    d.putLine { (d.line? n).getD (Die.emptyLine n) with fill := some s.clock.tick, clean := lineCells s.mem n }) s1

/-- Evicts a block: spill publication of its written bytes (R207), its images discarded or moved to the overflow
area (R206), the victim tag (R211) and the predictor (R203). -/
def State.evictBlock (c : CoreId) (b : Block) (s : State) : State :=
  let inside (a : Nat) : Bool := b.covers (a / 128) (a / 16 % 8)
  let last := ((s.core c).writes.filter fun w => w.pub.isNone && inside w.addr).getLast?
  let s1 := match last with
    | none => s
    | some w => s.publish c .cluster fun x => decide (x.perf ≤ w.perf)
  let s2 := (s1.modCore c fun x =>
    { x.learn b with
      blocks := x.blocks.filter fun y => decide (¬ (y.line = b.line ∧ y.first = b.first)),
      images := x.images.filter fun i => !(b.covers (i.word / 8) (i.word % 8)) || !i.holders.isEmpty }).spill c
        fun i => b.covers (i.word / 8) (i.word % 8)
  let s3 := match s.group? b.owner with
    | none => s2
    | some g => s2.modQuad { die := c.die, core := c.core, quad := g.quad } fun q =>
        { q with victims := (q.victims ++ [(b.line, b.words, b.owner)]).drop (q.victims.length + 1 - 4096) }
  { s3 with groups := s3.groups.map fun g =>
      { g with winWords := g.winWords + ((b.winTouched.filter fun e => decide (e.1 = g.id)).map fun e =>
          popcount e.2).foldl (· + ·) 0 } }

/-- The block that replacement takes first (R202): evict-first, then least recently used without the retain bit. -/
def Block.before (a b : Block) : Bool :=
  let k (x : Block) : Nat := if x.evict then 0 else if x.keep then 2 else 1
  decide (k a < k b) || (decide (k a = k b) && decide (a.lastUse < b.lastUse))

def victimOf : List Block → Option Block
  | [] => none
  | b :: r => match victimOf r with
    | none => some b
    | some x => if x.before b then some x else some b

/-- The blocks of a partition in a core's L1. -/
def Core.blocksOf (x : Core) (p : Nat) : List Block := x.blocks.filter fun b => decide (b.part = p)

/-- Evicts until `need` words of a partition's L1 are free, at most `n` blocks. -/
def State.makeRoom (c : CoreId) (p need : Nat) : Nat → State → State
  | 0, s => s
  | n + 1, s =>
    let used := (((s.core c).blocksOf p).map Block.len).foldl (· + ·) 0
    if used + need ≤ s.l1Words c p then s
    else match victimOf ((s.core c).blocksOf p) with
      | none => s
      | some b => State.makeRoom c p need n (s.evictBlock c b)

/-- A partition's L1 that has become smaller evicts what it has no room for any more (R201). -/
def State.fitL1 (c : CoreId) (p : Nat) (s : State) : State := State.makeRoom c p 0 (s.core c).blocks.length s

/-- Adds to a group's touched words of a block in the lease window. -/
def touchWin (g : GroupId) (w : Nat) (l : List (GroupId × Nat)) : List (GroupId × Nat) :=
  match l.find? fun e => decide (e.1 = g) with
  | none => l ++ [(g, mset 0 w)]
  | some e => (l.filter fun x => decide (x.1 ≠ g)) ++ [(g, mset e.2 w)]

/-- The retain bit is given while retained blocks hold at most a quarter of the L1 (R204). -/
def State.mayKeep (s : State) (c : CoreId) (p len : Nat) : Bool :=
  decide (4 * (((((s.core c).blocksOf p).filter Block.keep).map Block.len).foldl (· + ·) 0 + len) ≤ s.l1Words c p)

/-- A miss of a group on a word: victim tags, and the predictor's witness of a next-word miss. -/
def State.noteMiss (g : Group) (line w : Nat) (s : State) : State :=
  let q : QuadId := { die := g.core.die, core := g.core.core, quad := g.quad }
  let hit := (s.quad q).victims.filter fun v => decide (v.1 = line) && v.2.1.testBit w
  let mine := hit.filter fun v => decide (v.2.2 = g.id)
  let s1 := s.modCore g.core fun x => { x with blocks := x.blocks.map fun b =>
    if 8 * b.line + b.first + b.len = 8 * line + w ∧ b.owner = g.id then { b with nextMiss := true } else b }
  let s2 := if hit.any fun v => decide (v.2.2 ≠ g.id) then s1.countEv 0x23 (QuadId.idx q) 1 else s1
  match mine with
  | v :: _ => (s2.modGroup g.id fun x => { x with lostloc := x.lostloc + 1 }).modQuad q fun y =>
      { y with victims := y.victims.filter fun z => decide (z ≠ v) }
  | [] => s2

/-- What the words of an access met in the L1: whether every one hit, and the words of the blocks that were allocated. -/
structure L1Res where
  hit : Bool
  fills : List Nat
deriving DecidableEq, Repr

/-- One word of an access in the L1 (R202): a hit touches it, a miss allocates a block whose words arrive at cycle
`ready`. -/
def State.l1Word (g : Group) (pc : Nat) (h : Hint) (ready word : Nat) (s : State) : State × L1Res :=
  let line := word / 8
  let w := word % 8
  let keep := decide (h = .keep)
  let p := s.partOfGroup g.id
  match (s.core g.core).blocks.find? fun b => b.covers line w with
  | some b0 =>
    (s.modCore g.core fun x => { x with blocks := x.blocks.map fun b =>
      if b.line = b0.line ∧ b.first = b0.first then
        { b with touched := mset b.touched w, lastUse := s.clock.tick, winTouched := touchWin g.id w b.winTouched,
                 evict := b.evict || decide (h = .ev), keep := b.keep || (keep && s.mayKeep g.core b.part b.len) }
      else b }, { hit := true, fills := [] })
  | none =>
    let e := pc / 4 % 1024
    let size := if h = .nl1 then 1 else tget 4 (s.core g.core).predictor e
    let first := Nat.min w (8 - size)
    let s1 := s.noteMiss g line w
    let ovl := (s1.core g.core).blocks.filter fun b =>
      decide (b.line = line) && decide (b.first < first + size) && decide (first < b.first + b.len)
    let s2 := ovl.foldl (fun st b => st.evictBlock g.core b) s1
    let s3 := State.makeRoom g.core p size (s2.core g.core).blocks.length s2
    let b : Block := { line := line, first := first, len := size, owner := g.id, part := p, touched := mset 0 w,
                       evict := decide (h = .ev) || decide (h = .nl1), keep := keep && s3.mayKeep g.core p size,
                       sized := if h = .nl1 then none else some e, nextMiss := false, lastUse := s.clock.tick, ready := ready,
                       winTouched := [(g.id, mset 0 w)] }
    (s3.modCore g.core fun x => { x with blocks := x.blocks ++ [b] },
      { hit := false, fills := (List.range size).map fun i => 8 * line + first + i })

/-- All words of an access. -/
def State.l1Access (gid : GroupId) (pc : Nat) (h : Hint) (ready : Nat) (words : List Nat) (s : State) : State × L1Res :=
  match s.group? gid with
  | none => (s, { hit := true, fills := [] })
  | some g => words.foldl (fun (acc : State × L1Res) w =>
      let r := acc.1.l1Word ((acc.1.group? gid).getD g) pc h ready w
      (r.1, { hit := acc.2.hit && r.2.hit, fills := acc.2.fills ++ r.2.fills })) (s, { hit := true, fills := [] })

/-- The words of a block that a miss allocated and that no image of the phase holds are read from below (R202). -/
def State.fillBlock (t : Thread) (words : List Nat) (s : State) : State :=
  words.foldl (fun st w =>
    if isRemote (16 * w) ∨ ((st.core t.core).newest t w).isSome ∨
        ¬ ((st.core t.core).blocks.any fun b => b.covers (w / 8) (w % 8)) then st
    else st.makeImage t w 0 none) s

end Sys2Proof.Machine
end

