-- ==== Sys2Proof/Machine/Wake.lean ====
section
/-! DEFINITION. What ends a thread's wait on other threads: rejoin masks (R150, R151), named barriers (R306), tree
barriers (R309), and what the end of a thread does to all of them (R66, R152). -/

namespace Sys2Proof.Machine

/-- The thread stops waiting and may be ready from a cycle on (R60). -/
def Thread.wake (at_ : Nat) (t : Thread) : Thread := { t with wait := .none, nextAt := Nat.max t.nextAt at_ }

/-- Ends a wait that a test names, where the thread is held in it or will return to it (R214). -/
def Thread.wakeIf (p : Wait → Bool) (at_ : Nat) (t : Thread) : Thread :=
  let t1 := if p t.wait then t.wake at_ else t
  { t1 with redo := t1.redo.map fun e => if p e.wait then { e with wait := .none } else e }

/-! ## Rejoin masks -/

def Group.mask (g : Group) (n : Nat) : Nat := g.masks.getD n 0
def Group.arrived (g : Group) (n : Nat) : Nat := g.arrivals.getD n 0

/-- The members of mask n that are live: j0 itself for n = 0. -/
def Group.members (g : Group) (n : Nat) : Nat := Nat.land (g.mask n) (g.mask 0)

/-- The wait on mask n is complete (R151). -/
def Group.complete (g : Group) (n : Nat) : Bool :=
  decide (g.arrived n ≠ 0) && decide (Nat.land (g.members n) (g.arrived n) = g.members n)

/-- Evaluates mask n of a group: every waiting thread is released, and the arrivals clear. A saved waiter is not released
before its group is restored (R152). -/
def State.evalMask (gid : GroupId) (n : Nat) (s : State) : State :=
  match s.group? gid with
  | none => s
  | some g =>
    if g.complete n ∧ g.act ≠ .saved ∧ g.act ≠ .swapped then
      (s.modGroup gid fun x => { x with arrivals := x.arrivals.set n 0 }).mapThreads fun t =>
        if t.id.gid = gid ∧ mbit (g.arrived n) t.id.tid then
          t.wakeIf (fun w => decide (w = .rejoin n)) (s.clock.cycle + 2) else t
    else s

/-- Evaluates every mask of a group. -/
def State.evalMasks (gid : GroupId) (s : State) : State := (List.range 8).foldl (fun st n => st.evalMask gid n) s

/-! ## Named barriers -/

def State.teamThreads (s : State) (t : TeamId) : List Thread := s.threads.filter fun x => decide (x.id.tmid = t)

/-- The generation of barrier b is released: its waiters are ready 4 cycles later. -/
def State.releaseBar (t : TeamId) (b : Nat) (s : State) : State :=
  match s.team? t with
  | none => s
  | some tm =>
    let bar := tget Barrier.reset tm.bars b
    (s.modTeam t fun x => { x with bars := tput Barrier.reset x.bars b { bar with c := 0, gen := bar.gen + 1, here := [] } }).mapThreads
      fun x => if x.id.tmid = t then
        x.wakeIf (fun w => match w with
          | .bar b' g => decide (b' = b) && decide (g ≤ bar.gen)
          | _ => false) (s.clock.cycle + 4)
      else x

/-- The arrival of a thread (R306): none where it faults with cause 0x14; otherwise the token. -/
def Barrier.arrive (bar : Barrier) (t : ThreadId) (explicit : Bool) (n live : Nat) : Option (Barrier × Nat) :=
  if bar.c = 0 then
    if ¬ explicit then some ({ bar with e := live, live := true, c := 1, here := [t] }, bar.gen)
    else if 1 ≤ n ∧ n ≤ 1024 then some ({ bar with e := n, live := false, c := 1, here := [t] }, bar.gen)
    else none
  else if (explicit = bar.live) ∨ (explicit ∧ n ≠ bar.e) then none
  else some ({ bar with c := bar.c + 1, here := bar.here ++ [t] }, bar.gen)

/-- Whether an earlier load, store or atomic of the thread has still to take effect (R81, R306). -/
def State.accessPending (s : State) (t : ThreadId) : Bool :=
  s.ops.any fun o => decide (o.th = t) && (match o.kind with
    | .load _ _ | .loadFrag | .atomic _ _ _ _ _ => true
    | .store => o.answer.isNone
    | _ => false)

/-- A held BAR, TBAR or WAIT goes on: the pc passes its two words and the thread retires. -/
def Thread.passHeld (words : Nat) (t : Thread) : Thread :=
  ({ t with pc := (t.pc + 4 * words) % 2 ^ 57, wait := .none }).retire

/-- The arrival that thread t waits to make, when nothing of it is pending (R306); or its fault. -/
def State.arriveBar (tid : ThreadId) (s : State) : State × List LaneFault :=
  match s.thread? tid with
  | none => (s, [])
  | some t =>
    match t.wait, s.team? tid.tmid with
    | .barArrive b ex n sync, some tm =>
      if s.accessPending tid then (s, [])
      else
        let bar := tget Barrier.reset tm.bars b
        match bar.arrive tid ex n (s.teamThreads tid.tmid).length with
        | none => (s, [{ th := tid, info := { cause := 0x14, addr0 := t.pc, own := true }, resume := t.pc }])
        | some (bar', token) =>
          let s1 := (s.modTeam tid.tmid fun x => { x with bars := tput Barrier.reset x.bars b bar' }).modThread tid
            fun x => { x.passHeld 2 with wait := if sync then .bar b token else .none }
          (if bar'.c = bar'.e then s1.releaseBar tid.tmid b else s1, [])
    | _, _ => (s, [])

/-- The arrivals of some threads in order; those that fault park together. -/
def State.arriveBars (ts : List ThreadId) (s : State) : State :=
  let r := ts.foldl (fun (acc : State × List LaneFault) t =>
    let v := acc.1.arriveBar t
    (v.1, acc.2 ++ v.2)) (s, [])
  r.1.raise r.2 none

/-- A live barrier loses a thread that had not arrived (R306). -/
def State.leaveBar (tid : ThreadId) (b : Nat) (s : State) : State :=
  match s.team? tid.tmid with
  | none => s
  | some tm =>
    let bar := tget Barrier.reset tm.bars b
    if bar.live ∧ bar.c ≠ 0 ∧ tid ∉ bar.here then
      let s1 := s.modTeam tid.tmid fun x => { x with bars := tput Barrier.reset x.bars b { bar with e := bar.e - 1 } }
      if bar.c = bar.e - 1 then s1.releaseBar tid.tmid b else s1
    else s

/-! ## Tree barriers -/

/-- A team arrives when every live thread of it has executed TBAR on the tag (R309). -/
def State.evalTbar (t : TeamId) (s : State) : State :=
  let live := (s.teamThreads t).map Thread.id
  s.modTeam t fun x => { x with tbars := x.tbars.map fun b =>
    if b.arrivedAt = none ∧ live.all (fun y => decide (y ∈ b.here)) then { b with arrivedAt := some s.clock.cycle } else b }

/-! ## The end of threads (R66) -/

/-- The mask without a thread's bit, in j0 to j7, and out of the arrivals. -/
def Group.dropThread (tid : Nat) (g : Group) : Group :=
  { g with masks := g.masks.map fun m => mclr m tid, arrivals := g.arrivals.map fun m => mclr m tid }

/-- What barriers of a thread's team do at its end. -/
def State.endBarriers (tid : ThreadId) (s : State) : State :=
  match s.team? tid.tmid with
  | none => s
  | some tm => (tm.bars.foldl (fun st b => st.leaveBar tid b.1) s).evalTbar tid.tmid

/-- The threads end: their context is freed, their bits leave every mask, and every wait on them is evaluated. -/
def State.endThreads (ts : List ThreadId) (s : State) : State :=
  let gone := s.threads.filter fun t => decide (t.id ∈ ts)
  let s1 := { s with
    threads := s.threads.filter fun t => decide (t.id ∉ ts),
    groups := s.groups.map fun g =>
      gone.foldl (fun (x : Group) (t : Thread) => if t.id.gid = x.id then
        { x.dropThread t.id.tid with retiredEnded := x.retiredEnded + t.retired } else x) g }
  let s2 := ts.foldl (fun st t => st.endBarriers t) (s1.dropHolder ts)
  (ts.map ThreadId.gid).eraseDups.foldl (fun st g => st.evalMasks g) s2

end Sys2Proof.Machine
end

