-- ==== Sys2Proof/Machine/Control.lean ====
section
/-! DEFINITION. MISC, WAIT, CTRL, branches, compares, predicate logic, select and system registers (R47 to R50, R55,
R138 to R153, R191). -/

namespace Sys2Proof.Machine
open Host

/-! ## System registers (R55) -/

/-- The 64-bit system registers. -/
def sysWide (n : Nat) : Bool := decide (n = 0x10) || decide (n = 0x1D) || decide (n = 0x1E)

/-- The group's retired-work count, exited threads included (R350). -/
def State.retiredOf (s : State) (g : GroupId) : Nat :=
  ((s.threads.filter fun t => decide (t.id.gid = g)).map Thread.retired).foldl (· + ·)
    (((s.group? g).map Group.retiredEnded).getD 0)

/-- Register r is in RECIPE form. -/
def Thread.isRecipe (t : Thread) (r : Nat) : Bool := (tget RForm.value t.forms r).recipe

/-- RCPSTAT (R169). -/
def State.rcpstat (s : State) (g : Group) : Nat :=
  let ts := s.threads.filter fun t => decide (t.id.gid = g.id)
  let rs := ((List.range 256).filter fun r => !ts.isEmpty && ts.all fun t => t.isRecipe r).length
  g.recipes.length * 2 ^ 23 + Nat.min rs 255 * 2 ^ 15 + Nat.min g.reserve 8 * 2 ^ 11 + g.thresh * 2 ^ 7

/-- The lease in force (R210). -/
def Group.lease (g : Group) : Nat := g.declared.getD g.measured

/-- What RSYS reads; none for the numbers no program reads. -/
def State.sysRead (s : State) (t : Thread) (n : Nat) : Option Nat :=
  let gr := s.gridOf t.id
  let desc (f : Desc → Nat) : Nat := (gr.map fun g => f g.desc).getD 0
  let grp (f : Group → Nat) : Nat := ((s.group? t.id.gid).map f).getD 0
  match n with
  | 0x00 => some t.id.tid
  | 0x01 => some t.id.group
  | 0x02 => some t.id.team
  | 0x03 => some (t.id.team / desc Desc.tpc)
  | 0x04 => some t.id.grid
  | 0x05 => some (desc Desc.width)
  | 0x06 => some (desc Desc.ngroups)
  | 0x07 => some ((gr.map Grid.nteams).getD 0)
  | 0x08 => some t.lane
  | 0x09 => some t.core.core
  | 0x0A => some t.quad
  | 0x0B => some t.core.die
  | 0x0C => some Config.devid.toNat
  | 0x0D => some (s.reqtagOf t.id)
  | 0x0E => some (s.clock.cycle % 2 ^ 32)
  | 0x0F => some t.cyclehi
  | 0x10 => some (s.retiredOf t.id.gid)
  | 0x11 => some t.wb
  | 0x12 => some t.fpcsr.toNat
  | 0x13 => some (if t.oobflag then 1 else 0)
  | 0x14 => some (grp fun g => if g.step then 1 else 0)
  | 0x15 => some (s.part (s.partOf t.id)).schedMode
  | 0x16 => some s.dieStateWord
  | 0x17 => some (s.linkEpochWord t.core.die)
  | 0x18 => some (grp Group.lease)
  | 0x19 => some (grp Group.lostloc)
  | 0x1A => some (grp s.rcpstat)
  | 0x1B => some (s.vf (s.vfOf t.id)).tenant
  | 0x1C => some t.faultCause
  | 0x1D => some t.faultAddr0
  | 0x1E => some t.faultAddr1
  | 0x1F => some t.phaseno
  | _ => if 0x20 ≤ n ∧ n < 0x40 then some (s.viewWord (s.partOf t.id) t.qid (n - 0x20)) else none

/-- RSYS: cause 0x01 for a number no program reads; CYCLELO latches CYCLEHI. -/
def laneRsys (s : State) (d n : Nat) (t : Thread) : LaneRes :=
  match s.sysRead t n with
  | none => .fault { cause := 0x01 } s.issue.pc
  | some v =>
    let t1 := if n = 0x0E then { t with cyclehi := s.clock.cycle / 2 ^ 32 % 2 ^ 32 } else t
    .done (t1.dstN (sysWide n) d v)

/-- The generator after a reseed: SEED above TID + 1 (R117). -/
def rngSeed (fpcsr : Word) (tid : Nat) : Word := BitVec.ofNat 32 (fpcsr.toNat / 65536 * 65536 + (tid + 1))

/-- WSYS: FPCSR and OOBFLAG; cause 0x01 for any other number, and for MODE 6 or 7 (R55, R114). Reserved bits of
FPCSR ignore writes (R6). -/
def laneWsys (s : State) (n a : Nat) (t : Thread) : LaneRes :=
  if n = 0x12 then
    if 6 ≤ (t.src a).toNat / 32 % 8 then .fault { cause := 0x01 } s.issue.pc
    else
      let f := t.src a &&& 0xFFFF00FF
      .done { t with fpcsr := f, rng := rngSeed f t.id.tid }
  else if n = 0x13 then .done { t with oobflag := (t.src a).getLsbD 0 }
  else .fault { cause := 0x01 } s.issue.pc

/-! ## Control flow (R142 to R144) -/

def targetOf (pc : Nat) (off : Int) : Nat := ((pc : Int) + 4 * off) % (2 ^ 57 : Int) |>.toNat

def laneBr (pc : Nat) (g : Guard) (off : Int) (t : Thread) : Thread :=
  if t.passes g then { t with pc := targetOf pc off } else t

/-- The link is an anchor pair; D4 = 0 writes nothing. -/
def laneJal (pc d : Nat) (off : Int) (t : Thread) : Thread :=
  { (if d = 0 then t else t.setPair d (BitVec.ofNat 64 t.pc)) with pc := targetOf pc off }

/-- Cause 0x06 for a target that is not a multiple of 4, then cause 0x16 in a binding range (R326), then cause 0x02
beyond 57 bits; each parks the lane alone. -/
def laneJr (pc : Nat) (bind : List (Nat × Nat)) (g : Guard) (a l : Nat) (t : Thread) : LaneRes :=
  if t.passes g then
    let v := (t.srcPair a).toNat
    if v % 4 ≠ 0 then .fault { cause := 0x06, addr1 := v, own := true } pc
    else if bind.any fun r => decide (r.1 ≤ v) && decide (v < r.2) then .fault { cause := 0x16, addr1 := v, own := true } pc
    else if 2 ^ 57 ≤ v then .fault { cause := 0x02, addr1 := v, own := true } pc
    else .done { (if l = 0 then t else t.dstPair l (BitVec.ofNat 64 t.pc)) with pc := v }
  else .done t

/-! ## Compares, predicates, select (R48 to R50, R145 to R148) -/

def IntTy.bits : IntTy → Nat
  | .s32 | .n32 => 32 | .s64 | .n64 => 64 | .s16 | .n16 => 16 | .s8 | .n8 => 8
def IntTy.signed : IntTy → Bool
  | .s32 | .s64 | .s16 | .s8 => true
  | _ => false
def FltTy.fmt : FltTy → Fmt
  | .f32 => Fmt.f32 | .f16 => Fmt.f16 | .bf16 => Fmt.bf16 | .f64 => Fmt.f64

/-- Writes the predicates of a compare (R49). -/
def Thread.putPreds (t : Thread) (ct : Ct) (q1 q2 : Nat) (c : Bool) : Thread :=
  let r := combine ct c (t.pred q1) (t.pred q2)
  match r.2 with
  | none => t.setPred q1 r.1
  | some v => (t.setPred q1 r.1).setPred q2 v

/-- IMM16 extended as R48 gives: sign-extended for an s type, zero-extended for an n type. -/
def cmpImm (ty : IntTy) (v : Nat) : Nat := wrap 64 (if IntTy.signed ty then sInt 16 v else (v : Int))

def laneCmp (cc : IntCond) (ct : Ct) (ty : IntTy) (q1 q2 a : Nat) (b : CmpB) (t : Thread) : Thread :=
  let w := IntTy.bits ty
  let y := match b with
    | .reg r => t.srcN (decide (w = 64)) r
    | .imm v => cmpImm ty v
  t.putPreds ct q1 q2 (intCond cc (IntTy.signed ty) w (t.srcN (decide (w = 64)) a % 2 ^ w) (y % 2 ^ w))

/-- A float immediate stands in the top 16 bits of the type, or is the value of a 16-bit type (R48, R145). -/
def fcmpImm (F : Fmt) (v : Nat) : Nat := v * 2 ^ (F.width - 16)

def laneFcmp (cc : FltCond) (ct : Ct) (ty : FltTy) (q1 q2 a : Nat) (b : CmpB) (t : Thread) : Thread :=
  let F := FltTy.fmt ty
  let y := match b with
    | .reg r => t.srcN (decide (F.width = 64)) r % 2 ^ F.width
    | .imm v => fcmpImm F v
  let c := fltCond cc (F.dec (t.srcN (decide (F.width = 64)) a % 2 ^ F.width)) (F.dec y)
  (t.putPreds ct q1 q2 c.1).raiseFlags c.2

def lanePlog (qd qa qb tt : Nat) (t : Thread) : Thread :=
  t.setPred qd (tt.testBit (2 * bit (t.pred qa) + bit (t.pred qb)))

def laneSel (p d a b : Nat) (t : Thread) : Thread := t.dst d (if t.pred p then t.src a else t.src b)

/-! ## Rejoin masks (R151) -/

/-- Applies a change to the masks of each group for its threads of the bundle, then evaluates every mask. -/
def State.onMasks (f : Group → Nat → Group) (s : State) : State :=
  (s.bundleGroups).foldl (fun st g => st.evalMasks g)
    { s with groups := s.groups.map fun g =>
        ((s.bundleThreads.filter fun t => decide (t.id.gid = g.id)).map fun t => t.id.tid).foldl f g }

def Group.setMask (n tid : Nat) (g : Group) : Group := { g with masks := g.masks.set n (mset (g.mask n) tid) }
def Group.clrMask (n tid : Nat) (g : Group) : Group := { g with masks := g.masks.set n (mclr (g.mask n) tid) }
/-- A member arrives; a thread that is no member does not (R151). -/
def Group.arriveMask (n tid : Nat) (g : Group) : Group :=
  if mbit (g.members n) tid then { g with arrivals := g.arrivals.set n (mset (g.arrived n) tid) } else g

/-- A member waits from now on. -/
def laneRjwait (s : State) (n : Nat) (t : Thread) : Thread :=
  match s.group? t.id.gid with
  | some g => if mbit (g.members n) t.id.tid then { t with wait := .rejoin n } else t
  | none => t

def laneRjrd (s : State) (d n : Nat) (t : Thread) : Thread :=
  t.dstPair d (BitVec.ofNat 64 (((s.group? t.id.gid).map fun g => g.mask n).getD 0))

/-! ## The meanings -/

/-- NOP (R140). -/
def execNop (s : State) : Out := .next s.retireAll

/-- EXIT (R66, R140). -/
def execExit (s : State) : Out := .next (s.retireAll.endThreads s.issue.bundle)

/-- TAKES a trap of the bundle after its instruction has retired: TRAP and BKPT (R140, R141). -/
def State.trapAll (cause a1 : Nat) (s : State) : State :=
  s.retireAll.raise (s.issue.bundle.map fun t =>
    { th := t, info := { cause := cause, addr0 := s.issue.pc, addr1 := a1, info := a1 }, resume := s.nextPc }) none

/-- TRAP (R140, R141): cause 0x07. -/
def execTrap (c : Nat) (s : State) : Out := .next (s.trapAll 0x07 c)

/-- BKPT (R140, R141): cause 0x08. -/
def execBkpt (s : State) : Out := .next (s.trapAll 0x08 0)

/-- YIELD (R140). -/
def execYield (s : State) : Out := .next (s.lanesOk fun t => { t with wait := .yield (s.clock.cycle + 8) })

/-- RSYS (R55). -/
def execRsys (d n : Nat) (s : State) : Out := .next (s.lanes (laneRsys s d n))

/-- WSYS (R55). -/
def execWsys (n a : Nat) (s : State) : Out := .next (s.lanes (laneWsys s n a))

/-- SLEEP (R140). -/
def execSleep (n : Nat) (s : State) : Out :=
  .next (s.lanesOk fun t => if n = 0 then t else { t with wait := .sleep (s.clock.cycle + 16 * n) })

/-- The held command for which a thread has still to park at a wait (R273, R297): one with cause 0x10 only at WAIT. -/
def State.owedNow (s : State) (isWait : Bool) (t : Thread) : Option (Nat × Nat × Nat) :=
  t.owed.find? fun o => (isWait || decide (o.2.1 ≠ 0x10)) && (match s.cmd? o.1 with
    | some c => (match c.st with | .held _ _ => true | _ => false)
    | none => false)

/-- The threads of the bundle that owe a park for a held command park at this wait, once for each record; no second
record is posted. The wait then issues for the others. -/
def State.parkOwed (isWait : Bool) (s : State) : State :=
  let due := s.bundleThreads.filterMap fun t => (s.owedNow isWait t).map fun o => (t.id, o)
  let s1 := due.foldl (fun st d => st.modThread d.1 fun t =>
    { t.parkAt d.2.2.1 s.issue.pc d.2.2.2 s.issue.pc with owed := t.owed.filter fun o => decide (o ≠ d.2) }) s
  { s1 with issue := { s1.issue with bundle := s1.issue.bundle.filter fun t => due.all fun d => decide (d.1 ≠ t) } }

/-- WAIT (R191, R273, R297). -/
def execWait (nl ns nc nt : Nat) (s : State) : Out :=
  .next ((s.parkOwed true).lanesOk fun t => { t with wait := .counts nl ns nc nt })

/-- WBASE (R45, R149): `b` counts 16 registers; above 8, cause 0x12. -/
def execWbase (b : Nat) (s : State) : Out :=
  .next (if 8 < b then s.faultAll { cause := 0x12 } else s.lanesOk fun t => { t with wb := 16 * b })

/-- RJARM (R151). -/
def execRjarm (n : Nat) (s : State) : Out := .next (s.retireAll.onMasks fun g t => g.setMask n t)

/-- RJWAIT (R151). -/
def execRjwait (n : Nat) (s : State) : Out := .next ((s.lanesOk (laneRjwait s n)).onMasks fun g t => g.arriveMask n t)

/-- RJDROP (R151). -/
def execRjdrop (l h : Nat) (s : State) : Out :=
  .next (s.retireAll.onMasks fun g t => (List.range (h + 1 - l)).foldl (fun x i => x.clrMask (l + i) t) g)

/-- RJRD (R151). -/
def execRjrd (d n : Nat) (s : State) : Out := .next (s.lanesOk (laneRjrd s d n))

/-- BR (R142). -/
def execBr (g : Guard) (off : Int) (s : State) : Out := .next (s.lanesOk (laneBr s.issue.pc g off))

/-- JAL (R143). -/
def execJal (d : Nat) (off : Int) (s : State) : Out := .next (s.lanesOk (laneJal s.issue.pc d off))

/-- JR (R144, R326). -/
def execJr (g : Guard) (a l : Nat) (s : State) : Out :=
  .next (s.lanes fun t => laneJr s.issue.pc (s.part (s.partOf t.id)).bindings g a l t)

/-- CMP (R48 to R50, R145). -/
def execCmp (cc : IntCond) (ct : Ct) (ty : IntTy) (q1 q2 a : Nat) (b : CmpB) (s : State) : Out :=
  .next (s.lanesOk (laneCmp cc ct ty q1 q2 a b))

/-- FCMP (R48 to R50, R115, R145). -/
def execFcmp (cc : FltCond) (ct : Ct) (ty : FltTy) (q1 q2 a : Nat) (b : CmpB) (s : State) : Out :=
  .next (s.lanesOk (laneFcmp cc ct ty q1 q2 a b))

/-- PLOG (R147). -/
def execPlog (qd qa qb tt : Nat) (s : State) : Out := .next (s.lanesOk (lanePlog qd qa qb tt))

/-- SEL (R47, R148). -/
def execSel (p d a b : Nat) (s : State) : Out := .next (s.lanesOk (laneSel p d a b))

end Sys2Proof.Machine
end

