-- ==== Sys2Proof/Machine/Translate.lean ====
section
/-! DEFINITION. Translation (R212, R213), the frame table's part in it (R217, R219), and reading code (R38, R40). -/

namespace Sys2Proof.Machine

/-- What an access asks of a leaf. -/
inductive Need where
  | rd | wr | either | ex
deriving DecidableEq, Repr

/-- Sets bits of the byte at an address at the device point (the atomic updates of R213 and R217). -/
def State.setBits (a : Nat) (m : Byte) (s : State) : State := s.setMem (Memory.write s.mem a (Memory.read s.mem a ||| m))

/-- The shift, index width and whether a leaf may stand at each level (R212). -/
def levelShift (l : Nat) : Nat := [42, 29, 21, 16].getD l 16
def levelBits (l : Nat) : Nat := [15, 13, 8, 5].getD l 5

/-- An entry's bits. -/
def pteBit (e i : Nat) : Bool := e.testBit i

/-- A malformed entry (R213). -/
def pteMalformed (l e : Nat) : Bool :=
  let leaf := pteBit e 1
  let rmt := pteBit e 7
  if rmt then !leaf || decide (l < 2)
  else decide (e / 2 ^ 58 ≠ 0) || (leaf && decide (l < 2)) || (!leaf && decide (l = 3)) ||
    (leaf && decide (e / 256 % (if l = 3 then 2 ^ 8 else 2 ^ 13) ≠ 0))

/-- The translation that a leaf at level l gives. -/
def pteLeaf (vf va l at_ e : Nat) : TlbEntry :=
  let size := if l = 3 then 65536 else 2097152
  { at_ := at_, vf := vf, vpage := va / size, size := size,
    frame := if pteBit e 7 then e / 256 % 2 ^ 35 * 65536 else e / 256 % 2 ^ 44 * 256,
    rd := pteBit e 2, w := pteBit e 3, x := pteBit e 4, remote := if pteBit e 7 then some (e / 2 ^ 43) else none }

/-- 64 bits at the cluster point of a die: a walk reads entries from the L2 (R213). -/
def State.l2Read64 (s : State) (d a : Nat) : Nat := leNat ((List.range 8).map fun i => s.readL2 d (a + i))

/-- The walk from a level on, over `n` levels: the leaf, or reason 0. AC is set in every entry used. The L2's copy of an
entry is as new as the walk, so that no walk after an update of a table finds the entry before it (log entry 21). -/
def State.walk (d vf va : Nat) : Nat → Nat → Nat → State → State × Option TlbEntry
  | 0, _, _, s => (s, none)
  | n + 1, l, table, s =>
    let at_ := table + 8 * (va / 2 ^ levelShift l % 2 ^ levelBits l)
    let s1 := s.l2Fill d (at_ / 128)
    let e := s1.l2Read64 d at_
    if ¬ pteBit e 0 ∨ pteMalformed l e then (s1, none)
    else
      let s2 := s1.setBits at_ 0x20
      if pteBit e 1 then (s2, some (pteLeaf vf va l at_ e))
      else State.walk d vf va n (l + 1) (e / 256 % 2 ^ 44 * 256) s2

/-- The walk as an agent outside the cores makes it: entries as they stand at the device point, AC set in every entry
used (R212, R224, R356). -/
def State.walkDev (vf va : Nat) : Nat → Nat → Nat → State → State × Option TlbEntry
  | 0, _, _, s => (s, none)
  | n + 1, l, table, s =>
    let at_ := table + 8 * (va / 2 ^ levelShift l % 2 ^ levelBits l)
    let e := s.dev64 at_
    if ¬ pteBit e 0 ∨ pteMalformed l e then (s, none)
    else
      let s1 := s.setBits at_ 0x20
      if pteBit e 1 then (s1, some (pteLeaf vf va l at_ e))
      else State.walkDev vf va n (l + 1) (e / 256 % 2 ^ 44 * 256) s1

/-- A cached translation of an address. -/
def tlbHit (l : List TlbEntry) (vf va : Nat) : Option TlbEntry :=
  l.find? fun e => decide (e.vf = vf) && decide (va / e.size = e.vpage)

/-- The oldest entries leave first. -/
def tlbPut (cap : Nat) (e : TlbEntry) (l : List TlbEntry) : List TlbEntry := (l ++ [e]).drop (l.length + 1 - cap)

/-- The leaf for an address: the quadrant's cache of 256, the core's of 2,048, or a walk (R213). -/
def State.leafFor (q : QuadId) (vf va : Nat) (s : State) : State × Option TlbEntry :=
  match tlbHit (s.quad q).tlb vf va with
  | some e => (s.setBits e.at_ 0x20, some e)
  | none =>
    match tlbHit (s.core q.cid).tlb vf va with
    | some e => ((s.setBits e.at_ 0x20).modQuad q fun x => { x with tlb := tlbPut 256 e x.tlb }, some e)
    | none =>
      let r := State.walk q.die vf va 4 0 (s.vf vf).root s
      match r.2 with
      | none => r
      | some e => ((r.1.modQuad q fun x => { x with tlb := tlbPut 256 e x.tlb }).modCore q.cid
          fun x => { x with tlb := tlbPut 2048 e x.tlb }, some e)

/-- Whether a leaf allows what is asked; a CMAINT is allowed by RD or W alone (R213's "or either": log entry 71). -/
def TlbEntry.allows (e : TlbEntry) (n : Need) : Bool :=
  match n with
  | .rd => e.rd
  | .wr => e.w
  | .either => e.rd || e.w
  | .ex => e.x

/-- Translates one virtual address: its key, or the reason of R214. AC, D and FA are set on the way. -/
def State.translate (q : QuadId) (vf : Nat) (n : Need) (va : Nat) (s : State) : State × Except Nat Nat :=
  let r := s.leafFor q vf va
  match r.2 with
  | none => (r.1, .error 0)
  | some e =>
    if ¬ e.allows n then (r.1, .error 1)
    else
      let pa := e.frame + va % e.size
      let s1 := if n = .wr then r.1.setBits e.at_ 0x40 else r.1
      match e.remote with
      | some ag => (s1, .ok (remoteFrameKey ag pa))
      | none =>
        if Config.memBytes ≤ pa then (s1, .error 2)
        else
          match s1.frameEntry pa with
          | none => (s1, .ok pa)
          | some f =>
            let s2 := s1.setBits (f + 4) 0x80
            if s2.frameMoved pa then (s2, .error 4) else (s2, .ok pa)

/-- Translates an address for an agent outside the cores: the walk only, with no cached entry (R212, R356). AC, D and FA
are set on the way. -/
def State.hostTranslate (vf : Nat) (n : Need) (va : Nat) (s : State) : State × Option Nat :=
  let r := State.walkDev vf va 4 0 (s.vf vf).root s
  match r.2 with
  | none => (r.1, none)
  | some e =>
    let pa := e.frame + va % e.size
    if ¬ e.allows n ∨ e.remote.isSome ∨ Config.memBytes ≤ pa then (r.1, none)
    else
      let s1 := if n = .wr then r.1.setBits e.at_ 0x40 else r.1
      match s1.frameEntry pa with
      | none => (s1, some pa)
      | some f =>
        let s2 := s1.setBits (f + 4) 0x80
        (s2, if s2.frameMoved pa then none else some pa)

/-- Where the byte at an address lies for such an agent. -/
def State.hostWalk (s : State) (vf : Nat) (n : Need) (va : Nat) : Option Nat := (s.hostTranslate vf n va).2

/-- The reason of R214 for which an address does not translate for such an agent. -/
def State.hostReason (s : State) (vf : Nat) (n : Need) (va : Nat) : Nat :=
  match (State.walkDev vf va 4 0 (s.vf vf).root s).2 with
  | none => 0
  | some e => if ¬ e.allows n then 1 else if e.remote.isSome ∨ Config.memBytes ≤ e.frame + va % e.size then 2 else 4

/-- One word of code at a virtual address, as it stood at a tick or later (R41); none where the page does not translate,
with its reason (R40 steps 1 and 3). -/
def State.fetchWord (q : QuadId) (vf since va : Nat) (s : State) : State × Except Nat Nat :=
  let r := s.translate q vf .ex va
  match r.2 with
  | .error e => (r.1, .error e)
  | .ok k =>
    if isRemote k then (r.1, .error 2)
    else
      let s1 := r.1.ensureL2 q.die .device since (k / 128)
      (s1, .ok (leNat ((List.range 4).map fun i => s1.readL2 q.die (k + i))))

end Sys2Proof.Machine
end

