-- ==== Sys2Proof/Machine/Access.lean ====
section
/-! DEFINITION. Forming an access (R177 to R182), tile entries as accesses see them (R285, R190), what an access waits
for (R81 to R89), the counts of R184, and issuing the access of one lane. -/

namespace Sys2Proof.Machine

/-! ## Lane loops that change more than their lanes -/

/-- Runs `f` for each thread of the bundle in the order of R63, over the state as it goes; `f` sees the pc at the next
instruction. Faulting lanes park at the end (R36). -/
def State.lanesM (f : State → Thread → State × LaneRes) (s : State) : State :=
  let r := s.bundleThreads.foldl (fun (acc : State × List LaneFault) t0 =>
    match acc.1.thread? t0.id with
    | none => acc
    | some t =>
      let v := f acc.1 { t with pc := s.nextPc }
      match v.2 with
      | .done t' => (v.1.modThread t.id fun _ => t'.retire, acc.2)
      | .hold t' => (v.1.modThread t.id fun _ => t'.heldAt t.pc, acc.2)
      | .fault i p => (v.1.modThread t.id Thread.endSlice, acc.2 ++ [{ th := t.id, info := s.atIssue i, resume := p }])) (s, [])
  r.1.raise r.2 none

/-! ## Tile entries (R285) -/

def tState (e : DWord) : Nat := e.toNat / 2 ^ 62
def tRW (e : DWord) : Bool := e.getLsbD 61
def tOwner (e : DWord) : Nat := e.toNat / 2 ^ 57 % 16
def tExpect (e : DWord) : Nat := e.toNat / 2 ^ 50 % 128
def tArrived (e : DWord) : Nat := e.toNat / 2 ^ 43 % 128
def tSize (e : DWord) : Nat := e.toNat / 2 ^ 17 % 2 ^ 17
def tBase (e : DWord) : Nat := e.toNat % 2 ^ 17
def tMake (st : Nat) (rw : Bool) (owner expect arrived size base : Nat) : DWord :=
  BitVec.ofNat 64 (st * 2 ^ 62 + (if rw then 2 ^ 61 else 0) + owner * 2 ^ 57 + expect * 2 ^ 50 + arrived * 2 ^ 43 +
    size * 2 ^ 17 + base)
def tSt (e : DWord) (st : Nat) : DWord := tMake st (tRW e) (tOwner e) (tExpect e) (tArrived e) (tSize e) (tBase e)

def State.tile (s : State) (c : CoreId) (m : Nat) : DWord := tget 0 (s.core c).tiles m
/-- Writes entry m; its reserved bits 42:34 stay zero (R6, R285). -/
def State.setTile (c : CoreId) (m : Nat) (e : DWord) (s : State) : State :=
  s.modCore c fun x => { x with tiles := tput 0 x.tiles m (e &&& ~~~0x7FC00000000) }
/-- A resident team owns entry m. -/
def Team.owns (t : Team) (m : Nat) : Bool := decide (m ∈ t.tiles) && !t.saved

/-! ## Capabilities (R172 to R180) -/

def cPermBit (c : Cap) (i : Nat) : Bool := c.perm.testBit i
def capR : Nat := 0
def capW : Nat := 1
def capA : Nat := 2
def capX : Nat := 3
def capREM : Nat := 4
def capTOOB : Nat := 5
def capPST : Nat := 6
def capNAR : Nat := 7

/-- The capability in register k of a thread's team, as accesses see it. -/
def State.capOf (s : State) (t : TeamId) (k : Nat) : Option Cap :=
  (s.team? t).bind fun x => (x.caps.find? fun e => decide (e.1 = k)).map Prod.snd

/-- Swz (R180). -/
def swz (o v : Nat) : Nat :=
  if v = 0 then o
  else
    let n := v / 64 + 1
    let t := 4 + v / 8 % 8
    let u := t + n + v % 8
    Nat.xor o (o / 2 ^ u % 2 ^ n * 2 ^ t)

/-- An access as R178 forms it. -/
inductive Formed where
  | misaligned (va : Nat)
  | outside (va : Nat)
  | ok (pieces : List (Nat × Nat))
deriving DecidableEq, Repr

/-- Virtual addresses are 57 bits. -/
def vaOf (v : Int) : Nat := (v % (2 ^ 57 : Int)).toNat

/-- Forms an access of z bytes at a byte offset: virtual pieces of up to 16 bytes. -/
def formAccess (c : Cap) (off : Int) (z : Nat) : Formed :=
  let al := Nat.min z 16
  let va := vaOf (c.base + off)
  if (c.base + off) % al ≠ 0 then .misaligned va
  else if off < 0 ∨ (c.extent : Int) < off + z then .outside va
  else
    let ss := (List.range (if z ≤ 16 then 1 else z / 16)).map fun w => swz (off.toNat + 16 * w) c.swz
    if ss.any fun x => decide (c.extent < x + al) then .outside va
    else .ok (ss.map fun x => (c.base + x, al))

/-- The byte keys of some pieces, in order. -/
def pieceBytes (ps : List (Nat × Nat)) : List Nat := ps.flatMap fun p => (List.range p.2).map fun i => p.1 + i

/-- Translates every piece: their keys, or the first failure's reason and address. -/
def State.translateAll (q : QuadId) (vf : Nat) (n : Need) : List (Nat × Nat) → State → State × Except (Nat × Nat) (List (Nat × Nat))
  | [], s => (s, .ok [])
  | p :: r, s =>
    let v := s.translate q vf n p.1
    match v.2 with
    | .error e => (v.1, .error (e, p.1))
    | .ok k =>
      let w := State.translateAll q vf n r v.1
      match w.2 with
      | .error e => (w.1, .error e)
      | .ok ks => (w.1, .ok ((k, p.2) :: ks))

/-! ## What an access waits for (R81 to R89) -/

/-- Classes of operations in the matrices. -/
inductive OpCls where
  | ld | st | at_ | rel | acq | cm
deriving DecidableEq, Repr

def OpKind.cls : OpKind → OpCls
  | .load _ _ | .loadFrag => .ld
  | .store => .st
  | .atomic _ _ _ _ _ => .at_
  | .rel _ => .rel
  | .acq _ | .relacq _ _ => .acq
  | .cmaint _ _ _ => .cm

def ClassSet.has (c : ClassSet) (k : OpCls) : Bool :=
  match k with
  | .ld => c.ld
  | .st => c.st
  | .at_ => c.atom
  | .cm => c.cm
  | _ => false

def Space.keys : Space → List Nat
  | .mem ps => pieceBytes ps
  | _ => []

def Space.overlaps (a b : Space) : Bool := (Space.keys a).any fun k => decide (k ∈ Space.keys b)

/-- The point at which an atomic is performed: its scope, and the home of its byte (note 10 of R82). -/
def atomPoint (k : OpKind) (die : Nat) (sp : Space) : Option (Nat × Nat) :=
  match k with
  | .atomic _ _ sc _ _ =>
    let a := (Space.keys sp).headD 0
    some (match sc with
      | .team => (0, 0)
      | .cluster => (1, die)
      | .device => (2, homeDie a)
      | .domain => if isRemote a then (3, remoteDev a) else (2, homeDie a))
  | _ => none

/-- A core write: a plain store or a team-scope atomic (R74). -/
def OpKind.isCoreWrite : OpKind → Bool
  | .store => true
  | .atomic _ _ .team _ _ => true
  | _ => false

/-- Whether an earlier operation of the thread must take effect before a later one (R83 to R87, R89). -/
def mustPrecede (core : CoreId) (o : Op) (k : OpKind) (sp : Space) : Bool :=
  match o.space, sp with
  | .spad t _, .spad t' _ => decide (t = t')
  | .spad _ _, .mem _ => false
  | .mem _, .spad _ _ => false
  | _, _ =>
    match OpKind.cls k, OpKind.cls o.kind with
    | .ld, .ld => true
    | .ld, .st | .ld, .at_ => o.kind.isCoreWrite && Space.overlaps o.space sp
    | .ld, _ => false
    | .st, .ld | .st, .st | .st, .at_ => true
    | .st, _ => false
    | .at_, .ld | .at_, .st | .at_, .rel => true
    | .at_, .at_ => decide (atomPoint o.kind core.die o.space = atomPoint k core.die sp)
    | .at_, _ => false
    | .rel, _ => true
    | .acq, .ld | .acq, .at_ | .acq, .rel => true
    | .acq, _ => match k with | .relacq _ _ => true | _ => false
    | .cm, _ => true

/-- The failed access that a thread executes again (R214). -/
def State.failedOf (s : State) (t : Thread) : Option Op :=
  t.redo.head?.bind fun r => s.ops.find? fun o => decide (o.id = r.op) && o.failed.isSome

/-- The place of an access that a thread issues now in its order of accesses: one that executes again keeps its own. -/
def State.opPlace (s : State) (t : Thread) : Nat := ((s.failedOf t).map Op.id).getD s.clock.fresh

/-- The earlier accesses of the thread that a new one waits for: those of the matrices, and those of its FENCEs. -/
def State.depsFor (s : State) (t : Thread) (k : OpKind) (sp : Space) : List Nat :=
  let n := s.opPlace t
  ((s.ops.filter fun o => decide (o.th = t.id) && decide (o.id < n) && mustPrecede t.core o k sp).map Op.id) ++
    (t.fences.filter fun f => ClassSet.has f.1 (OpKind.cls k) && decide (f.2.1 ≤ n)).flatMap fun f => f.2.2

/-- An access has taken effect (R81): it is complete, or a store to another device that has performed here. -/
def State.tookEffect (s : State) (n : Nat) : Bool :=
  match s.op? n with
  | none => true
  | some o => decide (o.kind = .store) && o.answer.isSome

def State.depsDone (s : State) (o : Op) : Bool := o.deps.all s.tookEffect

/-- The thread observes bytes whose writes are not yet at the device point (R76). -/
def State.observe (t : ThreadId) (ks : List Nat) (s : State) : State :=
  s.modThread t fun x => { x with observed := x.observed ++ ks.filter fun k => decide (k ∉ x.observed) }

/-- Bytes of a thread's images that came from writes not yet at the device point. -/
def State.freshOf (s : State) (t : Thread) (ks : List Nat) : List Nat :=
  ks.filter fun k => match (s.core t.core).imageOf t k with
    | some i => decide (k ∈ i.fresh)
    | none => false

/-! ## Counts (R184) -/

/-- One more lane of an issue in the group's count. -/
def Group.joinCount (iss : Nat) (c : CountClass) (g : Group) : Group :=
  if g.counts.any fun x => decide (x.iss = iss) then
    { g with counts := g.counts.map fun x => if x.iss = iss then { x with left := x.left + 1 } else x }
  else { g with counts := g.counts ++ [{ iss := iss, cls := c, left := 1 }] }

def State.leaveCount (g : GroupId) (iss : Nat) (s : State) : State := s.modGroup g (Group.leaveCount iss)

/-- The lane's place in the count of its issue: the one it holds already, or a new one. -/
def State.countLane (c : CountClass) (t : Thread) (s : State) : State × Nat :=
  match t.counted with
  | some n => (s, n)
  | none => (s.modGroup t.id.gid (Group.joinCount s.issue.num c), s.issue.num)

/-- A lane that makes no access leaves the count that it held, and the access that failed is gone. -/
def State.uncount (t : Thread) (s : State) : State :=
  let s1 := match s.failedOf t with
    | some o => s.dropOp o.id
    | none => s
  match t.counted with
  | some n => s1.leaveCount t.id.gid n
  | none => s1

/-- A lane fault of a counted access: a first fault keeps the lane's count, a repeated one drops it. The count that the
lane then holds. -/
def State.countFault (c : CountClass) (t : Thread) (s : State) : State × Option Nat :=
  match t.counted with
  | some n => (s.leaveCount t.id.gid n, none)
  | none => (s.modGroup t.id.gid (Group.joinCount s.issue.num c), some s.issue.num)

def State.faultCounted (c : CountClass) (t : Thread) (s : State) : State :=
  let r := s.countFault c t
  r.1.modThread t.id fun x => { x with counted := r.2 }

/-- A lane that executes again and faults before its lane loop drops its count too. -/
def State.faultAgain (t : Thread) (s : State) : State :=
  match t.counted with
  | some n => (s.leaveCount t.id.gid n).modThread t.id fun x => { x with counted := none }
  | none => s

/-! ## The access of one lane -/

/-- What an access instruction asks. -/
structure AccSpec where
  kind : OpKind
  z : Nat
  need : Need
  hint : Hint
  cls : CountClass
  /-- First destination register number and how many registers, where it returns a value. -/
  dst : Option (Nat × Nat)
  data : List Byte
  pst : Bool

/-- Registers that an access of z bytes fills. -/
def regCount (z : Nat) : Nat := (z + 3) / 4

/-- Cycles of a read below the L1 that a line serves from the L2, the memory-side cache of its home, or HBM (R209). -/
def State.lineDelay (s : State) (l2 : Bool) (line : Nat) : Nat :=
  if l2 then 140 else if line ∈ (s.die (homeDie (128 * line))).cached then 300 else 520

/-- The same for a byte that a thread reads; R209 gives no time for a byte of another device (log entry 22). -/
def State.belowDelay (s : State) (t : Thread) (a : Nat) : Nat :=
  if isRemote a then 520 else s.lineDelay (!(s.l2Misses t.core.die t.acqScope t.acqAt (a / 128))) (a / 128)

/-- The line of the overflow area that answers a byte of a thread's load, where one does (R206). -/
def State.ovLineOf (s : State) (t : Thread) (a : Nat) : Option Nat :=
  ((s.core t.core).imageOf t a).bind fun i => i.slot.map (s.core t.core).ovLine

/-- Cycles of a load of a byte (R209): from the L1 once the words of its block have arrived, from the overflow area, or
from below. -/
def State.byteDelay (s : State) (t : Thread) (a : Nat) : Nat :=
  match s.ovLineOf t a, (s.core t.core).blocks.find? fun b => b.covers (a / 128) (a / 16 % 8) with
  | some l, _ => s.lineDelay (s.l2Has t.core.die l) l + 8
  | none, none => s.belowDelay t a
  | none, some b =>
    if ((s.core t.core).imageOf t a).isSome ∨ s.clock.cycle < b.ready then b.ready - s.clock.cycle else s.belowDelay t a

/-- Cycles of a load (R209). -/
def State.loadDelay (s : State) (t : Thread) (keys : List Nat) : Nat :=
  keys.foldl (fun n a => Nat.max n (s.byteDelay t a)) 28

/-- The die of this device to which an access of a byte goes: its home, or the die of the port to its device. -/
def State.keyDie (s : State) (k : Nat) : Nat :=
  if isRemote k then portDie (((s.domain.find? fun d => decide (d.1 = remoteDev k)).map fun d => d.2.port).getD 0)
  else homeDie k

/-- Dies on the route of an access that leaves its die, and of an atomic at the cluster point; another access served on
its die or core has none (R18, R90; log entry 12). -/
def State.routeOf (s : State) (t : Thread) (k : OpKind) (keys : List Nat) : List Nat :=
  let far (ks : List Nat) : List Nat := (ks.flatMap fun a => route t.core.die (s.keyDie a)).eraseDups
  match k with
  | .load _ _ | .loadFrag =>
    far ((keys.filter fun a => ((s.core t.core).imageOf t a).isNone &&
      (isRemote a || s.l2Misses t.core.die t.acqScope t.acqAt (a / 128))) ++
      (((keys.filterMap (s.ovLineOf t)).eraseDups.filter fun l => !(s.l2Has t.core.die l)).map fun l => 128 * l))
  | .store => far (keys.filter isRemote)
  | .atomic _ _ .cluster _ _ => [t.core.die]
  | .atomic _ _ .device _ _ | .atomic _ _ .domain _ _ => far keys
  | _ => []

/-- Cycles from issue to the access's effect: R209 for what returns a value; a store performs as an access that hits
the L1, and an atomic at team scope 4 cycles later, on a hit or a miss (log entry 22). -/
def State.delayOf (s : State) (t : Thread) (x : AccSpec) (keys : List Nat) : Nat :=
  match x.kind with
  | .load _ _ => s.loadDelay t keys
  | .loadFrag => s.loadDelay t keys + 16
  | .atomic _ _ .cluster _ _ => 144
  | .atomic _ _ .device _ _ | .atomic _ _ .domain _ _ => 304
  | .atomic _ _ .team _ _ => 32
  | .store => 28
  | _ => 1

/-- The operation that a lane issues. -/
def State.newOp (s : State) (t : Thread) (x : AccSpec) (sp : Space) (va iss due : Nat) : Op :=
  { id := s.opPlace t, num := s.issue.num, iss := iss, kind := x.kind, th := t.id, core := t.core, quad := t.quad,
    space := sp, vaddr := va, size := x.z, data := x.data, dst := x.dst.map Prod.fst, deps := s.depsFor t x.kind sp,
    due := due, addr0 := s.issue.pc, pst := x.pst, hint := x.hint,
    reqtag := s.reqtagOf t.id, tenant := s.tenantOf t.id, part := s.partOf t.id, answer := none, failed := none,
    stall := none, sent := false, wb := t.wb, marks := [], fills := [] }

/-- The operation joins those in flight; one that executes again takes the place of the one that failed (R82, R214). -/
def State.addOp (o : Op) (s : State) : State :=
  if o.id < s.clock.fresh then s.modOp o.id fun _ => o else (s.setOps (s.ops ++ [o])).bump 1

/-- A lane held with its sub-group, to be parked by DATA_FAULT_PARK (R214). -/
def Thread.holdFault (t : Thread) (num cause reason va aux : Nat) (counted : Option Nat) : Thread :=
  { t with wait := .fault num cause reason va 0 aux, counted := counted }

/-- Issues the access of one lane at translated pieces: its die state, its blocks, its operation. -/
def State.issueLane (x : AccSpec) (ks : List (Nat × Nat)) (va : Nat) (s : State) (t : Thread) : State × LaneRes :=
  let keys := pieceBytes ks
  match s.gate (s.routeOf t x.kind keys) with
  | .dead d =>
    let c := s.countFault x.cls t
    (c.1, .hold (t.holdFault s.issue.num 0x0C 0 va d c.2))
  | g =>
    let c := s.countLane x.cls t
    let l1 := match x.kind with
      | .load _ _ | .loadFrag | .store | .atomic _ _ .team _ _ =>
        c.1.l1Access t.id.gid s.issue.pc x.hint
          (s.clock.cycle + (if x.kind = OpKind.store then 0 else s.loadDelay t keys)) (wordsOf16 keys)
      | _ => (c.1, { hit := true, fills := [] })
    let fills := match x.kind with
      | .load _ _ | .loadFrag | .atomic _ _ .team _ _ => l1.2.fills
      | _ => []
    let o := { l1.1.newOp t x (.mem ks) va c.2 (s.clock.cycle + s.delayOf t x keys) with fills := fills }
    if g = .stall then
      (l1.1.addOp { o with stall := some s.clock.cycle }, .hold { t with wait := .dusk o.id, counted := some c.2 })
    else (l1.1.addOp o, .done t)

/-- The access of one lane through a capability (R178): the guard has passed. -/
def State.accessLane (c : Cap) (remote : Bool) (off : Int) (x : AccSpec) (s : State) (t : Thread) : State × LaneRes :=
  match formAccess c off x.z with
  | .misaligned va => (s.faultCounted x.cls t, .fault { cause := 0x06, addr1 := va } s.issue.pc)
  | .outside va =>
    if cPermBit c capTOOB then (s.faultCounted x.cls t, .fault { cause := 0x05, addr1 := va } s.issue.pc)
    else
      let t1 := match x.dst with
        | some (r, n) => t.setRegs r (List.replicate n 0)
        | none => t
      (s.uncount t, .done { t1 with oobflag := true })
  | .ok ps =>
    let va := (ps.head?.map Prod.fst).getD 0
    if remote then s.issueLane x (ps.map fun p => (remoteKey c.device p.1, p.2)) va t
    else
      let r := s.translateAll t.qid (s.vfOf t.id) x.need ps
      match r.2 with
      | .error e =>
        let k := r.1.countFault x.cls t
        (k.1, .hold (t.holdFault s.issue.num 0x03 e.1 e.2 0 k.2))
      | .ok ks =>
        if ks.any fun p => isRemote p.1 && (r.1.domain.find? fun d => decide (d.1 = remoteDev p.1)).isNone then
          (r.1.faultCounted x.cls t, .fault { cause := 0x0D, addr1 := va } s.issue.pc)
        else r.1.issueLane x ks va t

end Sys2Proof.Machine
end

