-- ==== Sys2Proof/Machine/LoadStore.lean ====
section
/-! DEFINITION. Capabilities, loads, stores, atomics, fragments, scratchpad accesses, PHASE, FENCE, CMAINT, PREF and
LEASE (R172 to R196). -/

namespace Sys2Proof.Machine
open Host

/-! ## The capability (R172, R173) -/

/-- A bit field of a number: the `n` bits from bit `i`. -/
def bitsAt (v i n : Nat) : Nat := v / 2 ^ i % 2 ^ n

/-- The capability of 256 bits; none where it is malformed. -/
def capOfBits (v : Nat) : Option Cap :=
  let c : Cap := { base := bitsAt v 0 57, extent := bitsAt v 64 48, tenant := bitsAt v 112 16, stride := bitsAt v 128 24,
                   swz := bitsAt v 152 8, perm := bitsAt v 160 8, device := bitsAt v 168 21 }
  if bitsAt v 57 7 ≠ 0 ∨ bitsAt v 189 67 ≠ 0 ∨ 2 ^ 57 < c.base + c.extent then none
  else if cPermBit c capPST ∧ (cPermBit c capW ∨ cPermBit c capA) then none
  else if ¬ cPermBit c capREM ∧ c.device ≠ 0 then none
  else some c

/-- Writes capability register x of a team; none clears VALID. -/
def Team.setCap (x : Nat) (c : Option Cap) (t : Team) : Team :=
  let r := t.caps.filter fun e => decide (e.1 ≠ x)
  { t with caps := match c with
      | none => r
      | some v => r ++ [(x, v)] }

/-- The capability goes to another device (R188). -/
def Cap.remote (c : Cap) : Bool := cPermBit c capREM && decide (c.device ≠ Config.devid.toNat)

/-- A device is in the load-store domain (R188, R359). -/
def State.inDomain (s : State) (dev : Nat) : Bool := s.domain.any fun e => decide (e.1 = dev)

/-- The checks before the lane loop for one thread, through its own team (R63, R178, R188): the capability, or what
the record says. -/
def State.capCheck (s : State) (t : Thread) (k : Nat) (perm : Cap → Bool) : Except RecInfo Cap :=
  match s.capOf t.id.tmid k with
  | none => .error { cause := 0x04, info := k }
  | some c =>
    if c.tenant ≠ s.tenantOf t.id ∨ ¬ perm c then .error { cause := 0x04, info := k }
    else if Cap.remote c ∧ ¬ s.inDomain c.device then .error { cause := 0x0D }
    else .ok c

/-! ## Accesses through a capability (R178 to R187) -/

/-- The byte offset of an access (R178). -/
def accOff (t : Thread) (c : Cap) (a : Nat) (disp : Int) : Int := ((t.src a).toNat * c.stride : Nat) + disp

/-- One access instruction: the lanes of `g` whose guard passes access through k; `x` reads its operands at issue. -/
def State.access (g : Option Guard) (k a : Nat) (disp : Int) (perm : Cap → Bool) (x : Thread → Cap → AccSpec)
    (s : State) : State :=
  s.lanesM fun st t =>
    match s.capCheck t k perm with
    | .error i => (st.faultAgain t, .fault i s.issue.pc)
    | .ok c =>
      if (match g with | some q => t.passes q | none => true) then
        st.accessLane c (Cap.remote c) (accOff t c a disp) (x t c) t
      else (st.uncount t, .done t)

def ldBytes : LdSize → Nat
  | .n8 | .s8 => 1 | .n16 | .s16 => 2 | .n32 => 4 | .n64 => 8 | .n128 => 16
def stBytes : StSize → Nat
  | .n8 => 1 | .n16 => 2 | .n32 => 4 | .n64 => 8 | .n128 => 16

/-- The bytes that a store of `z` takes from consecutive registers, lowest first (R183). -/
def Thread.storeBytes (t : Thread) (r z : Nat) : List Byte :=
  ((t.regsFrom r (regCount z)).flatMap fun w => natLE 4 w.toNat).take z

/-- LD (R183). -/
def execLd (sz : LdSize) (h : Hint) (sr k a : Nat) (disp : Int) (s : State) : Out :=
  .next (s.access none k a disp (fun c => cPermBit c capR) fun t c =>
    { kind := .load sz (cPermBit c capPST), z := ldBytes sz, need := .rd, hint := h, cls := .nl,
      dst := some (regNo t.wb sr, regCount (ldBytes sz)), data := [], pst := cPermBit c capPST })

/-- ST (R183). -/
def execSt (g : Guard) (sz : StSize) (h : Hint) (k a : Nat) (disp : Int) (sr : Nat) (s : State) : Out :=
  .next (s.access (some g) k a disp (fun c => cPermBit c capW) fun t _ =>
    { kind := .store, z := stBytes sz, need := .wr, hint := h, cls := .ns, dst := none,
      data := t.storeBytes (regNo t.wb sr) (stBytes sz), pst := false })

/-- LDF (R185). -/
def execLdf (h : Hint) (sr k a : Nat) (disp : Int) (s : State) : Out :=
  .next (s.access none k a disp (fun c => cPermBit c capR) fun t c =>
    { kind := .loadFrag, z := 256, need := .rd, hint := h, cls := .nl, dst := some (regNo t.wb sr, 64), data := [],
      pst := cPermBit c capPST })

/-- STF (R185). -/
def execStf (h : Hint) (k a : Nat) (disp : Int) (sr : Nat) (s : State) : Out :=
  .next (s.access none k a disp (fun c => cPermBit c capW) fun t _ =>
    { kind := .store, z := 256, need := .wr, hint := h, cls := .ns, dst := none,
      data := t.storeBytes (regNo t.wb sr) 256, pst := false })

/-- ATOM's access: gS receives the old value, where S is not 0; a cas with S = 0 writes zero on a match (R186). -/
def atomSpec (op : AtomOp) (dbl : Bool) (sc : AtomScope) (sr cr : Nat) (t : Thread) : AccSpec :=
  { kind := .atomic op dbl sc (if sr = 0 then 0 else t.srcN dbl sr) (t.srcN dbl cr), z := if dbl then 8 else 4, need := .wr, hint := .none,
    cls := if sr = 0 then .ns else .nl, dst := if sr = 0 then none else some (regNo t.wb sr, if dbl then 2 else 1),
    data := [], pst := false }

/-- ATOM (R186, R187): a REM capability must name domain scope. -/
def execAtom (g : Guard) (op : AtomOp) (dbl : Bool) (sc : AtomScope) (k a : Nat) (disp : Int) (sr cr : Nat)
    (s : State) : Out :=
  .next (s.access (some g) k a disp (fun c => cPermBit c capA && (!(cPermBit c capREM) || decide (sc = .domain)))
    fun t _ => atomSpec op dbl sc sr cr t)

/-- Wrap of an integer atomic, and the FADD of R187: the new value of the target. -/
def atomNew (op : AtomOp) (dbl : Bool) (old sv cv : Nat) : Nat :=
  let w := if dbl then 64 else 32
  let F := if dbl then Fmt.f64 else Fmt.f32
  match op with
  | .ld => old
  | .xchg => cv
  | .cas => if old = cv then sv else old
  | .add => (old + cv) % 2 ^ w
  | .smin => if sInt w cv < sInt w old then cv else old
  | .smax => if sInt w old < sInt w cv then cv else old
  | .nmin => Nat.min old cv
  | .nmax => Nat.max old cv
  | .and => Nat.land old cv
  | .or => Nat.lor old cv
  | .xor => Nat.xor old cv
  | .fadd => (F.add .rne false (F.dec old) (F.dec cv)).1

/-! ## Scratchpad (R189, R190) -/

/-- The team that a lane's access reaches: its own, or the one at an index of its cluster. -/
def State.spadTeam (s : State) (t : Thread) (c : Nat) : Option TeamId :=
  if c = 0 then some t.id.tmid
  else
    let n := ((s.gridOf t.id).map fun g => g.desc.tpc).getD 1
    let i := (t.src c).toNat
    if 12 ≤ i ∨ n ≤ i then none else some { grid := t.id.grid, team := t.id.team / n * n + i }

/-- The entry of tile m on the core of a team, where the team owns it and it is READY. -/
def State.readyTile (s : State) (tm : TeamId) (m : Nat) : Option DWord :=
  match s.team? tm with
  | none => none
  | some t => if t.owns m ∧ tState (s.tile t.core m) = 2 then some (s.tile t.core m) else none

/-- One scratchpad instruction. -/
def State.spadAccess (m a : Nat) (disp : Int) (c : Nat) (x : Thread → AccSpec) (delay : Nat) (s : State) : State :=
  s.lanesM fun st t =>
    let sp := x t
    match (s.spadTeam t c).bind fun tm => (s.readyTile tm m).map fun e => (tm, e) with
    | none => (if c = 0 then st.faultAgain t else st.faultCounted sp.cls t, .fault { cause := 0x0E, info := m } s.issue.pc)
    | some (tm, e) =>
      let off : Int := (t.src a).toNat + disp
      if off % (sp.z : Int) ≠ 0 then (st.faultCounted sp.cls t, .fault { cause := 0x06 } s.issue.pc)
      else if off < 0 ∨ (16 * tSize e : Nat) < off + sp.z then
        let t1 := match sp.dst with
          | some (r, n) => t.setRegs r (List.replicate n 0)
          | none => t
        (st.uncount t, .done { t1 with oobflag := true })
      else
        let k := st.countLane sp.cls t
        (k.1.addOp (k.1.newOp t sp (.spad tm (16 * tBase e + off.toNat)) 0 k.2 (s.clock.cycle + delay)), .done t)

/-- LDS (R189, R190). -/
def execLds (sz : LdSize) (sr m a : Nat) (disp : Int) (c : Nat) (s : State) : Out :=
  .next (s.spadAccess m a disp c (fun t =>
    { kind := .load sz false, z := ldBytes sz, need := .rd, hint := .none, cls := .nl,
      dst := some (regNo t.wb sr, regCount (ldBytes sz)), data := [], pst := false }) (if c = 0 then 20 else 64))

/-- STS (R189, R190): it performs a cycle after its issue (log entry 22). -/
def execSts (sz : StSize) (m a : Nat) (disp : Int) (sr c : Nat) (s : State) : Out :=
  .next (s.spadAccess m a disp c (fun t =>
    { kind := .store, z := stBytes sz, need := .wr, hint := .none, cls := .ns, dst := none,
      data := t.storeBytes (regNo t.wb sr) (stBytes sz), pst := false }) 1)

/-- The operation of an ATOMS and whether it acts on 64 bits. -/
def atomsOp : AtomsOp → AtomOp × Bool
  | .w o => (o, false)
  | .xchg64 => (.xchg, true)
  | .cas64 => (.cas, true)
  | .add64 => (.add, true)

/-- ATOMS (R189, R190). -/
def execAtoms (op : AtomsOp) (m a : Nat) (disp : Int) (sr cr : Nat) (s : State) : Out :=
  .next (s.spadAccess m a disp 0 (fun t => atomSpec (atomsOp op).1 (atomsOp op).2 .team sr cr t) 24)

/-! ## PHASE, FENCE, CMAINT, PREF, LEASE (R192 to R196) -/

/-- An operation that accesses no byte of its own: a release, an acquire or a CMAINT. -/
def State.bareOp (s : State) (t : Thread) (k : OpKind) : Op :=
  s.newOp t { kind := k, z := 0, need := .rd, hint := .none, cls := .nl, dst := none, data := [], pst := false } .none 0
    s.issue.num (s.clock.cycle + 1)

/-- PHASE.REL (R76, R193): the thread goes on; the release completes at PHASE_REL_COMPLETE. -/
def execPhaseRel (sc : Scope) (s : State) : Out :=
  .next (s.lanesM fun st t => (st.addOp (st.bareOp t (.rel sc)), .done t))

/-- PHASE.ACQ (R77, R193): the thread is held until PHASE_ACQ_COMPLETE. -/
def execPhaseAcq (sc : Scope) (s : State) : Out :=
  .next (s.lanesM fun st t =>
    (st.addOp (st.bareOp t (.acq sc)), .done { t with wait := .phase st.clock.fresh }))

/-- PHASE.AR (R78): a release, then an acquire, as one instruction. -/
def execPhaseAr (sc : Scope) (s : State) : Out :=
  .next (s.lanesM fun st t =>
    (st.addOp (st.bareOp t (.relacq sc false)), .done { t with wait := .phase st.clock.fresh }))

/-- The class of an operation as FENCE names them. -/
def fenceHas (c : ClassSet) (o : Op) : Bool := ClassSet.has c (OpKind.cls o.kind)

/-- FENCE (R81): later operations of L wait for the earlier ones of E that have still to take effect. The thread's
earlier engine issues are captured by then (R261). -/
def execFence (e l : ClassSet) (s : State) : Out :=
  .next (s.lanesOk fun t =>
    let ids := (s.ops.filter fun o => decide (o.th = t.id) && fenceHas e o && !(s.tookEffect o.id)).map Op.id
    if ids.isEmpty then t else { t with fences := t.fences ++ [(l, s.clock.fresh, ids)] })

/-- The virtual pieces of a range of offsets: the bytes of each 16-byte word that its swizzle keeps within EXTENT,
and whether any was clipped (R194). -/
def rangePieces (c : Cap) (off n : Nat) : List (Nat × Nat) × Bool :=
  let stop := Nat.min (off + n) c.extent
  let ws := if stop ≤ off then [] else (List.range ((stop - 1) / 16 + 1 - off / 16)).map fun i => off / 16 + i
  let ps := ws.filterMap fun w =>
    let lo := Nat.max off (16 * w)
    let v := swz lo c.swz
    let z := Nat.min stop (16 * w + 16) - lo
    if c.extent ≤ v then none else some (c.base + v, Nat.min z (c.extent - v), z)
  (ps.map fun p => (p.1, p.2.1),
   decide (n ≠ 0) && (decide (c.extent < off + n) || ps.length ≠ ws.length || ps.any fun p => decide (p.2.1 ≠ p.2.2)))

/-- The permission that CMAINT needs (R179). -/
def maintPerm (op : MaintOp) (c : Cap) : Bool :=
  match op with
  | .clean => cPermBit c capR || cPermBit c capW
  | _ => cPermBit c capW

/-- CMAINT in one lane (R194). -/
def State.maintLane (op : MaintOp) (lv : Nat) (c : Cap) (off n : Nat) (s : State) (t : Thread) : State × LaneRes :=
  let r := rangePieces c off n
  if r.2 ∧ cPermBit c capTOOB then (s, .fault { cause := 0x05, addr1 := vaOf (c.base + off : Nat) } s.issue.pc)
  else
    let t1 := if r.2 then { t with oobflag := true } else t
    if n = 0 then (s, .done t1)
    else if Cap.remote c then
      (s.addOp (s.bareOp t (.cmaint op lv (r.1.map fun p => (remoteKey c.device p.1, p.2)))), .done t1)
    else
      let k := s.translateAll t.qid (s.vfOf t.id) .either r.1
      match k.2 with
      | .error e => (k.1, .hold { t with wait := .fault s.issue.num 0x03 e.1 e.2 0 0 })
      | .ok ks => (k.1.addOp (k.1.bareOp t (.cmaint op lv ks)), .done t1)

/-- CMAINT (R194): it completes at CMAINT_COMPLETE. -/
def execCmaint (op : MaintOp) (lv k a b : Nat) (s : State) : Out :=
  .next (s.lanesM fun st t =>
    match s.capCheck t k (maintPerm op) with
    | .error i => (st, .fault i s.issue.pc)
    | .ok c => st.maintLane op lv c (t.srcPair a).toNat (t.srcPair b).toNat t)

/-- PREF in one lane: the line at its offset comes into the level, where nothing would fault and every die on the
route is in Noon (R195). -/
def State.prefLane (lv : Nat) (c : Cap) (off : Nat) (t : Thread) (s : State) : State :=
  let v := swz off c.swz
  if c.extent ≤ off ∨ c.extent ≤ v ∨ Cap.remote c then s
  else
    let r := s.translate t.qid (s.vfOf t.id) .rd (c.base + v)
    match r.2 with
    | .error _ => s
    | .ok k =>
      if isRemote k ∨ r.1.gate (route t.core.die (homeDie k)) ≠ .go then r.1
      else if lv = 3 then r.1.touchCached (k / 128)
      else
        let s1 := r.1.ensureL2 t.core.die t.acqScope t.acqAt (k / 128)
        if lv = 1 then
          let l1 := s1.l1Access t.id.gid s.issue.pc .none (s.clock.cycle + r.1.loadDelay t [k]) [k / 16]
          l1.1.fillBlock t l1.2.fills
        else s1

/-- A register can be read: it holds no poison, and a recipe has been regenerated. -/
def Thread.readable (t : Thread) (r : Nat) : Bool :=
  decide (r ∉ t.poisoned) && (!(t.isRecipe r) || t.regen.any fun e => decide (e.1 = r))

/-- PREF (R195): a hint that never faults. -/
def execPref (lv k a : Nat) (s : State) : Out :=
  .next (s.lanesM fun st t =>
    match s.capOf t.id.tmid k with
    | none => (st, .done t)
    | some c =>
      if c.tenant ≠ s.tenantOf t.id ∨ ¬ cPermBit c capR ∨ ¬ t.readable (regNo t.wb a) then (st, .done t)
      else (st.prefLane lv c ((t.src a).toNat * c.stride) t, .done t))

/-- LEASE (R196): once for each group, by its leader. -/
def execLease (a : Nat) (s : State) : Out :=
  .next (s.bundleGroups.foldl (fun st g =>
    match s.groupLeader g with
    | none => st
    | some l =>
      let v := (l.src a).toNat
      st.modGroup g fun x => { x with declared := if v = 0 then none else some (Nat.min v 98304) }) s.retireAll)

/-! ## The capability instructions (R176, R177) -/

/-- A capability register's new value, which stands from a cycle on (R174). -/
def Team.writeCap (x : Nat) (c : Option Cap) (at_ : Nat) (t : Team) : Team :=
  { t with capWrites := t.capWrites ++ [(x, c, at_)] }

/-- A CAP instruction that writes a register at the end of its issue cycle: `f` gives the value of each team from its
leader, or the fault of the team's lanes; `differs` names the lanes that park although the register is written. One
record stands for a fault of a team (R360). -/
def State.capInstr (x : Nat) (f : Thread → Except RecInfo (Option Cap)) (differs : Thread → Thread → Bool)
    (s : State) : State :=
  let s1 := s.bundleTeams.foldl (fun st tm =>
    match s.teamLeader tm with
    | none => st
    | some l => match f l with
      | .error _ => st
      | .ok c => st.modTeam tm (Team.writeCap x c (s.clock.cycle + 1))) s
  s1.lanes fun t =>
    match s.teamLeader t.id.tmid with
    | none => .done t
    | some l => match f l with
      | .error i => .fault i s.issue.pc
      | .ok _ => if differs l t then .fault { cause := 0x04, info := x } s.issue.pc else .done t

/-- The entry that CAPLD reads: index below the table's count and well formed. -/
def State.capEntry (s : State) (t : Thread) (i : Nat) : Option Cap :=
  (s.gridOf t.id).bind fun g => if i < g.capTab.length then capOfBits (g.capTab.getD i 0) else none

/-- CAPLD (R175, R177): the write takes effect at CAP_WRITE_EFFECT, 8 cycles after issue (R197). -/
def execCapld (x i : Nat) (s : State) : Out :=
  let s1 := s.bundleTeams.foldl (fun st tm =>
    match s.teamLeader tm with
    | none => st
    | some l => match s.capEntry l i with
      | none => st
      | some c => st.modTeam tm (Team.writeCap x (some c) (s.clock.cycle + 8))) s
  .next (s1.lanes fun t =>
    match s.capEntry t i with
    | none => .fault { cause := 0x04, info := x } s.issue.pc
    | some _ => .done t)

/-- The capability that CAPNAR derives (R177). -/
def narrow (c : Cap) (off ext mask : Nat) : Cap :=
  { c with base := c.base + off, extent := ext, perm := Nat.land c.perm (Nat.lor mask 0x10) }

/-- CAPNAR (R177). -/
def execCapnar (x y a b mask : Nat) (s : State) : Out :=
  .next (s.capInstr x (fun l =>
    match s.capOf l.id.tmid y with
    | none => .error { cause := 0x04, info := y }
    | some c =>
      if ¬ cPermBit c capNAR then .error { cause := 0x04, info := y }
      else if c.extent < (l.srcPair a).toNat + (l.srcPair b).toNat then .error { cause := 0x05 }
      else .ok (some (narrow c (l.srcPair a).toNat (l.srcPair b).toNat mask)))
    fun l t => decide (t.srcPair a ≠ l.srcPair a) || decide (t.srcPair b ≠ l.srcPair b))

/-- A field of a capability as CAPQ gives it; an invalid register gives 0. -/
def capField (f : CapField) (c : Option Cap) : Nat :=
  match c with
  | none => 0
  | some v => match f with
    | .base => v.base | .extent => v.extent | .stride => v.stride | .swz => v.swz | .tenant => v.tenant
    | .perm => v.perm | .device => v.device | .valid => 1

/-- CAPQ (R176, R177). -/
def execCapq (f : CapField) (d y : Nat) (s : State) : Out :=
  .next (s.lanesOk fun t =>
    t.dstN (decide (f = .base) || decide (f = .extent)) d (capField f (s.capOf t.id.tmid y)))

/-- CAPSWZ (R177). -/
def execCapswz (x y sw : Nat) (s : State) : Out :=
  .next (s.capInstr x (fun l =>
    match s.capOf l.id.tmid y with
    | none => .error { cause := 0x04, info := y }
    | some c => if cPermBit c capNAR then .ok (some { c with swz := sw }) else .error { cause := 0x04, info := y })
    fun _ _ => false)

/-- CAPDROP (R177). -/
def execCapdrop (x : Nat) (s : State) : Out := .next (s.capInstr x (fun _ => .ok none) fun _ _ => false)

end Sys2Proof.Machine
end

