-- ==== Sys2Proof/Machine/Uses.lean ====
section
/-! DEFINITION. What an instruction names: registers read and written (R40 step 7, R60, R155), predicates (R139),
capability registers (R174), tiles and slots (R302), and the count it joins (R191). -/

namespace Sys2Proof.Machine

/-! ## Registers. Each list holds register numbers of a thread whose window base is `wb`. -/

/-- A run of `n` registers from a field. -/
def run (wb f n : Nat) : List Nat := (List.range n).map fun i => regNo wb f + i
/-- One register or a pair. -/
def runD (wb : Nat) (dbl : Bool) (f : Nat) : List Nat := run wb f (if dbl then 2 else 1)

def tyDbl (ty : Ty) : Bool := Ty.dbl ty
def f1Dbl (ty : F1Ty) : Bool := decide (ty = .f64)

def weightRegs (ty : Ty) : Nat := if ty = .cb2 then 32 else 64
def rowRegs (ty : F2Ty) : Nat := if ty = .f32 then 64 else 32

/-- The registers that an instruction's words name as sources. -/
def instrReads (wb : Nat) : Instr → List Nat
  | .wsys _ a | .lease a => run wb a 1
  | .jr _ a _ => run wb a 2
  | .cmp _ _ ty _ _ a b => runD wb (IntTy.dbl ty) a ++ (match b with | .reg r => runD wb (IntTy.dbl ty) r | .imm _ => [])
  | .fcmp _ _ ty _ _ a b => runD wb (FltTy.dbl ty) a ++ (match b with | .reg r => runD wb (FltTy.dbl ty) r | .imm _ => [])
  | .sel _ _ a b => run wb a 1 ++ run wb b 1
  | .add _ a b | .sub _ a b | .and _ a b | .or _ a b | .xor _ a b | .andn _ a b | .orn _ a b | .xnor _ a b
  | .shl _ a b | .shr _ a b | .sra _ a b | .rol _ a b | .ror _ a b | .min _ a b | .max _ a b | .minn _ a b
  | .mul _ a b | .mulh _ a b | .mulhn _ a b | .div _ a b | .divn _ a b | .rem _ a b | .remn _ a b | .maxn _ a b
  | .fadd _ a b | .fsub _ a b | .fmul _ a b | .fmin _ a b | .fmax _ a b | .fcpys _ a b => run wb a 1 ++ run wb b 1
  | .clz e _ a | .ctz e _ a | .ffs e _ a | .popc e _ a | .brev e _ a | .abs e _ a => runD wb (EWidth.dbl e) a
  | .sext _ _ a | .zext _ _ a => run wb a 1
  | .add64 _ a b | .sub64 _ a b | .and64 _ a b | .or64 _ a b | .xor64 _ a b | .andn64 _ a b | .orn64 _ a b
  | .xnor64 _ a b | .shl64 _ a b | .shr64 _ a b | .sra64 _ a b | .rol64 _ a b | .ror64 _ a b | .min64 _ a b
  | .max64 _ a b | .minn64 _ a b | .mul64 _ a b | .mulh64 _ a b | .mulhn64 _ a b | .div64 _ a b | .divn64 _ a b
  | .rem64 _ a b | .remn64 _ a b | .maxn64 _ a b => run wb a 2 ++ run wb b 2
  | .packAdd _ _ _ a b | .packSub _ _ _ a b | .packMin _ _ _ a b | .packMax _ _ _ a b | .avg _ _ _ a b
  | .absd _ _ _ a b | .packMul _ _ _ a b | .packShl _ _ _ a b => run wb a 1 ++ run wb b 1
  | .mad _ a b c | .madh _ a b c | .madhn _ a b c | .dp4 _ _ _ _ a b c | .dp2 _ _ _ _ a b c | .sad _ _ _ a b c
  | .lut3 _ a b c _ | .fdot2 _ _ _ _ a b c => run wb a 1 ++ run wb b 1 ++ run wb c 1
  | .mad64 _ _ a b c => run wb a 1 ++ run wb b 1 ++ run wb c 2
  | .bfx _ a _ _ | .bfxn _ a _ _ => run wb a 1
  | .bfi _ a b _ _ | .bgath _ a b _ => run wb a 1 ++ run wb b 1
  | .span _ _ a b n => run wb a 1 ++ run wb b 1 ++ (match n with | .reg c => run wb c 1 | .imm _ => [])
  | .addi _ a _ | .addiImm32 _ a _ | .andi _ a _ | .andiImm32 _ a _ | .ori _ a _ | .oriImm32 _ a _ | .xori _ a _
  | .xoriImm32 _ a _ | .shli _ a _ | .shri _ a _ | .srai _ a _ | .muli _ a _ | .muliImm32 _ a _ | .addl _ a _
  | .fabs _ a | .fneg _ a | .fexp2 _ _ a | .flog2 _ _ a | .fsin _ _ a | .fcos _ _ a | .ftanh _ _ a
  | .fsigm _ _ a => run wb a 1
  | .faddFp1 ty _ _ _ a b | .fsubFp1 ty _ _ _ a b | .fmulFp1 ty _ _ _ a b => runD wb (f1Dbl ty) a ++ runD wb (f1Dbl ty) b
  | .ffma ty _ _ _ a b c | .ffms ty _ _ _ a b c | .fnma ty _ _ _ a b c | .fnms ty _ _ _ a b c =>
    runD wb (f1Dbl ty) a ++ runD wb (f1Dbl ty) b ++ runD wb (f1Dbl ty) c
  | .fdiv dbl _ _ _ a b => runD wb dbl a ++ runD wb dbl b
  | .fsqrt dbl _ _ a | .frcp dbl _ a | .frsq dbl _ a | .fclass dbl _ a | .fgetx dbl _ a => runD wb dbl a
  | .frnd ty _ _ a => runD wb (f1Dbl ty) a
  | .fscale dbl _ _ _ a b => runD wb dbl a ++ run wb b 1
  | .cvt _ st _ _ _ a => runD wb (tyDbl st) a
  | .cvtp dt _ _ _ a b c _ => run wb a 1 ++ run wb b 1 ++ (if Ty.cvtpElems dt = 4 then run wb c 1 else [])
  | .cvte _ _ _ _ _ a _ => run wb a 1
  | .lgetIdx dbl _ a sl _ | .lgetRot dbl _ a sl _ | .lgetXor dbl _ a sl _ =>
    runD wb dbl a ++ (match sl with | .reg b => run wb b 1 | .imm _ => [])
  | .lgetShift dbl _ a sl _ => runD wb dbl a ++ (match sl with | .reg b => run wb b 1 | .imm _ => [])
  | .census _ _ a _ => run wb a 1
  | .red op _ a _ | .scan op _ _ a _ => runD wb (RedOp.dbl op) a
  | .peers dbl _ a _ => runD wb dbl a
  | .ld _ _ _ _ a _ | .ldf _ _ _ a _ | .pref _ _ a => run wb a 1
  | .st _ sz _ _ a _ sr => run wb a 1 ++ run wb sr (regCount (stBytes sz))
  | .atom _ op dbl _ _ a _ sr c =>
    run wb a 1 ++ (if op = .ld then [] else runD wb dbl c) ++ (if op = .cas ∧ sr ≠ 0 then runD wb dbl sr else [])
  | .stf _ _ a _ sr => run wb a 1 ++ run wb sr 64
  | .lds _ _ _ a _ c => run wb a 1 ++ (if c = 0 then [] else run wb c 1)
  | .sts sz _ a _ sr c => run wb a 1 ++ run wb sr (regCount (stBytes sz)) ++ (if c = 0 then [] else run wb c 1)
  | .atoms op _ a _ sr c =>
    let o := atomsOp op
    run wb a 1 ++ (if o.1 = .ld then [] else runD wb o.2 c) ++ (if o.1 = .cas ∧ sr ≠ 0 then runD wb o.2 sr else [])
  | .cmaint _ _ _ a b | .capnar _ _ a b _ => run wb a 2 ++ run wb b 2
  | .wld ty _ f => run wb f (weightRegs ty)
  | .wlds _ f => run wb f 1
  | .tmm p | .tepi p | .cred _ p | .cpy _ p => run wb p 8
  | .cpyr _ p => run wb p 10
  | .twr ty _ a => run wb a (rowRegs ty)
  | .cbld f _ => run wb f 4
  | .barArrive _ a | .barSync _ a => if a = 0 then [] else run wb a 1
  | .seqw _ v => (match v with | .reg a => run wb a 1 | .imm _ => [])
  | .spawn _ _ _ a => run wb a 2
  | _ => []

/-- The registers that an instruction's words name as destinations. -/
def instrWrites (wb : Nat) : Instr → List Nat
  | .rsys d n => runD wb (sysDbl n) d
  | .rjrd d _ => run wb d 2
  | .jal d _ => if d = 0 then [] else run wb d 2
  | .jr _ _ l => if l = 0 then [] else run wb l 2
  | .sel _ d _ _ => run wb d 1
  | .add d _ _ | .sub d _ _ | .and d _ _ | .or d _ _ | .xor d _ _ | .andn d _ _ | .orn d _ _ | .xnor d _ _
  | .shl d _ _ | .shr d _ _ | .sra d _ _ | .rol d _ _ | .ror d _ _ | .min d _ _ | .max d _ _ | .minn d _ _
  | .mul d _ _ | .mulh d _ _ | .mulhn d _ _ | .div d _ _ | .divn d _ _ | .rem d _ _ | .remn d _ _ | .maxn d _ _
  | .fadd d _ _ | .fsub d _ _ | .fmul d _ _ | .fmin d _ _ | .fmax d _ _ | .fcpys d _ _ => run wb d 1
  | .clz e d _ | .ctz e d _ | .ffs e d _ | .popc e d _ | .brev e d _ | .abs e d _ | .sext e d _ | .zext e d _ =>
    runD wb (EWidth.dbl e) d
  | .add64 d _ _ | .sub64 d _ _ | .and64 d _ _ | .or64 d _ _ | .xor64 d _ _ | .andn64 d _ _ | .orn64 d _ _
  | .xnor64 d _ _ | .shl64 d _ _ | .shr64 d _ _ | .sra64 d _ _ | .rol64 d _ _ | .ror64 d _ _ | .min64 d _ _
  | .max64 d _ _ | .minn64 d _ _ | .mul64 d _ _ | .mulh64 d _ _ | .mulhn64 d _ _ | .div64 d _ _ | .divn64 d _ _
  | .rem64 d _ _ | .remn64 d _ _ | .maxn64 d _ _ | .mad64 _ d _ _ _ | .li64 d _ => run wb d 2
  | .packAdd _ _ d _ _ | .packSub _ _ d _ _ | .packMin _ _ d _ _ | .packMax _ _ d _ _ | .avg _ _ d _ _
  | .absd _ _ d _ _ | .packMul _ _ d _ _ | .packShl _ _ d _ _ => run wb d 1
  | .mad d _ _ _ | .madh d _ _ _ | .madhn d _ _ _ | .dp4 _ _ _ d _ _ _ | .dp2 _ _ _ d _ _ _ | .sad _ _ d _ _ _
  | .lut3 d _ _ _ _ | .fdot2 _ _ _ d _ _ _ | .bfx d _ _ _ | .bfxn d _ _ _ | .bfi d _ _ _ _ | .bgath d _ _ _
  | .span _ d _ _ _ => run wb d 1
  | .addi d _ _ | .addiImm32 d _ _ | .andi d _ _ | .andiImm32 d _ _ | .ori d _ _ | .oriImm32 d _ _ | .xori d _ _
  | .xoriImm32 d _ _ | .shli d _ _ | .shri d _ _ | .srai d _ _ | .muli d _ _ | .muliImm32 d _ _ | .addl d _ _
  | .fabs d _ | .fneg d _ | .fexp2 _ d _ | .flog2 _ d _ | .fsin _ d _ | .fcos _ d _ | .ftanh _ d _
  | .fsigm _ d _ | .li d _ | .liImm32 d _ | .liu d _ | .fclass _ d _ | .fgetx _ d _ | .cvtp _ _ _ d _ _ _ _ => run wb d 1
  | .faddFp1 ty _ _ d _ _ | .fsubFp1 ty _ _ d _ _ | .fmulFp1 ty _ _ d _ _ | .ffma ty _ _ d _ _ _
  | .ffms ty _ _ d _ _ _ | .fnma ty _ _ d _ _ _ | .fnms ty _ _ d _ _ _ | .frnd ty _ d _ => runD wb (f1Dbl ty) d
  | .fdiv dbl _ _ d _ _ | .fsqrt dbl _ d _ | .frcp dbl d _ | .frsq dbl d _ | .fscale dbl _ _ d _ _
  | .lgetIdx dbl d _ _ _ | .lgetRot dbl d _ _ _ | .lgetXor dbl d _ _ _ | .lgetShift dbl d _ _ _ => runD wb dbl d
  | .cvt dt _ _ _ d _ | .cvte dt _ _ _ d _ _ => runD wb (tyDbl dt) d
  | .census m d _ _ => runD wb (decide (m = .mask)) d
  | .red op d _ _ | .scan op _ d _ _ => runD wb (RedOp.dbl op) d
  | .peers _ d _ _ => run wb d 2
  | .rcpst d _ => run wb d 1
  | .ld sz _ sr _ _ _ | .lds sz sr _ _ _ _ => run wb sr (regCount (ldBytes sz))
  | .atom _ _ dbl _ _ _ _ sr _ => if sr = 0 then [] else runD wb dbl sr
  | .atoms op _ _ _ sr _ => if sr = 0 then [] else runD wb (atomsOp op).2 sr
  | .ldf _ sr _ _ _ => run wb sr 64
  | .capq f d _ => runD wb (decide (f = .base) || decide (f = .extent)) d
  | .trd ty _ _ d _ => run wb d (rowRegs ty)
  | .tstat _ d _ | .cpy d _ | .cpyr d _ | .cred d _ | .seqrd d _ | .qstat d _ => run wb d 1
  | .tqry k d _ => runD wb (decide (k = .tile)) d
  | .spawn d _ _ _ => run wb d 2
  | _ => []

/-- Registers that an instruction names without reading or writing them (MATZ, RCPST: R167, R168). -/
def instrNames (wb : Nat) : Instr → List Nat
  | .matz d => run wb d 1
  | .rcpst _ a => run wb a 1
  | .slice d _ => run wb d 1
  | _ => []

/-! ## Predicates (R37, R139) -/

def predReads : Instr → List Nat
  | .br g _ | .jr g _ _ | .st g _ _ _ _ _ _ | .atom g _ _ _ _ _ _ _ _ => [g.q]
  | .cmp _ ct _ q1 q2 _ _ | .fcmp _ ct _ q1 q2 _ _ => (match ct with
      | .set | .one => []
      | .nest => [q2]
      | _ => [q1, q2])
  | .plog _ qa qb _ => [qa, qb]
  | .sel p _ _ _ => [p]
  | .gres _ _ p _ => [p]
  | _ => []

def predWrites : Instr → List Nat
  | .cmp _ _ _ q1 q2 _ _ | .fcmp _ _ _ q1 q2 _ _ => [q1, q2]
  | .plog qd _ _ _ => [qd]
  | _ => []

/-! ## Capability registers, tiles, slots -/

def capNames : Instr → List Nat
  | .ld _ _ _ k _ _ | .st _ _ _ k _ _ _ | .atom _ _ _ _ k _ _ _ _ | .ldf _ _ k _ _ | .stf _ k _ _ _
  | .cmaint _ _ k _ _ | .pref _ k _ => [k]
  | .capld x _ | .capdrop x => [x]
  | .capnar x y _ _ _ | .capswz x y _ => [x, y]
  | .capq _ _ y => [y]
  | .spawn _ k x _ => [k, x]
  | _ => []

/-- Keys of tiles and slots under which R302 keeps what an instruction names: 512 + m and 600 + n. -/
def tileNames : Instr → List Nat
  | .lds _ _ m _ _ _ | .sts _ m _ _ _ _ | .atoms _ m _ _ _ _ | .tsetFill m _ _ | .tsetReady m | .tsetEmpty m
  | .twait m => [512 + m]
  | .tqry .tile _ m => [512 + m]
  | .tqry .slot _ n => [600 + n]
  | .gslot n | .gres _ n _ _ => [600 + n]
  | _ => []

/-- What TSET, GSLOT and GRES change at the end of their issue cycle. -/
def tileChanges : Instr → List Nat
  | .tsetFill m _ _ | .tsetReady m | .tsetEmpty m => [512 + m]
  | .gslot n | .gres _ n _ _ => [600 + n]
  | _ => []

/-- The count that an instruction joins when it issues. -/
def countOf : Instr → Option CountClass
  | .ld _ _ _ _ _ _ | .ldf _ _ _ _ _ | .lds _ _ _ _ _ _ => some .nl
  | .st _ _ _ _ _ _ _ | .stf _ _ _ _ _ | .sts _ _ _ _ _ _ => some .ns
  | .atom _ _ _ _ _ _ _ sr _ | .atoms _ _ _ _ sr _ => some (if sr = 0 then .ns else .nl)
  | .cpy _ _ | .cpyr _ _ | .cred _ _ => some .nc
  | .wld _ _ _ | .wlds _ _ | .tmm _ | .tzero _ | .trd _ _ _ _ _ | .twr _ _ _ | .tepi _ | .cbld _ _ => some .nt
  | _ => none

/-- Bundles from the seed's group alone (R62). -/
def groupSeeded : Instr → Bool
  | .rjarm _ | .rjwait _ | .rjdrop _ _ | .rjrd _ _ | .lgetIdx _ _ _ _ _ | .lgetRot _ _ _ _ _ | .lgetShift _ _ _ _ _
  | .lgetXor _ _ _ _ _ | .census _ _ _ _ | .red _ _ _ _ | .scan _ _ _ _ _ | .peers _ _ _ _ | .slice _ _ | .matz _
  | .rcpst _ _ | .rcppol _ | .tbar _ _ => true
  | _ => false

/-- The rejoin mask of a cross-lane instruction (R62). -/
def xlaneMask : Instr → Option Nat
  | .lgetIdx _ _ _ _ j | .lgetRot _ _ _ _ j | .lgetShift _ _ _ _ j | .lgetXor _ _ _ _ j | .census _ _ _ j
  | .red _ _ _ j | .scan _ _ _ _ j | .peers _ _ _ j => some j
  | _ => none

/-- Instructions that issue an engine command (ISS in the matrices of R83; SPAWN is one, R234). -/
def isIssue : Instr → Bool
  | .cpy _ _ | .cpyr _ _ | .cred _ _ | .wld _ _ _ | .wlds _ _ | .tmm _ | .tzero _ | .trd _ _ _ _ _ | .twr _ _ _
  | .tepi _ | .tfuse _ | .cbld _ _ | .tstat _ _ _ | .spawn _ _ _ _ => true
  | _ => false

end Sys2Proof.Machine
end

