-- ==== Sys2Proof/Machine/Timing.lean ====
section
/-! DEFINITION. Issue cycles, use of the special-function unit and latencies (R94, R119, R139, R162, R197, R277, R302,
R358), and the engine class of an instruction (R233). -/

namespace Sys2Proof.Machine
open Host

/-- What an instruction costs: cycles of the issue slot, of the special-function unit, and until its result. -/
structure Timing where
  slot : Nat
  sf : Nat
  lat : Nat
deriving DecidableEq, Repr

def tm (slot sf lat : Nat) : Timing := { slot := slot, sf := sf, lat := lat }

def int3Time (e : EWidth) : Timing := if EWidth.dbl e then tm 2 0 6 else tm 1 0 4
def fltTime (dbl : Bool) : Timing := if dbl then tm 4 0 8 else tm 1 0 4

/-- The tables, by instruction. Results that arrive by an event of their own have latency 0 here. -/
def timing : Instr → Timing
  | .mul _ _ _ | .mulh _ _ _ | .mulhn _ _ _ | .muli _ _ _ | .muliImm32 _ _ _ | .mad _ _ _ _ | .madh _ _ _ _
  | .madhn _ _ _ _ | .dp4 _ _ _ _ _ _ _ | .dp2 _ _ _ _ _ _ _ | .sad _ _ _ _ _ _ | .packMul _ _ _ _ _ => tm 1 0 6
  | .add64 _ _ _ | .sub64 _ _ _ | .and64 _ _ _ | .or64 _ _ _ | .xor64 _ _ _ | .andn64 _ _ _ | .orn64 _ _ _
  | .xnor64 _ _ _ | .shl64 _ _ _ | .shr64 _ _ _ | .sra64 _ _ _ | .rol64 _ _ _ | .ror64 _ _ _ | .min64 _ _ _
  | .max64 _ _ _ | .minn64 _ _ _ | .maxn64 _ _ _ | .mad64 _ _ _ _ _ | .li64 _ _ => tm 2 0 6
  | .clz e _ _ | .ctz e _ _ | .ffs e _ _ | .popc e _ _ | .brev e _ _ | .abs e _ _ | .sext e _ _ | .zext e _ _ => int3Time e
  | .mul64 _ _ _ | .mulh64 _ _ _ | .mulhn64 _ _ _ => tm 4 0 10
  | .div _ _ _ | .divn _ _ _ | .rem _ _ _ | .remn _ _ _ => tm 8 0 24
  | .div64 _ _ _ | .divn64 _ _ _ | .rem64 _ _ _ | .remn64 _ _ _ => tm 16 0 48
  | .faddFp1 ty _ _ _ _ _ | .fsubFp1 ty _ _ _ _ _ | .fmulFp1 ty _ _ _ _ _ | .ffma ty _ _ _ _ _ _ | .ffms ty _ _ _ _ _ _
  | .fnma ty _ _ _ _ _ _ | .fnms ty _ _ _ _ _ _ | .frnd ty _ _ _ => fltTime (f1Dbl ty)
  | .fscale dbl _ _ _ _ _ | .fclass dbl _ _ | .fgetx dbl _ _ => fltTime dbl
  | .cvt dt st _ _ _ _ => fltTime (decide (dt = .f64) || decide (st = .f64))
  | .cvte dt _ _ _ _ _ _ => fltTime (decide (dt = .f64))
  | .frcp dbl _ _ | .frsq dbl _ _ => if dbl then tm 1 8 32 else tm 1 2 12
  | .fexp2 _ _ _ | .flog2 _ _ _ | .fsin _ _ _ | .fcos _ _ _ | .ftanh _ _ _ | .fsigm _ _ _ => tm 1 2 12
  | .fdiv dbl _ _ _ _ _ | .fsqrt dbl _ _ _ => if dbl then tm 1 16 48 else tm 1 4 20
  | .lgetIdx _ _ _ _ _ | .lgetRot _ _ _ _ _ | .lgetShift _ _ _ _ _ | .lgetXor _ _ _ _ _ | .census _ _ _ _
  | .peers _ _ _ _ => tm 2 0 8
  | .red _ _ _ _ | .scan _ _ _ _ _ => tm 4 0 96
  | .cmp _ _ ty _ _ _ _ => if IntTy.dbl ty then tm 2 0 6 else tm 1 0 4
  | .fcmp _ _ ty _ _ _ _ => if FltTy.dbl ty then tm 2 0 6 else tm 1 0 4
  | .ldf _ _ _ _ _ | .stf _ _ _ _ _ => tm 16 0 0
  | .ld _ _ _ _ _ _ | .st _ _ _ _ _ _ _ | .atom _ _ _ _ _ _ _ _ _ | .lds _ _ _ _ _ _ | .sts _ _ _ _ _ _
  | .atoms _ _ _ _ _ _ | .trd _ _ _ _ _ | .tstat _ _ _ | .cpy _ _ | .cpyr _ _ | .cred _ _ | .spawn _ _ _ _ => tm 1 0 0
  | _ => tm 1 0 4

/-- Cycles after its issue before the thread's next instruction may issue, beyond the slot (R139, R235, R358). -/
def holdAfter : Instr → Nat
  | .br _ _ | .jal _ _ | .jr _ _ _ => 6
  | .slice _ _ | .rcppol _ | .matz _ | .prio _ => 4
  | _ => 0

/-- The engine classes of R233: vector 0, special-function 1, load-store 2, matrix 3, copy 4; by word 0. -/
def engineClass (w0 : Nat) : Nat :=
  let m := fMaj w0
  if m = 0x22 ∨ (m = 0x23 ∧ fFn w0 < 2) then 1
  else if m = 0x01 ∨ (0x27 ≤ m ∧ m ≤ 0x2E) then 2
  else if m = 0x30 ∨ m = 0x31 then 3
  else if m = 0x32 then 4
  else 0

end Sys2Proof.Machine
end

