-- ==== Sys2Proof/Machine/XLane.lean ====
section
/-! DEFINITION. Cross-lane instructions (R132 to R136). -/

namespace Sys2Proof.Machine
open Host

/-- The participating mask of a thread: the named mask and j0, or the thread alone when it is not in them (R133). -/
def State.partMask (s : State) (j : Nat) (t : ThreadId) : Nat :=
  let m := ((s.group? t.gid).map fun g => Nat.land (g.mask j) (g.mask 0)).getD 0
  if mbit m t.tid then m else 2 ^ t.tid

def State.widthOf (s : State) (t : ThreadId) : Nat := ((s.group? t.gid).map Group.width).getD 8

/-- The participants in ascending TID. -/
def State.participants (s : State) (j : Nat) (t : ThreadId) : List Thread :=
  (List.range (s.widthOf t)).filterMap fun u =>
    if mbit (s.partMask j t) u then s.thread? { t with tid := u } else none

/-- An XLANE effect: `f` sees the participants, the thread as it stands and writes its destination (R35). -/
def State.xlane (j : Nat) (f : List Thread → Nat → Thread → Thread) (s : State) : State :=
  s.lanesOk fun t => f (s.participants j t.id) (s.widthOf t.id) t

/-! ## LGET (R134) -/

/-- The value that the thread takes from lane `src`, itself when that lane is no participant. -/
def takeFrom (dbl : Bool) (d a : Nat) (ps : List Thread) (src : Nat) (t : Thread) : Thread :=
  let v := match ps.find? fun u => decide (u.id.tid = src) with
    | some u => u.srcN dbl a
    | none => t.srcN dbl a
  t.dstN dbl d v

def laneSelN (b : LaneSel) (t : Thread) : Nat :=
  match b with
  | .reg r => (t.src r).toNat
  | .imm n => n

def shiftSelI (b : ShiftSel) (t : Thread) : Int :=
  match b with
  | .reg r => (t.src r).toInt
  | .imm n => n

def lgetIdx (dbl : Bool) (d a : Nat) (b : LaneSel) (ps : List Thread) (w : Nat) (t : Thread) : Thread :=
  takeFrom dbl d a ps (laneSelN b t % w) t
def lgetRot (dbl : Bool) (d a : Nat) (b : LaneSel) (ps : List Thread) (w : Nat) (t : Thread) : Thread :=
  takeFrom dbl d a ps (((t.id.tid : Int) - laneSelN b t) % w).toNat t
def lgetXor (dbl : Bool) (d a : Nat) (b : LaneSel) (ps : List Thread) (w : Nat) (t : Thread) : Thread :=
  takeFrom dbl d a ps (Nat.xor t.id.tid (laneSelN b t) % w) t
def lgetShift (dbl : Bool) (d a : Nat) (b : ShiftSel) (ps : List Thread) (w : Nat) (t : Thread) : Thread :=
  let x := (t.id.tid : Int) - shiftSelI b t
  if x < 0 ∨ (w : Int) ≤ x then t.dstN dbl d 0 else takeFrom dbl d a ps x.toNat t

/-! ## CENSUS and PEERS (R135) -/

def census (m : CensusMode) (d a : Nat) (ps : List Thread) (_ : Nat) (t : Thread) : Thread :=
  let hold := (ps.filter fun u => decide (u.src a ≠ 0)).map fun u => u.id.tid
  let wr (n : Nat) : Thread := t.dst d (BitVec.ofNat 32 n)
  match m with
  | .all => wr (if hold.length = ps.length then 1 else 0)
  | .any => wr (if hold.isEmpty then 0 else 1)
  | .same => wr (if ps.all fun u => decide (u.src a = t.src a) then 1 else 0)
  | .mask => t.dstPair d (BitVec.ofNat 64 (maskOf hold))
  | .count => wr hold.length
  | .first => wr (hold.headD 0xFFFFFFFF)
  | .rank => wr (hold.filter fun u => decide (u < t.id.tid)).length

def peers (dbl : Bool) (d a : Nat) (ps : List Thread) (_ : Nat) (t : Thread) : Thread :=
  t.dstPair d (BitVec.ofNat 64
    (maskOf ((ps.filter fun u => decide (u.srcN dbl a = t.srcN dbl a)).map fun u => u.id.tid)))

/-! ## RED and SCAN (R136) -/

def RedTy.bits : RedTy → Nat
  | .s32 | .n32 => 32
  | .s64 | .n64 => 64
def RedTy.signed : RedTy → Bool
  | .s32 | .s64 => true
  | _ => false
def RedOp.is64 : RedOp → Bool
  | .int _ ty => decide (RedTy.bits ty = 64)
  | .fadd dbl _ => dbl
  | .fmax dbl => dbl

/-- One combination on the operands' bits: the result and its flags. -/
def redApp (op : RedOp) (x y : Nat) : Nat × Nat :=
  match op with
  | .int o ty =>
    let w := RedTy.bits ty
    let le := if RedTy.signed ty then decide (sInt w x ≤ sInt w y) else decide (x ≤ y)
    (match o with
      | .add => (x + y) % 2 ^ w
      | .min => if le then x else y
      | .max => if le then y else x
      | .and => Nat.land x y
      | .or => Nat.lor x y
      | .xor => Nat.xor x y, 0)
  | .fadd dbl rm =>
    let F := if dbl then Fmt.f64 else Fmt.f32
    F.add (elemMode rm 0).1 false (F.dec x) (F.dec y)
  | .fmax dbl => (if dbl then Fmt.f64 else Fmt.f32).minmax true x y

/-- The identities of R136. -/
def redIdent (op : RedOp) : Nat :=
  match op with
  | .int o ty =>
    let w := RedTy.bits ty
    match o with
    | .add | .or | .xor => 0
    | .and => ones w
    | .min => if RedTy.signed ty then ones (w - 1) else ones w
    | .max => if RedTy.signed ty then 2 ^ (w - 1) else 0
  | .fadd _ _ => 0
  | .fmax dbl => if dbl then 0xFFF0000000000000 else 0xFF800000

/-- One level of the tree: positions 2i and 2i + 1 combine into i; an absent position passes the other through. -/
def treeLevel (op : RedOp) : List (Option Nat) → List (Option Nat) × Nat
  | [] => ([], 0)
  | [x] => ([x], 0)
  | x :: y :: r =>
    let t := treeLevel op r
    match x, y with
    | some a, some b => let v := redApp op a b; (some v.1 :: t.1, forr v.2 t.2)
    | some a, none => (some a :: t.1, t.2)
    | none, z => (z :: t.1, t.2)

/-- The fixed binary tree over the positions (R136, R313): the value and the flags of every combination. -/
def treeRed (op : RedOp) : Nat → List (Option Nat) → Option Nat × Nat
  | 0, l => (l.headD none, 0)
  | n + 1, l =>
    if l.length ≤ 1 then (l.headD none, 0)
    else
      let t := treeLevel op l
      let r := treeRed op n t.1
      (r.1, forr t.2 r.2)

/-- The values of the participants by TID position. -/
def positions (dbl : Bool) (a : Nat) (ps : List Thread) (w : Nat) : List (Option Nat) :=
  (List.range w).map fun u => (ps.find? fun x => decide (x.id.tid = u)).map fun x => x.srcN dbl a

def red (op : RedOp) (d a : Nat) (ps : List Thread) (w : Nat) (t : Thread) : Thread :=
  let r := treeRed op 7 (positions (RedOp.is64 op) a ps w)
  (t.dstN (RedOp.is64 op) d (r.1.getD 0)).raiseFlags r.2

/-- The combination of values in order, from the first on. -/
def foldRed (op : RedOp) : List Nat → Option Nat × Nat
  | [] => (none, 0)
  | x :: r => r.foldl (fun (acc : Option Nat × Nat) y =>
      let v := redApp op (acc.1.getD 0) y; (some v.1, forr acc.2 v.2)) (some x, 0)

def scan (op : RedOp) (excl : Bool) (d a : Nat) (ps : List Thread) (_ : Nat) (t : Thread) : Thread :=
  let vs := (ps.filter fun u => if excl then decide (u.id.tid < t.id.tid) else decide (u.id.tid ≤ t.id.tid)).map
    fun u => u.srcN (RedOp.is64 op) a
  let r := foldRed op vs
  (t.dstN (RedOp.is64 op) d (r.1.getD (redIdent op))).raiseFlags r.2

/-! ## The meanings -/

/-- LGET.idx (R134). -/
def execLgetIdx (dbl : Bool) (d a : Nat) (b : LaneSel) (j : Nat) (s : State) : Out :=
  .next (s.xlane j (lgetIdx dbl d a b))
/-- LGET.rot (R134). -/
def execLgetRot (dbl : Bool) (d a : Nat) (b : LaneSel) (j : Nat) (s : State) : Out :=
  .next (s.xlane j (lgetRot dbl d a b))
/-- LGET.shift (R134). -/
def execLgetShift (dbl : Bool) (d a : Nat) (b : ShiftSel) (j : Nat) (s : State) : Out :=
  .next (s.xlane j (lgetShift dbl d a b))
/-- LGET.xor (R134). -/
def execLgetXor (dbl : Bool) (d a : Nat) (b : LaneSel) (j : Nat) (s : State) : Out :=
  .next (s.xlane j (lgetXor dbl d a b))
/-- CENSUS (R135). -/
def execCensus (m : CensusMode) (d a j : Nat) (s : State) : Out := .next (s.xlane j (census m d a))
/-- RED (R136). -/
def execRed (op : RedOp) (d a j : Nat) (s : State) : Out := .next (s.xlane j (red op d a))
/-- SCAN (R136). -/
def execScan (op : RedOp) (excl : Bool) (d a j : Nat) (s : State) : Out := .next (s.xlane j (scan op excl d a))
/-- PEERS (R135). -/
def execPeers (dbl : Bool) (d a j : Nat) (s : State) : Out := .next (s.xlane j (peers dbl d a))

end Sys2Proof.Machine
end

