-- ==== Sys2Proof/Machine/Recipe.lean ====
section
/-! DEFINITION. Registers that hold recipes (R154 to R170): rows and the reserve, slices, the recipe store,
regeneration, materialisation, and the instructions of major 0x26. -/

namespace Sys2Proof.Machine
open Host

/-! ## Rows (R20, R59, R159, R165). Groups on disjoint lanes share rows: the rows in use over some lanes are those of
the fullest lane (log entry 13). -/

def Group.qid (g : Group) : QuadId := { die := g.core.die, core := g.core.core, quad := g.quad }
def State.groupThreads (s : State) (g : GroupId) : List Thread := s.threads.filter fun t => decide (t.id.gid = g)

/-- Group g holds rows (R229). -/
def Group.holdsRows (g : Group) : Bool := decide (g.act = .active) || decide (g.act = .held)

/-- A live thread of the group holds register r as a value. -/
def State.holdsValue (s : State) (g : GroupId) (r : Nat) : Bool := (s.groupThreads g).any fun t => !(t.isRecipe r)

/-- Register numbers that the group holds as values. -/
def State.valueRegs (s : State) (g : Group) : Nat :=
  let ts := s.groupThreads g.id
  ((List.range (((s.grid? g.id.grid).map fun x => x.desc.regs).getD 0)).filter fun r => ts.any fun t => !(t.isRecipe r)).length

/-- The rows that a group holds: its values and its reserve. -/
def State.groupRows (s : State) (g : Group) : Nat := s.valueRegs g + g.reserve

/-- The rows that no other group may take: those that a cooperative group's conversions freed stay its own (R165). -/
def State.ownRows (s : State) (g : Group) : Nat :=
  match s.grid? g.id.grid with
  | some x => if x.coop then x.desc.regs + 8 else s.groupRows g
  | none => s.groupRows g

/-- The lanes over which a group holds its rows, as ranges: those it was placed on, and those to which threads of it have
moved (R64). -/
def State.groupLanes (s : State) (g : Group) : List (Nat × Nat) :=
  (g.laneBase, g.laneBase + g.width) :: ((s.groupThreads g.id).filter fun t =>
    decide (t.lane < g.laneBase) || decide (g.laneBase + g.width ≤ t.lane)).map fun t => (t.lane, t.lane + 1)

/-- Rows over lanes b to b + w - 1, those of the fullest lane, counted by `cnt` for the groups of a quadrant that a test
accepts. -/
def State.usedRows (s : State) (cnt : Group → Nat) (q : QuadId) (want : Group → Bool) (b w : Nat) : Nat :=
  let l := (s.groups.filter fun g => decide (Group.qid g = q) && want g).flatMap fun g =>
    (s.groupLanes g).map fun r => (r.1, r.2, cnt g)
  ((List.range w).map fun i => ((l.filter fun x => decide (x.1 ≤ b + i) && decide (b + i < x.2.1)).map fun x => x.2.2).foldl
    (· + ·) 0).foldl Nat.max 0

/-- The pressure of a quadrant (R159). -/
def State.pressure (s : State) (q : QuadId) : Nat := s.usedRows s.groupRows q Group.holdsRows 0 64

/-- The half of the register file of a grid (R222 FAST). -/
def State.halfOf (s : State) (g : Nat) : Option Nat := (s.grid? g).bind fun x => if x.fast then some x.half else none

/-- Rows with free columns over some lanes, for a group of a grid (R227, R230). -/
def State.freeRows (s : State) (q : QuadId) (grid b w : Nat) : Nat :=
  let all := 2048 - s.usedRows s.ownRows q Group.holdsRows b w
  match s.halfOf grid with
  | none => all
  | some h => Nat.min all (1024 - s.usedRows s.ownRows q (fun g => Group.holdsRows g && decide (s.halfOf g.id.grid = some h)) b w)

/-- The reserve is refilled to 8 from the free rows, or from the group's own where it is cooperative (R165). -/
def State.refill (gid : GroupId) (s : State) : State :=
  match s.group? gid with
  | none => s
  | some g => s.modGroup gid fun x =>
      { x with reserve := Nat.min 8 (x.reserve + s.freeRows (Group.qid g) gid.grid g.laneBase g.width +
          (s.ownRows g - s.groupRows g)) }

/-- Rows that a group's refill still lacks: its reserve is below 8, or a thread of it waits for more (R165). -/
def State.refillLack (s : State) (g : Group) : Nat :=
  if ¬ Group.holdsRows g then 0
  else (8 - g.reserve) + ((s.groupThreads g.id).map fun t => match t.wait with
    | .refill n => n
    | _ => 0).foldl Nat.max 0

/-- A refill in a quadrant is under way: it comes before every other allocation of rows (R165). -/
def State.refilling (s : State) (q : QuadId) : Bool :=
  s.groups.any fun g => decide (Group.qid g = q) && decide (s.refillLack g ≠ 0)

/-- A refill in some quadrant of a partition is under way. -/
def State.partRefilling (s : State) (p : Nat) : Bool := (s.part p).quads.any s.refilling

/-! ## Members of slices (R157) -/

/-- The lane function of an instruction that may be a member, LD apart. -/
def memberOp : Instr → Option (Thread → Thread)
  | .add d a b => some (bin32 aAdd d a b)
  | .sub d a b => some (bin32 aSub d a b)
  | .and d a b => some (bin32 aAnd d a b)
  | .or d a b => some (bin32 aOr d a b)
  | .xor d a b => some (bin32 aXor d a b)
  | .andn d a b => some (bin32 aAndn d a b)
  | .orn d a b => some (bin32 aOrn d a b)
  | .xnor d a b => some (bin32 aXnor d a b)
  | .shl d a b => some (bin32 aShl d a b)
  | .shr d a b => some (bin32 aShr d a b)
  | .sra d a b => some (bin32 aSra d a b)
  | .rol d a b => some (bin32 aRol d a b)
  | .ror d a b => some (bin32 aRor d a b)
  | .min d a b => some (bin32 aMin d a b)
  | .max d a b => some (bin32 aMax d a b)
  | .minn d a b => some (bin32 aMinn d a b)
  | .mul d a b => some (bin32 aMul d a b)
  | .mulh d a b => some (bin32 aMulh d a b)
  | .mulhn d a b => some (bin32 aMulhn d a b)
  | .div d a b => some (bin32 aDiv d a b)
  | .divn d a b => some (bin32 aDivn d a b)
  | .rem d a b => some (bin32 aRem d a b)
  | .remn d a b => some (bin32 aRemn d a b)
  | .maxn d a b => some (bin32 aMaxn d a b)
  | .add64 d a b => some (bin64 aAdd d a b)
  | .sub64 d a b => some (bin64 aSub d a b)
  | .and64 d a b => some (bin64 aAnd d a b)
  | .or64 d a b => some (bin64 aOr d a b)
  | .xor64 d a b => some (bin64 aXor d a b)
  | .andn64 d a b => some (bin64 aAndn d a b)
  | .orn64 d a b => some (bin64 aOrn d a b)
  | .xnor64 d a b => some (bin64 aXnor d a b)
  | .shl64 d a b => some (bin64 aShl d a b)
  | .shr64 d a b => some (bin64 aShr d a b)
  | .sra64 d a b => some (bin64 aSra d a b)
  | .rol64 d a b => some (bin64 aRol d a b)
  | .ror64 d a b => some (bin64 aRor d a b)
  | .min64 d a b => some (bin64 aMin d a b)
  | .max64 d a b => some (bin64 aMax d a b)
  | .minn64 d a b => some (bin64 aMinn d a b)
  | .mul64 d a b => some (bin64 aMul d a b)
  | .mulh64 d a b => some (bin64 aMulh d a b)
  | .mulhn64 d a b => some (bin64 aMulhn d a b)
  | .div64 d a b => some (bin64 aDiv d a b)
  | .divn64 d a b => some (bin64 aDivn d a b)
  | .rem64 d a b => some (bin64 aRem d a b)
  | .remn64 d a b => some (bin64 aRemn d a b)
  | .maxn64 d a b => some (bin64 aMaxn d a b)
  | .clz e d a => some (int3 nClz e d a)
  | .ctz e d a => some (int3 nCtz e d a)
  | .ffs e d a => some (int3 nFfs e d a)
  | .popc e d a => some (int3 nPopc e d a)
  | .brev e d a => some (int3 nBrev e d a)
  | .abs e d a => some (int3 nAbs e d a)
  | .sext e d a => some (laneSext e d a)
  | .zext e d a => some (laneZext e d a)
  | .packAdd ty sat d a b => some (pack (fun x y _ => x + y) ty sat d a b)
  | .packSub ty sat d a b => some (pack (fun x y _ => x - y) ty sat d a b)
  | .packMin ty sat d a b => some (pack (fun x y _ => Min.min x y) ty sat d a b)
  | .packMax ty sat d a b => some (pack (fun x y _ => Max.max x y) ty sat d a b)
  | .avg ty sat d a b => some (pack (fun x y _ => (x + y + 1) / 2) ty sat d a b)
  | .absd ty sat d a b => some (pack (fun x y _ => ((x - y).natAbs : Int)) ty sat d a b)
  | .packMul ty sat d a b => some (pack (fun x y _ => x * y) ty sat d a b)
  | .packShl ty sat d a b => some (pack (fun x _ k => x * 2 ^ k) ty sat d a b)
  | .mad d a b c => some (laneMad d a b c)
  | .madh d a b c => some (laneMadh d a b c)
  | .madhn d a b c => some (laneMadhn d a b c)
  | .mad64 sg d a b c => some (laneMad64 sg d a b c)
  | .dp4 sg bs sat d a b c => some (laneDot 8 sg bs sat d a b c)
  | .dp2 sg bs sat d a b c => some (laneDot 16 sg bs sat d a b c)
  | .sad ty sat d a b c => some (laneSad ty sat d a b c)
  | .bfx d a pos len => some (laneBfx d a pos len)
  | .bfxn d a pos len => some (laneBfxn d a pos len)
  | .bfi d a b pos len => some (laneBfi d a b pos len)
  | .bgath d a b sel => some (laneBgath d a b sel)
  | .span rot d a b n => some (laneSpan rot d a b n)
  | .lut3 d a b c tt => some (laneLut3 d a b c tt)
  | .addi d a i => some (imm32 aAdd d a (BitVec.ofInt 32 i))
  | .addiImm32 d a v => some (imm32 aAdd d a (BitVec.ofNat 32 v))
  | .andi d a i => some (imm32 aAnd d a (BitVec.ofInt 32 i))
  | .andiImm32 d a v => some (imm32 aAnd d a (BitVec.ofNat 32 v))
  | .ori d a i => some (imm32 aOr d a (BitVec.ofInt 32 i))
  | .oriImm32 d a v => some (imm32 aOr d a (BitVec.ofNat 32 v))
  | .xori d a i => some (imm32 aXor d a (BitVec.ofInt 32 i))
  | .xoriImm32 d a v => some (imm32 aXor d a (BitVec.ofNat 32 v))
  | .muli d a i => some (imm32 aMul d a (BitVec.ofInt 32 i))
  | .muliImm32 d a v => some (imm32 aMul d a (BitVec.ofNat 32 v))
  | .shli d a n => some (imm32 aShl d a (BitVec.ofNat 32 n))
  | .shri d a n => some (imm32 aShr d a (BitVec.ofNat 32 n))
  | .srai d a n => some (imm32 aSra d a (BitVec.ofNat 32 n))
  | .li d i => some (laneLi d (BitVec.ofInt 32 i))
  | .liImm32 d v => some (laneLi d (BitVec.ofNat 32 v))
  | .li64 d v => some (laneLi64 d v)
  | .liu d v => some (laneLiu d v)
  | .addl d a i => some (laneAddl d a i)
  | .fadd d a b => some (fp2s Fmt.add .f32 .rne false d a b)
  | .fsub d a b => some (fp2s fSub .f32 .rne false d a b)
  | .fmul d a b => some (fp2s Fmt.mul .f32 .rne false d a b)
  | .fmin d a b => some (laneMinmax false d a b)
  | .fmax d a b => some (laneMinmax true d a b)
  | .fcpys d a b => some (bin32 fcpys d a b)
  | .fabs d a => some (laneFabs d a)
  | .fneg d a => some (laneFneg d a)
  | .faddFp1 ty rm sat d a b => some (fp2s Fmt.add ty rm sat d a b)
  | .fsubFp1 ty rm sat d a b => some (fp2s fSub ty rm sat d a b)
  | .fmulFp1 ty rm sat d a b => some (fp2s Fmt.mul ty rm sat d a b)
  | .ffma ty rm sat d a b c => some (fused false false ty rm sat d a b c)
  | .ffms ty rm sat d a b c => some (fused false true ty rm sat d a b c)
  | .fnma ty rm sat d a b c => some (fused true false ty rm sat d a b c)
  | .fnms ty rm sat d a b c => some (fused true true ty rm sat d a b c)
  | .fdot2 bf rm sat d a b c => some (laneFdot2 bf rm sat d a b c)
  | .fdiv dbl rm sat d a b => some (fp2s Fmt.div (F1Ty.ofDbl dbl) rm sat d a b)
  | .fsqrt dbl rm d a => some (laneFsqrt dbl rm d a)
  | .frcp dbl d a => some (laneApprox .rcp dbl d a)
  | .frsq dbl d a => some (laneApprox .rsq dbl d a)
  | .fexp2 ty d a => some (laneApprox2 .exp2 ty d a)
  | .flog2 ty d a => some (laneApprox2 .log2 ty d a)
  | .fsin ty d a => some (laneApprox2 .sin ty d a)
  | .fcos ty d a => some (laneApprox2 .cos ty d a)
  | .ftanh ty d a => some (laneApprox2 .tanh ty d a)
  | .fsigm ty d a => some (laneApprox2 .sigm ty d a)
  | .frnd ty rm d a => some (laneFrnd ty rm d a)
  | .fclass dbl d a => some (laneFclass dbl d a)
  | .fscale dbl rm sat d a b => some (laneFscale dbl rm sat d a b)
  | .fgetx dbl d a => some (laneFgetx dbl d a)
  | .cvt dt st rm sat d a => some (laneCvt dt st rm sat d a)
  | .cvtp dt rm sat d a b c h => some (laneCvtp dt rm sat d a b c h)
  | .cvte dt st rm sat d a i => some (laneCvte dt st rm sat d a i)
  | _ => none

/-- The instruction with its rounding mode changed. -/
def mapRm (f : Rm → Rm) : Instr → Instr
  | .faddFp1 ty rm sat d a b => .faddFp1 ty (f rm) sat d a b
  | .fsubFp1 ty rm sat d a b => .fsubFp1 ty (f rm) sat d a b
  | .fmulFp1 ty rm sat d a b => .fmulFp1 ty (f rm) sat d a b
  | .ffma ty rm sat d a b c => .ffma ty (f rm) sat d a b c
  | .ffms ty rm sat d a b c => .ffms ty (f rm) sat d a b c
  | .fnma ty rm sat d a b c => .fnma ty (f rm) sat d a b c
  | .fnms ty rm sat d a b c => .fnms ty (f rm) sat d a b c
  | .fdot2 bf rm sat d a b c => .fdot2 bf (f rm) sat d a b c
  | .fdiv dbl rm sat d a b => .fdiv dbl (f rm) sat d a b
  | .fsqrt dbl rm d a => .fsqrt dbl (f rm) d a
  | .frnd ty rm d a => .frnd ty (f rm) d a
  | .fscale dbl rm sat d a b => .fscale dbl (f rm) sat d a b
  | .cvt dt st rm sat d a => .cvt dt st (f rm) sat d a
  | .cvtp dt rm sat d a b c h => .cvtp dt (f rm) sat d a b c h
  | .cvte dt st rm sat d a i => .cvte dt st (f rm) sat d a i
  | i => i

/-- A member that rounds under STO. -/
def roundsSto (i : Instr) : Bool := decide (mapRm (fun r => if r = .sto then .rne else r) i ≠ i)

/-- The LD that may be a member: one register or one pair. -/
def memberLd : Instr → Option Nat
  | .ld sz _ _ k _ _ => if sz = .n128 then none else some k
  | _ => none

/-- The destination registers of a run. -/
def SliceRun.dests (r : SliceRun) : List Nat := if r.wide then [r.d, r.d + 1] else [r.d]

/-- The inputs once some registers have been read. -/
def addInputs (old new : List Nat) : List Nat := new.foldl (fun l x => if x = 0 ∨ x ∈ l then l else l ++ [x]) old

/-- The run after one more instruction of the thread (R157): `ok` falls when it may not be a member. -/
def State.track (s : State) (t : Thread) (i : Instr) (r : SliceRun) : SliceRun :=
  let ws := instrWrites t.wb i
  let rs := instrReads t.wb i
  let r1 := if r.members.isEmpty then { r with wide := decide (ws = [r.d, r.d + 1]) } else r
  let ins := addInputs r.inputs (rs.filter fun x => decide (x ∉ r1.dests))
  let i' := mapRm t.rm i
  let ld := memberLd i
  let cap := ld.bind fun k => s.capOf t.id.tmid k
  let ok := r.ok && (match ld with
        | some _ => r.cap.isNone && (match cap with | some c => cPermBit c capPST | none => false)
        | none => (memberOp i).isSome) &&
      !(roundsSto i') && decide (ws = r1.dests) && (r.written || rs.all fun x => decide (x ∉ r1.dests)) &&
      decide (ins.length ≤ 8)
  { r1 with left := r.left - 1, members := r.members ++ [i'], words := r.words ++ encode i, inputs := ins,
            written := true, cap := (match cap with | some c => some c | none => r.cap), ok := ok }

/-! ## The recipe store (R158) -/

def Group.entry? (g : Group) (n : Nat) : Option REntry := (g.recipes.find? fun e => decide (e.1 = n)).map Prod.snd
def REntry.dests (e : REntry) : List Nat := if e.wide then [e.d, e.d + 1] else [e.d]

/-- The same slice with the same registers, resolved modes and capability. -/
def REntry.same (e : REntry) (r : SliceRun) : Bool :=
  decide (e.addr = r.addr) && decide (e.d = r.d) && decide (e.wide = r.wide) && decide (e.members = r.members) &&
    decide (e.inputs = r.inputs) && decide (e.cap = r.cap)

/-- The entry that a completed slice joins: an equal one, or the lowest free one. -/
def Group.slotFor (g : Group) (r : SliceRun) : Option Nat :=
  match g.recipes.find? fun e => REntry.same e.2 r with
  | some e => some e.1
  | none => (List.range 256).find? fun n => (g.entry? n).isNone

/-- The group's store once a thread has joined entry n. -/
def Group.join (n : Nat) (t : Thread) (r : SliceRun) (g : Group) : Group :=
  let e : REntry := match g.entry? n with
    | some e => e
    | none => { addr := r.addr, d := r.d, wide := r.wide, members := r.members, words := r.words, inputs := r.inputs,
                cap := r.cap, wb := r.wb, joined := [] }
  let e' := { e with joined := (e.joined.filter fun j => decide (j.1 ≠ t.id.tid)) ++ [(t.id.tid, t.phaseno)] }
  { g with recipes := tins (tdel g.recipes n) n e' }

/-- The registers get a form. -/
def Thread.setForms (rs : List Nat) (f : RForm) (t : Thread) : Thread :=
  { t with forms := rs.foldl (fun m r => tput RForm.value m r f) t.forms }

/-- A thread whose slice has completed joins an entry; its destination is then Backed (R155, R158). -/
def State.joinSlice (tid : ThreadId) (s : State) : State :=
  match s.thread? tid, s.group? tid.gid with
  | some t, some g =>
    match t.slice with
    | none => s
    | some r =>
      if r.left ≠ 0 then s
      else
        let s0 := s.modThread tid fun x => { x with slice := none }
        if ¬ r.ok then s0
        else match g.slotFor r with
          | none => s0
          | some n => (s0.modGroup tid.gid (Group.join n t r)).modThread tid fun x =>
              x.setForms (SliceRun.dests r) { recipe := false, backed := true, entry := n }
  | _, _ => s

/-- The entries that a register of the group names. -/
def State.liveEntries (s : State) (g : GroupId) : List Nat :=
  ((s.groupThreads g).flatMap fun t => (t.forms.filter fun f => f.2.recipe || f.2.backed).map fun f => f.2.entry)

/-- Entries that no Backed or RECIPE register names are freed. -/
def State.freeEntries (s : State) : State :=
  { s with groups := s.groups.map fun g =>
      if g.recipes.isEmpty then g
      else { g with recipes := g.recipes.filter fun e => decide (e.1 ∈ s.liveEntries g.id) } }

/-! ## Regeneration (R161, R163) -/

/-- The entries of the RECIPE registers of a thread, each once. -/
def Thread.recipeEntries (g : Group) (t : Thread) : List REntry :=
  (((t.forms.filter fun f => f.2.recipe).map fun f => f.2.entry).eraseDups).filterMap g.entry?

/-- The pin count of a register (R154). -/
def Thread.pins (g : Group) (t : Thread) (x : Nat) : Nat := ((t.recipeEntries g).filter fun e => decide (x ∈ e.inputs)).length

/-- What a failing regeneration reports: the underlying cause, its reason and the address. -/
structure RegenFault where
  under : Nat
  reason : Nat
  addr : Nat
  /-- For cause 0x0C, the die. -/
  die : Option Nat := none
  /-- No fault yet: a load waits for these dies (R18). -/
  stalls : Option (List Nat) := none
deriving DecidableEq, Repr

/-- The registers that a load of some bytes writes, extended as its size says (R183). -/
def loadWords (sz : LdSize) (bs : List Byte) : List Word :=
  let v := leNat bs
  match sz with
  | .s8 => [BitVec.ofInt 32 (sInt 8 v)]
  | .s16 => [BitVec.ofInt 32 (sInt 16 v)]
  | .n8 | .n16 | .n32 => [BitVec.ofNat 32 v]
  | .n64 => (List.range 2).map fun i => BitVec.ofNat 32 (v / 2 ^ (32 * i))
  | .n128 => (List.range 4).map fun i => BitVec.ofNat 32 (v / 2 ^ (32 * i))

/-- The load of a recipe, whose instruction stands at `pc`: a PST load through the recorded capability in the thread's
current phase. Its registers, and the cycles to its completion. -/
def State.regenLoad (c : Cap) (sz : LdSize) (sr a : Nat) (disp : Int) (pc : Nat) (t p : Thread) (s : State) :
    State × Except RegenFault (Thread × Nat) :=
  if c.tenant ≠ s.tenantOf t.id ∨ ¬ cPermBit c capR then (s, .error { under := 0x04, reason := 0, addr := 0 })
  else
    match formAccess c (accOff p c a disp) (ldBytes sz) with
    | .misaligned va => (s, .error { under := 0x06, reason := 0, addr := va })
    | .outside va =>
      if cPermBit c capTOOB then (s, .error { under := 0x05, reason := 0, addr := va })
      else (s, .ok (p.setRegs (regNo p.wb sr) (List.replicate (regCount (ldBytes sz)) 0), 28))
    | .ok ps =>
      let va := (ps.head?.map Prod.fst).getD 0
      let r : State × Except (Nat × Nat) (List (Nat × Nat)) :=
        if Cap.remote c then (s, .ok (ps.map fun x => (remoteKey c.device x.1, x.2)))
        else s.translateAll t.qid (s.vfOf t.id) .rd ps
      match r.2 with
      | .error e => (r.1, .error { under := 0x03, reason := e.1, addr := e.2 })
      | .ok ks =>
        let keys := pieceBytes ks
        let dies := r.1.routeOf t (.load sz true) keys
        match r.1.gate dies with
        | .dead d => (r.1, .error { under := 0x0C, reason := 0, addr := va, die := some d })
        | .stall =>
          let late := (match t.stallAt with | some c => decide (c + 28000 ≤ s.clock.cycle) | none => false)
          (r.1, .error { under := 0x0C, reason := 0, addr := va, die := r.1.duskOn dies, stalls := if late then none else some dies })
        | .go =>
          if keys.any fun k => r.1.bytePoisoned t k then (r.1, .error { under := 0x0B, reason := 0, addr := va })
          else
            let n := r.1.loadDelay t keys
            let l1 := r.1.l1Access t.id.gid pc .none (s.clock.cycle + n) (wordsOf16 keys)
            let s1 := (l1.1.imageAll t keys).fillBlock t l1.2.fills
            let s2 := s1.observe t.id (s1.freshOf t keys)
            (s2, .ok (p.setRegs (regNo p.wb sr) (loadWords sz (keys.map fun k => s2.loadByte t true k)), n))

/-- A regeneration as it goes on: the private copy of the thread, the cycle at which its next member may take the slot,
at which the destination's value is there, and at which the load has completed. -/
structure RegenRun where
  p : Thread
  slot : Nat
  ready : Nat
  load : Nat
deriving DecidableEq, Repr

/-- One member takes the slot, once the value that it reads is there (R162). -/
def RegenRun.pass (r : RegenRun) (e : REntry) (i : Instr) (lat : Nat) (p : Thread) : RegenRun :=
  let at_ := if (instrReads e.wb i).any fun x => decide (x ∈ REntry.dests e) then Nat.max r.slot r.ready else r.slot
  { p := p, slot := at_ + (timing i).slot, ready := at_ + lat, load := r.load }

/-- Runs the members of an entry, the first of which stands at `pc`, in a private copy of the thread. -/
def State.regenMembers (e : REntry) (t : Thread) : List Instr → Nat → RegenRun → State → State × Except RegenFault RegenRun
  | [], _, r, s => (s, .ok r)
  | i :: l, pc, r, s =>
    let next := pc + 4 * (encode i).length
    match memberOp i with
    | some f => State.regenMembers e t l next (r.pass e i (timing i).lat (f r.p)) s
    | none =>
      match i, e.cap with
      | .ld sz _ sr _ a disp, some cap =>
        let v := s.regenLoad cap sz sr a disp pc t r.p
        match v.2 with
        | .error x => (v.1, .error x)
        | .ok x =>
          let r1 := r.pass e i x.2 x.1
          State.regenMembers e t l next { r1 with load := r1.ready } v.1
      | _, _ => (s, .ok r)

/-- Regenerates the value of an entry for a thread: the registers it writes and their values, and the cycles that this
takes (R162). Its inputs are read from the thread's registers, nothing else of the thread changes (R161). A poisoned input
fails it as poison that its load consumes would, with address 0, where it holds no load too (log entry 71). -/
def State.regenEntry (e : REntry) (t : Thread) (s : State) : State × Except RegenFault (List (Nat × Word) × Nat) :=
  if e.inputs.any fun x => decide (x ∈ t.poisoned) then (s, .error { under := 0x0B, reason := 0, addr := 0 })
  else
    let r := State.regenMembers e t e.members (e.addr + 4)
      { p := { t with wb := e.wb, regen := [], forms := [] }, slot := 0, ready := 0, load := 0 } s
    match r.2 with
    | .error f => (r.1, .error f)
    | .ok x => (r.1, .ok ((REntry.dests e).map fun d => (d, x.p.reg d), Nat.max x.ready x.load))

/-- Notes that the issue regenerates (0) or materialises (1) an entry: the bundle does so once for all its threads, in
the cycles of the slowest. -/
def State.noteWork (e : REntry) (kind n : Nat) (s : State) : State :=
  let old := (s.issue.work.find? fun w => decide (w.1 = e.addr ∧ w.2.1 = e.d ∧ w.2.2.1 = kind)).map fun w => w.2.2.2
  let rest := s.issue.work.filter fun w => !(decide (w.1 = e.addr ∧ w.2.1 = e.d ∧ w.2.2.1 = kind))
  { s with issue := { s.issue with work := rest ++ [(e.addr, e.d, kind, Nat.max n (old.getD 0))] } }

/-- The cycles for which the regenerations and materialisations of an issue hold the slot. -/
def State.workCycles (s : State) : Nat := (s.issue.work.map fun w => w.2.2.2).foldl (· + ·) 0

/-- What the record of a fault in regeneration says (R163, R342); `tid` is the TID of the thread whose
register faulted. -/
def regenInfo (e : REntry) (f : RegenFault) (tid : Nat) : RecInfo :=
  { cause := 0x0A, under := f.under, reason := f.reason, addr1 := f.addr, info := tid, aux0 := e.addr, die := f.die }

/-- The entries that some registers of a thread name as recipes. -/
def Thread.entriesOf (g : Group) (t : Thread) (rs : List Nat) : List REntry :=
  (((t.forms.filter fun f => f.2.recipe && decide (f.1 ∈ rs)).map fun f => f.2.entry).eraseDups).filterMap g.entry?

/-- Whether a thread of a bundle goes on with the instruction. -/
inductive Prep where
  | go
  | fault (i : RecInfo)
  | wait (w : Wait)
deriving DecidableEq, Repr

/-- What a failing regeneration leads to: a fault, or a wait for the dies of its load. -/
def RegenFault.prep (f : RegenFault) (e : REntry) (tid : Nat) : Prep :=
  match f.stalls with
  | some ds => .wait (.regen ds)
  | none => .fault (regenInfo e f tid)

/-- Regenerates every recipe among the registers that an instruction of the thread reads, for that read alone. -/
def State.regenReads (tid : ThreadId) (rs : List Nat) (s : State) : State × Prep :=
  match s.thread? tid, s.group? tid.gid with
  | some t, some g =>
    (t.entriesOf g (rs.filter fun x => decide (x ∉ t.regen.map Prod.fst))).foldl (fun (acc : State × Prep) e =>
      match acc.2 with
      | .go =>
        let r := acc.1.regenEntry e t
        match r.2 with
        | .error f => (r.1, f.prep e tid.tid)
        | .ok v => (((r.1.noteWork e 0 v.2).modThread tid fun x => { x with regen := x.regen ++ v.1 }).countEv 0x21
            (QuadId.idx t.qid) (REntry.dests e).length, .go)
      | _ => acc) (s, .go)
  | _, _ => (s, .go)

/-! ## Materialisation (R155, R164, R165) -/

/-- The thread's materialisation still runs: its cycles have not passed (R162). -/
def State.materialising (s : State) (t : Thread) : Bool :=
  decide (s.clock.cycle < t.nextAt) && decide (s.clock.cycle < (s.quad t.qid).regenUntil)

/-- The thread waits before an instruction: for its group's reserve, or for the dies of a recipe's load (R18, R165). -/
def Thread.holdFor (w : Wait) (now : Nat) (t : Thread) : Thread :=
  { t with wait := w, stallAt := match w with
      | .regen _ => some (t.stallAt.getD now)
      | _ => t.stallAt }

/-- Materialises one register of a thread, with the row that its group then needs; afterwards the reserve is refilled. -/
def State.materialise (tid : ThreadId) (e : REntry) (s : State) : State × Prep :=
  match s.thread? tid, s.group? tid.gid with
  | some t, some g =>
    let need := ((REntry.dests e).filter fun x => !(s.holdsValue g.id x)).length
    if g.reserve < 8 then (s, .wait (.refill 0))
    else
      let r := s.regenEntry e t
      match r.2 with
      | .error f => (r.1, f.prep e tid.tid)
      | .ok v =>
        (((((r.1.noteWork e 1 (v.2 + 2)).modThread tid fun x => v.1.foldl (fun y w => y.setReg w.1 w.2) x).modGroup g.id fun x =>
          { x with reserve := x.reserve - need }).countEv 0x22 (QuadId.idx t.qid) (REntry.dests e).length).refill g.id, .go)
  | _, _ => (s, .go)

/-- Materialises entries in order, while it can. -/
def State.materialiseAll (tid : ThreadId) : List REntry → State → State × Prep
  | [], s => (s, .go)
  | e :: r, s =>
    let v := s.materialise tid e
    match v.2 with
    | .go => State.materialiseAll tid r v.1
    | o => (v.1, o)

/-- A thread's registers, with the rows of its group, are again as they were: the lane has no effect (R163). -/
def State.undoMaterials (tid : ThreadId) (old s : State) : State :=
  match old.thread? tid, old.group? tid.gid with
  | some t, some g => (s.modThread tid fun x => { x with regs := t.regs, forms := t.forms, poisoned := t.poisoned, regen := [] }).modGroup
      g.id fun x => { x with reserve := g.reserve }
  | _, _ => s

/-- Entries in rising order of their registers. -/
def insEntry (e : REntry) : List REntry → List REntry
  | [] => [e]
  | x :: r => if e.d ≤ x.d then e :: x :: r else x :: insEntry e r
def byReg (l : List REntry) : List REntry := l.foldr insEntry []

/-- The recipes of a thread that a write of some registers materialises first: those that name one of them as an
input, and a pair of which only one register is written (R155). -/
def Thread.before (g : Group) (t : Thread) (ws : List Nat) : List REntry :=
  byReg ((t.recipeEntries g).filter fun e =>
    (e.inputs.any fun x => decide (x ∈ ws)) ||
      ((REntry.dests e).any (fun x => decide (x ∈ ws)) && !((REntry.dests e).all fun x => decide (x ∈ ws))))

/-- The recipes of a thread that hold a load (R166). -/
def Thread.loadRecipes (g : Group) (t : Thread) : List REntry := byReg ((t.recipeEntries g).filter fun e => e.cap.isSome)

/-- A write of some registers clears Backed of the values whose entry has one of them as an input, and of a pair that
is written in part. -/
def Thread.unback (g : Group) (ws : List Nat) (t : Thread) : Thread :=
  { t with forms := t.forms.filter (fun f => f.2.recipe || !(match g.entry? f.2.entry with
      | none => false
      | some e => (e.inputs.any fun x => decide (x ∈ ws)) || (REntry.dests e).any fun x => decide (x ∈ ws))) }

/-- Registers lose Backed, a pair as one (R167). -/
def Thread.clearBacked (g : Group) (rs : List Nat) (t : Thread) : Thread :=
  let es := (t.forms.filter fun f => decide (f.1 ∈ rs)).map fun f => f.2.entry
  { t with forms := t.forms.filter (fun f => f.2.recipe || !(decide (f.1 ∈ rs) || (decide (f.2.entry ∈ es) &&
      match g.entry? f.2.entry with
      | none => false
      | some e => (REntry.dests e).any fun x => decide (x ∈ rs)))) }

/-! ## The meanings (R156, R160, R167, R168) -/

/-- SLICE (R156): governs the next n instructions of each thread. -/
def execSlice (d n : Nat) (s : State) : Out :=
  .next (s.lanesOk fun t =>
    let r : SliceRun := { addr := s.issue.pc, num := s.issue.num, d := regNo t.wb d, wide := false, left := n, members := [], words := [],
                          inputs := [], written := false, cap := none, wb := t.wb, ok := true }
    { t with slice := some r })

/-- The recipes that a MATZ materialises. -/
def Thread.matzEntries (g : Group) (d : Nat) (t : Thread) : List REntry :=
  byReg (if d = 0 then t.recipeEntries g else t.entriesOf g [regNo t.wb d])

/-- MATZ in one lane. -/
def State.matzLane (d : Nat) (s : State) (t : Thread) : State × LaneRes :=
  match s.group? t.id.gid with
  | none => (s, .done t)
  | some g =>
    let r := s.materialiseAll t.id (t.matzEntries g d)
    match r.2 with
    | .fault i => (State.undoMaterials t.id s r.1, .fault i s.issue.pc)
    | .wait w => (r.1, .hold (((r.1.thread? t.id).getD t).holdFor w s.clock.cycle))
    | .go =>
      let t1 := (r.1.thread? t.id).getD t
      (r.1, .done { (t1.clearBacked g (if d = 0 then List.range 256 else [regNo t.wb d])) with pc := t.pc })

/-- MATZ (R167). -/
def execMatz (d : Nat) (s : State) : Out := .next (s.lanesM (State.matzLane d))

/-- The state of a register as RCPST gives it (R168). -/
def Thread.rcpState (g : Group) (t : Thread) (r : Nat) : Nat :=
  let f := tget RForm.value t.forms r
  let p := t.pins g r
  let named := f.recipe || f.backed
  if r = 0 then 0
  else Nat.min p 15 * 4096 + (if named then f.entry * 16 else 0) +
    (if named && (match g.entry? f.entry with | some e => e.cap.isSome | none => false) then 8 else 0) +
    (if f.backed then 4 else 0) + (if f.recipe then 1 else if p ≠ 0 then 2 else 0)

/-- RCPST (R168). -/
def execRcpst (d a : Nat) (s : State) : Out :=
  .next (s.lanesOk fun t =>
    t.dst d (BitVec.ofNat 32 (((s.group? t.id.gid).map fun g => t.rcpState g (regNo t.wb a)).getD 0)))

/-- RCPPOL (R160). -/
def execRcppol (x : Nat) (s : State) : Out :=
  .next (s.bundleGroups.foldl (fun st g => st.modGroup g fun y => { y with thresh := x }) s.retireAll)

/-! ## Conversion and the refill (R159, R165) -/

/-- An access has issued and is on its way: not held in Dusk before its instruction retires, and not failed. -/
def State.underWay (s : State) (o : Op) : Bool :=
  o.failed.isNone && (match s.thread? o.th with
    | some t => (match t.wait with | .dusk _ => false | _ => true)
    | none => true)

/-- A register of a thread is the destination of an outstanding result. -/
def State.outstanding (s : State) (t : ThreadId) (r : Nat) : Bool :=
  (s.ops.any fun o => decide (o.th = t) && (match o.dst with
    | some d => decide (d ≤ r) && decide (r < d + regCount o.size) && s.underWay o
    | none => false)) ||
  (s.cmds.any fun c => (match c.kind with
    | .trd ty _ d ths => (ths.any fun x => decide (x.1 = t)) && decide (d ≤ r) && decide (r < d + rowRegs ty)
    | .tstat _ d ths => decide (t ∈ ths) && decide (d = r)
    | _ => false)) ||
  (match s.thread? t with
    | some x => (match x.wait with
      | .status c => ((s.cmd? c).map fun y => decide (y.dreg = r)).getD false
      | .spawn d _ _ _ _ => decide (d ≤ r) && decide (r < d + 2)
      | _ => false)
    | none => false)

/-- A register that a matrix command of the group is capturing (R261). -/
def State.captured (s : State) (g : GroupId) (r : Nat) : Bool :=
  s.cmds.any fun c => decide (c.th.gid = g) && decide (c.st = .capture) && decide (r ∈ c.regs)

/-- Group register x may be converted in a thread (R159). A Backed value recorded for another phase is no recipe of
this one (R166). -/
def State.mayConvert (s : State) (g : Group) (x : Nat) (t : Thread) : Bool :=
  let f := tget RForm.value t.forms x
  match g.entry? f.entry with
  | none => false
  | some e =>
    f.backed && !f.recipe && decide (x ∈ REntry.dests e) &&
      (REntry.dests e).all (fun y => decide (t.pins g y = 0) && !(s.outstanding t.id y) && !(s.captured g.id y) &&
        decide (tget 0 t.busy y ≤ s.clock.cycle)) &&
      (e.inputs.all fun y => !(t.isRecipe y)) && t.slice.isNone && t.redo.isEmpty &&
      decide (t.moveUntil ≤ s.clock.cycle) && (e.cap.isNone || decide ((t.id.tid, t.phaseno) ∈ e.joined)) &&
      (match t.wait with | .dusk _ => false | _ => true)

/-- RECIPE_CONVERSION (R159): the hardware's choice of a group and a register; nothing happens where the rule does not
allow it. Each thread's register comes to name the entry that backs it. -/
def execRecipeConversion (gid : GroupId) (x : Nat) (s : State) : Out :=
  .next (match s.group? gid with
    | none => s
    | some g =>
      let ts := s.groupThreads gid
      if g.thresh ≠ 0 ∧ g.thresh * 128 < s.pressure (Group.qid g) ∧ g.reserve = 8 ∧ ¬ ts.isEmpty ∧ ts.all (s.mayConvert g x) then
        s.mapThreads fun t => if t.id.gid = gid then
          let f := tget RForm.value t.forms x
          t.setForms (((g.entry? f.entry).map REntry.dests).getD [x]) { recipe := true, backed := false, entry := f.entry } else t
      else s)

end Sys2Proof.Machine
end

