-- ==== Sys2Proof/Machine/Engine.lean ====
section
/-! DEFINITION. What the engines share: commands that act once for each group (R257, R292), counters and status words
(R15, R301, R315), guard slots (R298), engine accesses to memory (R13, R16, R17, R19), packets (R316, R317), and
holding a command (R273, R297, R314). -/

namespace Sys2Proof.Machine
open Host

/-! ## Acting once for each group -/

/-- One group's command: `act` sees the leader with its pc at the next instruction. On a fault the whole group of the
bundle parks; where `lone` holds the leader parks alone, and without a fault it is held at the instruction until its
status is written (R292). The others retire with no effect. -/
def State.oneGroup (lone : Bool) (act : Thread → State → Except RecInfo (State × Thread)) (num : Nat) (pc : Nat)
    (acc : State × List LaneFault) (l0 : Thread) (mates : List ThreadId) : State × List LaneFault :=
  let idle (st : State) : State := mates.foldl (fun x m => x.modThread m fun t => { t with pc := num }.retireIdle) st
  let flt (i : RecInfo) (t : ThreadId) : LaneFault := { th := t, info := acc.1.atIssue i, resume := pc }
  match acc.1.thread? l0.id with
  | none => acc
  | some l =>
    match act { l with pc := num } acc.1 with
    | .ok r => (idle (r.1.modThread l.id fun _ =>
        if lone then r.2.heldAt pc else r.2.retire), acc.2)
    | .error i =>
      if lone then (idle acc.1, acc.2 ++ [flt i l.id])
      else (acc.1, acc.2 ++ (l.id :: mates).map (flt i))

/-- The teams of which a group's act faults before the lane loop, each with its first fault: none of their groups acts, and
every lane of theirs in the bundle parks (R36, R63). -/
def State.teamFaults (act : Thread → State → Except RecInfo (State × Thread)) (ls : List Thread) (s : State) :
    List (TeamId × RecInfo) :=
  (ls.foldl (fun (acc : State × List (TeamId × RecInfo)) l0 =>
    match acc.1.thread? l0.id with
    | none => acc
    | some l => match act { l with pc := s.nextPc } acc.1 with
      | .ok r => (r.1.modThread l.id fun _ => r.2, acc.2)
      | .error i => if acc.2.any fun e => decide (e.1 = l.id.tmid) then acc else (acc.1, acc.2 ++ [(l.id.tmid, i)])) (s, [])).2

/-- An instruction that acts once for each group of the bundle, by its leader (R257, R292, R312). -/
def State.perGroup (lone : Bool) (act : Thread → State → Except RecInfo (State × Thread)) (s : State) : State :=
  let bad := if lone then [] else s.teamFaults act (s.bundleGroups.filterMap s.groupLeader)
  let r := s.bundleGroups.foldl (fun acc g =>
    match s.groupLeader g with
    | none => acc
    | some l =>
      let mates := (s.bundleThreads.filter fun t => decide (t.id.gid = g) && decide (t.id ≠ l.id)).map Thread.id
      match bad.find? fun e => decide (e.1 = l.id.tmid) with
      | some e => (acc.1, acc.2 ++ (l.id :: mates).map fun t => { th := t, info := s.atIssue e.2, resume := s.issue.pc })
      | none => State.oneGroup lone act s.nextPc s.issue.pc acc l mates) (s, [])
  r.1.raise r.2 none

/-! ## Counters and their status words (R15, R301, R315) -/

/-- Statuses of a bump. -/
def stDone : Nat := 1
def stDiscarded : Nat := 2
def stCancelled : Nat := 3

/-- A status word after one more bump. -/
def statusBump (v : Word) (st : Nat) : Word :=
  let canc := v.toNat / 65536 % 256
  let disc := v.toNat / 256 % 256
  BitVec.ofNat 32 (Nat.min 255 (canc + if st = 3 then 1 else 0) * 65536 +
    Nat.min 255 (disc + if st = 2 then 1 else 0) * 256 + st)

/-- w(n) of a team rises by one. -/
def Team.bumpW (n st : Nat) (t : Team) : Team :=
  { t with w := tput 0 t.w n ((tget 0 t.w n + 1) % 2 ^ 32), wstat := tput 0 t.wstat n (statusBump (tget 0 t.wstat n) st) }

/-- A command leaves its group's count, bumps its counter and is gone; what it has written to memory performs (R74). -/
def State.finishCmd (c : Cmd) (st : Nat) (s : State) : State :=
  let s1 := (s.performEngine c.id).dropCmd c.id
  let s2 := if c.counted then s1.leaveCount c.th.gid c.id else s1
  match c.cw with
  | none => s2
  | some n => s2.modTeam c.th.tmid (Team.bumpW n st)

def CmdKind.isMatrix : CmdKind → Bool
  | .cpy _ _ _ _ | .cpyr _ _ _ _ _ | .cred _ _ _ => false
  | _ => true
def Cmd.isMatrix (c : Cmd) : Bool := c.kind.isMatrix

/-- A command's count class. -/
def Cmd.cls (c : Cmd) : CountClass := if c.isMatrix then .nt else .nc

/-! ## Guard slots (R298) -/

def Team.guardSlot (t : Team) (y : Nat) : Slot := tget Slot.reset t.y y

/-- How a generation of a slot stands. -/
def Slot.at_ (x : Slot) (gen : Nat) : SlotState := if gen = x.gen then x.st else .true

/-- The state of the guard of a command: true where it has none. -/
def State.guardOf (s : State) (c : Cmd) : SlotState :=
  match c.guard with
  | none => .true
  | some g => match s.team? c.th.tmid with
    | none => .true
    | some t => (t.guardSlot g.1).at_ g.2

/-- The team of a command is neither being stopped nor saved (R237, R303). -/
def State.teamRuns (s : State) (t : TeamId) : Bool :=
  match s.team? t with
  | some x => !x.stopping && !x.saved
  | none => true

def State.teamSaved (s : State) (t : TeamId) : Bool := ((s.team? t).map Team.saved).getD false

/-- A command that waits in its queue for its slot. -/
def State.slotHolds (s : State) (c : Cmd) : Bool :=
  (decide (c.st = .queued) || decide (c.st = .capture)) && decide (s.guardOf c = .unresolved)

/-! ## Ports and packets (R316, R317, R359) -/

/-- The flits of a payload. -/
def flitsOf (n : Nat) : Nat := 1 + (n + 63) / 64

def PktType.code : PktType → Nat
  | .write => 0 | .readReq => 1 | .readResp => 2 | .atomic => 3 | .ackOnly => 4 | .keyMarker => 5 | .collective => 6 | .reserved => 7

/-- Bits 383:0 of the header flit of a packet (R316). -/
def Packet.fields (k : Packet) : Nat :=
  k.dest % 2 ^ 21 * 2 ^ 107 + k.src % 2 ^ 21 * 2 ^ 86 + k.seq % 2 ^ 16 * 2 ^ 70 + k.ack % 2 ^ 16 * 2 ^ 54 +
    (if k.ackv then 2 ^ 53 else 0) + k.kph % 2 * 2 ^ 52 + PktType.code k.type * 2 ^ 49 + (k.payload.length - 1) % 256 * 2 ^ 41 +
    k.reqtag % 2 ^ 16 * 2 ^ 25

/-- The header flit of a packet sent under an epoch as its `n`-th packet (R316, R336). -/
def Packet.header (epoch n : Nat) (k : Packet) : BitVec 512 :=
  BitVec.ofNat 512 ((Config.tagMac epoch n (Packet.fields k) k.payload).toNat * 2 ^ 384 + Packet.fields k)

/-- Hands one packet to a port; it carries the acknowledgement that the port owes. -/
def State.send (p dev : Nat) (ty : PktType) (tag tenant vaddr : Nat) (payload : List Nat) (s : State) : State :=
  s.modPort p fun x =>
    let pk : Packet := { dest := dev, src := Config.devid.toNat, seq := x.sendSeq, ack := (x.recvSeq + 65535) % 65536,
                         ackv := true, kph := x.tx.send % 2, type := ty, reqtag := tag, authOk := true,
                         flits := flitsOf payload.length, tenant := tenant, vaddr := vaddr, payload := payload }
    { x with sendSeq := (x.sendSeq + 1) % 65536, tx := { x.tx with count := x.tx.count + 1 }, unacked := x.unacked ++ [pk], ackDue := none,
             sentAt := if x.unacked.isEmpty then s.clock.cycle else x.sentAt }

/-- The port toward a device. -/
def State.portTo (s : State) (dev : Nat) : Option Nat := (s.domain.find? fun e => decide (e.1 = dev)).map fun e => e.2.port

def PortState.up : PortState → Bool
  | .up16 | .up8 _ => true
  | _ => false
def PortState.recovering : PortState → Bool
  | .degrading _ _ | .retrain _ _ => true
  | _ => false

/-- Bytes of a run, split into packets of at most 256 bytes. -/
def chunks : Nat → List Nat → List (List Nat)
  | 0, _ => []
  | n + 1, l => if l.isEmpty then [] else l.take 256 :: chunks n (l.drop 256)

/-- Writes bytes of another device: packets of consecutive addresses. -/
def State.sendWrites (c : Cmd) (dev addr : Nat) (bs : List Nat) (s : State) : State :=
  match s.portTo dev with
  | none => s
  | some p => ((chunks (bs.length / 256 + 1) bs).zipIdx).foldl (fun st x =>
      st.send p dev .write c.reqtag c.tenant (addr + 256 * x.2) x.1) s

/-- A packet has not been acknowledged: its port and sequence number. -/
def State.unackedAt (s : State) (m : Nat × Nat) : Bool := (s.port m.1).unacked.any fun k => decide (k.seq = m.2)

/-- The packets that a step has handed to the ports: each port and sequence number. -/
def State.newMarks (old s : State) : List (Nat × Nat) :=
  s.ports.flatMap fun p => (p.2.unacked.drop (old.port p.1).unacked.length).map fun k => (p.1, k.seq)

/-- A packet that must not act any more keeps its place in the sequence of its port, as a response that nothing waits for
(log entry 19). -/
def Packet.void (k : Packet) : Packet := { k with type := .readResp, vaddr := 2 ^ 60, payload := [0], flits := flitsOf 1 }

def Port.void (seqs : List Nat) (p : Port) : Port :=
  { p with unacked := p.unacked.map fun k => if k.seq ∈ seqs then Packet.void k else k }

/-- Unacknowledged packets of failed work are void (R320). -/
def State.voidPackets (ms : List (Nat × Nat)) (s : State) : State :=
  ms.foldl (fun st m => st.modPort m.1 (Port.void [m.2])) s

def bytesLE (n v : Nat) : List Nat := (natLE n v).map BitVec.toNat
def numLE (l : List Nat) : Nat := l.foldr (fun b n => b + 256 * n) 0

/-! ## Engine accesses (R13, R16, R17, R19) -/

/-- What one access of an engine meets. -/
inductive EngRes where
  | ok (keys : List Nat)
  /-- Outside a capability without TOOB. -/
  | outside
  | fault (cause reason addr : Nat) (die : Option Nat)
  /-- Stalled: how long it may, and how it then faults. -/
  | wait (limit cause reason addr : Nat) (die : Option Nat)
  /-- Bytes of another device have been asked for and have not come. -/
  | asked
deriving DecidableEq, Repr

def Cmd.qid (c : Cmd) : QuadId := { die := c.core.die, core := c.core.core, quad := c.quad }

/-- Bytes of other devices: the port must be up. -/
def State.engRemote (s : State) (die : Nat) (keys : List Nat) (va : Nat) : EngRes :=
  match s.portTo (remoteDev (keys.headD 0)) with
  | none => .fault 0x0D 0 va none
  | some p => match (s.port p).st with
    | .down => .fault 0x0D 0 va none
    | x => if x.recovering then .wait 140000000 0x0D 0 va none
      else match s.gate (route die (portDie p)) with
        | .dead d => .fault 0x0C 0 va (some d)
        | .stall => .wait 28000 0x0C 0 va (s.duskOn (route die (portDie p)))
        | .go => .ok keys

/-- The bytes of another device that have come for a command, and one of them. -/
def Cmd.holds (c : Cmd) (keys : List Nat) : Bool := keys.all fun k => c.got.any fun e => decide (e.1 = k)
def Cmd.gotByte (c : Cmd) (k : Nat) : Byte := BitVec.ofNat 8 (((c.got.find? fun e => decide (e.1 = k)).map Prod.snd).getD 0)

/-- A command asks another device for the 16-byte words of some bytes, those apart that it has asked for (R188, R316). -/
def State.askWords (c : Cmd) (keys : List Nat) (s : State) : State :=
  let dev := remoteDev (keys.headD 0)
  let ws := (wordsOf16 keys).filter fun w => !(((s.cmd? c.id).getD c).asks.any fun a => decide (w ∈ a.2))
  match ws, s.portTo dev with
  | w :: _, some p =>
    (s.send p dev .readReq c.reqtag c.tenant (16 * w % remoteBase) (ws.flatMap fun x => bytesLE 8 (16 * x % remoteBase))).modCmd c.id
      fun y => { y with asks := y.asks ++ [(dev, ws)] }
  | _, _ => s

/-- A read of bytes of another device: once they have come, else a request for them (R188). -/
def State.engRemoteRead (c : Cmd) (keys : List Nat) (va : Nat) (s : State) : State × EngRes :=
  if c.holds keys then (s, .ok keys)
  else match s.engRemote c.core.die keys va with
    | .ok _ => (s.askWords c keys, .asked)
    | x => (s, x)

/-- The acquire that bounds what an engine may read: that of its issuer's phase; a thread that has ended leaves the
newest value (R13). -/
def State.engPhase (s : State) (c : Cmd) : Scope × Nat :=
  match s.thread? c.th with
  | some t => (t.acqScope, t.acqAt)
  | none => (.device, s.clock.tick)

/-- The L2 does not serve an engine's read of a line: it goes below (R209). -/
def State.engMisses (s : State) (c : Cmd) (line : Nat) : Bool :=
  s.l2Misses c.core.die (s.engPhase c).1 (s.engPhase c).2 line

/-- Dies between a core and the home of the bytes that its L2 does not serve (R209). -/
def State.engRoute (s : State) (c : Cmd) (keys : List Nat) : List Nat :=
  ((keys.filter fun a => s.engMisses c (a / 128)).flatMap fun a => route c.core.die (homeDie a)).eraseDups

/-- Bytes of a team's scratchpad lie in a poisoned line (R344). -/
def State.spadPoisoned (s : State) (t : TeamId) (off n : Nat) : Bool :=
  match s.team? t with
  | some x => x.spadPoison.any fun l => decide (off < 128 * (l + 1)) && decide (128 * l < off + n)
  | none => false

/-- An engine's read of a byte would consume poison (R215). -/
def State.engPoisoned (s : State) (c : Cmd) (a : Nat) : Bool :=
  (if s.engMisses c (a / 128) then decide (a / 128 ∈ s.poison) else s.l2Poisoned c.core.die (a / 128)) ||
    (decide (a / 128 ∈ (s.core c.core).poison) && (s.core c.core).writes.any fun w => decide (w.addr = a) && w.pub.isNone)

/-- One local access whose bytes have their keys. A write crosses the links to the home of its bytes (R19). -/
def State.engLocal (s : State) (c : Cmd) (wr : Bool) (keys : List Nat) (va : Nat) : EngRes :=
  let r := if wr then (keys.flatMap fun a => route c.core.die (homeDie a)).eraseDups else s.engRoute c keys
  match s.gate r with
  | .dead d => .fault 0x0C 0 va (some d)
  | .stall => .wait 28000 0x0C 0 va (s.duskOn r)
  | .go =>
    if wr then (if keys.any fun k => s.frameLocked k then .wait 140000 0x03 3 va none else .ok keys)
    else if keys.any fun k => s.engPoisoned c k then .fault 0x0B 0 va none else .ok keys

/-- One access whose bytes have their keys, in this device or another (R188, R212). -/
def State.engKeys (c : Cmd) (wr : Bool) (keys : List Nat) (va : Nat) (s : State) : State × EngRes :=
  if keys.any isRemote then (if wr then (s, s.engRemote c.core.die keys va) else s.engRemoteRead c keys va)
  else (s, s.engLocal c wr keys va)

/-- Forms and translates one access of a command through a captured capability (R178, R181). -/
def State.engForm (c : Cmd) (cap : Cap) (wr : Bool) (off : Int) (z : Nat) (s : State) : State × EngRes :=
  match formAccess cap off z with
  | .misaligned va => (s, .fault 0x06 0 va none)
  | .outside va => (s, if cPermBit cap capTOOB then .fault 0x05 0 va none else .outside)
  | .ok ps =>
    let va := (ps.head?.map Prod.fst).getD 0
    if Cap.remote cap then
      let keys := pieceBytes (ps.map fun p => (remoteKey cap.device p.1, p.2))
      if wr then (s, s.engRemote c.core.die keys va) else s.engRemoteRead c keys va
    else
      let r := s.translateAll c.qid (s.vfOf c.th) (if wr then .wr else .rd) ps
      match r.2 with
      | .error e => (r.1, .fault 0x03 e.1 e.2 none)
      | .ok ks =>
        r.1.engKeys c wr (pieceBytes ks) va

/-- The latest write of a byte by a core that no wider point has seen. -/
def Core.pending (x : Core) (a : Nat) : Option CoreWrite :=
  (x.writes.filter fun w => decide (w.addr = a) && w.pub.isNone).getLast?

/-- A read by an engine returns the latest core write not yet published, else what the die's L2 holds, refreshed where
it holds nothing (R13). -/
def State.engByte (s : State) (c : CoreId) (a : Nat) : Byte :=
  match (s.core c).pending a with
  | some w => w.val
  | none => s.readL2 c.die a

/-- The lines that an engine reads are in the L2 as its issuer's view asks. -/
def State.engFill (c : Cmd) (keys : List Nat) (s : State) : State :=
  (((keys.filter fun k => !(isRemote k)).map fun k => k / 128).eraseDups).foldl (fun st l =>
    st.ensureL2 c.core.die (st.engPhase c).1 (st.engPhase c).2 l) s

def State.engRead (c : Cmd) (keys : List Nat) (s : State) : State × List Byte :=
  let s1 := s.engFill c keys
  (s1, keys.map fun k => if isRemote k then c.gotByte k else s1.engByte c.core k)

/-- The earlier accesses of a command's issuer have taken effect: the command may touch memory (R13, R82 to R87). -/
def State.earlierDone (s : State) (c : Cmd) : Bool :=
  s.ops.all fun o => !(decide (o.th = c.th) && decide (o.id < c.id) &&
    (match OpKind.cls o.kind with | .ld | .st | .at_ => true | _ => false)) || s.tookEffect o.id

/-- The memory writes of an engine are core writes of the issuing core, performed when the command completes (R16, R74);
bytes of other devices also leave in packets. -/
def State.engWrite (c : Cmd) (bytes : List (Nat × Byte)) (s : State) : State :=
  let s1 := s.engineWrite c.core c.id bytes
  match bytes with
  | [] => s1
  | (k, _) :: _ =>
    if isRemote k then s1.sendWrites c (remoteDev k) (k % remoteBase) (bytes.map fun b => b.2.toNat) else s1

/-- Since when an access of a command, by its place, is stalled. -/
def Cmd.stalledAt (c : Cmd) (place : Nat) : Option Nat := (c.stalls.find? fun e => decide (e.1 = place)).map Prod.snd

/-- What an access that stalls comes to: itself, or its fault once its time has passed (R19, R219, R320). -/
def EngRes.late (c : Cmd) (place now : Nat) (r : EngRes) : EngRes :=
  match r, c.stalledAt place with
  | .wait lim cause reason addr die, some since => if since + lim ≤ now then .fault cause reason addr die else r
  | _, _ => r

/-- The stalls of a command when some accesses, by their places, are stalled now. -/
def Cmd.setStalls (places : List Nat) (now : Nat) (c : Cmd) : Cmd :=
  { c with stalls := places.map fun p => (p, (c.stalledAt p).getD now) }

/-! ## Holding a command (R273, R297, R314) -/

/-- A record of a held command (R342). -/
def State.heldRecord (c : Cmd) (quad : Nat) (i : RecInfo) (s : State) : State :=
  s.waitRecord c.core.die
    { q := .part c.part, cmd := some c.id,
      words := recordWords { i with kind := 1 } c.reqtag c.tenant c.th.grid c.th.team c.th.group (2 ^ c.th.tid)
        (i.die.getD c.core.die) (DieState.code (s.die (i.die.getD c.core.die)).st) c.core.core quad }

/-- The command is held: it stays counted, and its record waits to be posted. -/
def State.holdCmd (c : Cmd) (quad : Nat) (i : RecInfo) (s : State) : State :=
  (s.modCmd c.id fun x => { x with st := .held i.cause i.addr1, stalls := [], asks := [], marks := [] }).heldRecord c quad i

/-- Once its record is posted, the issuer of a held command owes a park at a wait (R273, R297). -/
def State.oweRecord (n : Nat) (s : State) : State :=
  match s.cmd? n with
  | some c => (match c.st with
    | .held cause addr => s.modThread c.th fun t => { t with owed := t.owed ++ [(n, cause, addr)] }
    | _ => s)
  | none => s

/-- A held command is taken up again or ended: its issuer owes no park for it any more. -/
def State.unowe (n : Nat) (s : State) : State :=
  s.mapThreads fun t => { t with owed := t.owed.filter fun o => decide (o.1 ≠ n) }

/-- Adds a command. -/
def State.addCmd (c : Cmd) (s : State) : State := (s.setCmds (s.cmds ++ [c])).bump 1

/-- A command issued by thread l: the fields every command has. -/
def State.newCmd (s : State) (k : CmdKind) (l : Thread) : Cmd :=
  { id := s.clock.fresh, kind := k, st := .queued, th := l.id, core := l.core, quad := l.quad, target := l.quad,
    tile := 0, regs := [], at_ := s.clock.cycle, due := s.clock.cycle, cw := none, guard := none, dreg := 0, bytes := 0,
    bound := 0, moved := 0, ahead := [], contrib := none, taken := [], asks := [], got := [], marks := [], lost := 0, stalls := [], reqtag := s.reqtagOf l.id, tenant := s.tenantOf l.id,
    part := s.partOf l.id, counted := true, pc := s.issue.pc, wb := l.wb }

end Sys2Proof.Machine
end

