-- ==== Sys2Proof/Machine/Matrix.lean ====
section
/-! DEFINITION. The matrix engine (R242 to R279): formats and summation, the array, its instructions and the events of
its commands, and the epilogue. -/

namespace Sys2Proof.Machine
open Host

/-! ## Formats (R242 to R250, R258, R259) -/

/-- K_w of a weight format (R258); 0 for the other types. -/
def kwOf : Ty → Nat
  | .e4m3 | .e5m2 => 256
  | .e2m1 | .s4 | .n4 | .cb2 => 512
  | .f16 | .bf16 => 128
  | _ => 0

/-- Bits of an element in a register (R245); a cb2 index has 16. -/
def codeBits : Ty → Nat
  | .e4m3 | .e5m2 => 8
  | .e2m1 | .s4 | .n4 => 4
  | _ => 16

/-- The pairings of R259: K of the TMM, and whether KH may be 1. -/
def pairing (a w : Ty) : Option (Nat × Bool) :=
  let a8 := decide (a = .e4m3) || decide (a = .e5m2)
  let w8 := decide (w = .e4m3) || decide (w = .e5m2)
  let a4 := decide (a = .e2m1) || decide (a = .s4) || decide (a = .n4)
  let w4 := decide (kwOf w = 512)
  if a8 && w8 then some (256, false)
  else if a8 && w4 then some (256, true)
  else if a4 && w4 then some (512, false)
  else if a = w ∧ (a = .f16 ∨ a = .bf16) then some (128, false)
  else none

/-- The elements of consecutive registers, lowest first (R245). -/
def regElems (w : Nat) (ws : List Word) : List Nat := ws.flatMap fun x => elems w (32 / w) x.toNat

/-- An element's exact value: a cb2 weight is a count of quarters; an integer's zero is +0 (R243, R248). -/
def elemVal (ty : Ty) (x : Int) : FV :=
  if ty = .cb2 then .fin (decide (x < 0)) x.natAbs (-2) else (Ty.cvtClass ty).val x.toNat

/-- cb2 decode of one index (R248): eight quarter counts. -/
def cb2Decode (table : Nat → Nat) (x : Nat) : List Int :=
  let t := table (x / 256 % 256)
  let sg (i : Nat) : Bool :=
    if i = 7 then decide (popcount (x / 2 % 128) % 2 = 1) else x.testBit (i + 1)
  (List.range 8).map fun i =>
    let m : Int := ((t / 2 ^ (3 * i) % 8 : Nat) : Int)
    (if sg i then -2 * m else 2 * m) + (if x.testBit 0 then 1 else 0)

/-! ## Summation (R251 to R254) -/

/-- S of one group of products (R252). -/
def sumProducts (ps : List FV) : FV :=
  let pos := ps.any fun p => decide (p = .inf false)
  let neg := ps.any fun p => decide (p = .inf true)
  if ps.any FV.isNan || (pos && neg) then .nan false
  else if pos then .inf false
  else if neg then .inf true
  else
    let z := ps.foldl (fun a p => addZ a p.z) (0, 0)
    .fin (if z.1 = 0 then !ps.isEmpty && ps.all (fun p => match p with | .fin n _ _ => n | _ => false) else decide (z.1 < 0))
      z.1.natAbs z.2

/-- The group value v (R251). -/
def groupVal (S : FV) (ea eb : Nat) : Nat :=
  if ea = 255 ∨ eb = 255 then Fmt.f32.nanBits
  else match S with
    | .nan _ => Fmt.f32.nanBits
    | .inf n => (Fmt.f32.inf false n).1
    | .fin n m e => (Fmt.f32.roundZ .rne false (if n then -(m : Int) else m) (e + ea + eb - 254) n).1

/-- An element with the two sticky bits it sets (R254). -/
structure AccEl where
  bits : Nat
  nans : Bool
  infs : Bool
deriving DecidableEq, Repr

def isFin (x : Nat) : Bool := match Fmt.f32.dec x with | .fin _ _ _ => true | _ => false
def isInf (x : Nat) : Bool := match Fmt.f32.dec x with | .inf _ => true | _ => false

/-- One group added to an element. -/
def addGroup (a : AccEl) (S : FV) (ea eb : Nat) : AccEl :=
  let v := groupVal S ea eb
  let r := (Fmt.f32.add .rne false (Fmt.f32.dec a.bits) (Fmt.f32.dec v)).1
  { bits := r, nans := a.nans || (Fmt.f32.dec r).isNan,
    infs := a.infs || (isInf r && isFin a.bits) ||
      (isInf v && (match S with | .fin _ _ _ => true | _ => false)) }

/-- One element of one TMM: the groups of 32 positions in ascending K (R251). -/
def tmmElem (as ws : List FV) (ea eb : List Nat) (acc : Nat) : AccEl :=
  (List.range (as.length / 32)).foldl (fun x g =>
    let ps := (List.zip ((as.drop (32 * g)).take 32) ((ws.drop (32 * g)).take 32)).map fun p => prod p.1 p.2
    addGroup x (sumProducts ps) (ea.getD g 127) (eb.getD g 127)) { bits := acc, nans := false, infs := false }

/-- A tile whose supplied rows are updated. -/
def tmmTile (rows : List (Nat × List FV × List Nat)) (cols : List (List FV × List Nat)) (t : Tile) : Tile :=
  let cs := (List.range 4096).map fun i =>
    let old := (tget 0 t.els i).toNat
    match rows.find? fun r => decide (r.1 = i / 64) with
    | none => ({ bits := old, nans := false, infs := false } : AccEl)
    | some r =>
      let c := cols.getD (i % 64) ([], [])
      tmmElem r.2.1 c.1 r.2.2 c.2 old
  { t with els := cs.zipIdx.filterMap (fun c => if c.1.bits = 0 then none else some (c.2, BitVec.ofNat 32 c.1.bits)),
           nans := t.nans || cs.any AccEl.nans, infs := t.infs || cs.any AccEl.infs }

/-! ## Fusion (R274) -/

/-- The fused set of quadrant q under mode m. -/
def fuseSet (m q : Nat) : List Nat :=
  let top := decide (q < 2)
  let even := decide (q % 2 = 0)
  if m = 7 then [0, 1, 2, 3]
  else if (m = 1 ∨ m = 3) ∧ top then [0, 1]
  else if (m = 2 ∨ m = 3) ∧ ¬ top then [2, 3]
  else if (m = 4 ∨ m = 6) ∧ even then [0, 2]
  else if (m = 5 ∨ m = 6) ∧ ¬ even then [1, 3]
  else [q]

/-- The column blocks of a TMM issued in quadrant q: where each is written, and the quadrants whose latches hold its
weights, in ascending K. -/
def fuseOut (m q : Nat) : List (Nat × List Nat) :=
  let s := fuseSet m q
  if s.length = 4 then [(q / 2 * 2, [0, 2]), (q / 2 * 2 + 1, [1, 3])]
  else if s = [0, 1] ∨ s = [2, 3] then s.map fun x => (x, [x])
  else [(q, s)]

/-- The TMM takes two activation fragments. -/
def fuseVert (m q : Nat) : Bool := (fuseOut m q).any fun o => decide (o.2.length = 2)

/-- Quadrants that the sets of a mode fuse. -/
def fusedQuads (m : Nat) : List Nat := (List.range 4).filter fun q => decide ((fuseSet m q).length ≠ 1)

/-- The mode under which a command issues: the latest TFUSE issued, or the mode in force (log entry 14). -/
def State.fuseAtIssue (s : State) (c : CoreId) (p : Nat) : Nat :=
  match (s.cmds.filterMap fun x => if x.core = c ∧ x.part = p ∧ ¬ s.teamSaved x.th.tmid then (match x.kind with | .tfuse m => some m | _ => none)
      else none).getLast? with
  | some m => m
  | none => tget 0 (s.core c).fuse p

/-! ## Tiles and latches -/

def State.accTile (s : State) (c : CoreId) (q i : Nat) : Tile := tget Tile.zero (s.quad (quadOn c q)).tiles i
def State.setAccTile (c : CoreId) (q i : Nat) (t : Tile) (s : State) : State :=
  s.modQuad (quadOn c q) fun x => { x with tiles := tput Tile.zero x.tiles i t }

/-- The weights and scales of column n of one latch: K positions from 256 × KH. -/
def Latch.column (l : Latch) (k kh n : Nat) : List FV × List Nat :=
  let fmt := l.fmt.getD .f16
  let cs := ((l.cols.find? fun e => decide (e.1 = n)).map Prod.snd).getD (List.replicate (kwOf fmt) 0)
  let ss := ((l.scales.find? fun e => decide (e.1 = n)).map Prod.snd).getD (List.replicate (kwOf fmt / 32) 127)
  (((cs.drop (256 * kh)).take k).map (elemVal fmt), (ss.drop (8 * kh)).take (k / 32))

/-! ## Issue: what every matrix command shares -/

/-- The queue of a command: those of its fused set in its partition that have not been released; a saved team has none
there (R279). -/
def State.queueOf (s : State) (c : CoreId) (p m q : Nat) : List Cmd :=
  s.cmds.filter fun x => x.isMatrix && decide (x.core = c) && decide (x.part = p) && decide (x.quad ∈ fuseSet m q) &&
    !(s.teamSaved x.th.tmid) &&
    (match x.st with | .draining => false | .held _ _ => false | _ => true)

/-- Tile T is within reach of a thread (R266). -/
def State.reach (s : State) (l : Thread) (t : Nat) : Bool :=
  decide (t < 48) && decide (t / 12 ∈ fuseSet (s.fuseAtIssue l.core (s.partOf l.id)) l.quad)

/-- A new matrix command, under the fusion mode of its issue. -/
def State.mtxCmd (s : State) (k : CmdKind) (l : Thread) : Cmd :=
  { s.newCmd k l with bytes := s.fuseAtIssue l.core (s.partOf l.id) }

/-- The command with the registers it captures: `n` register numbers take ceil(n ÷ 4) + 2 cycles (R261). -/
def Cmd.capturing (c : Cmd) (regs : List Nat) : Cmd :=
  { c with regs := regs, st := .capture, due := c.at_ + (regs.eraseDups.length + 3) / 4 + 2 }

/-- Adds a counted command of a leader, which waits for the capture. -/
def State.issueCmd (c : Cmd) (l : Thread) (s : State) : State × Thread :=
  let s1 := (s.addCmd c).modGroup c.th.gid (Group.addCount c.id c.cls 1)
  (if c.counted then s1 else s.addCmd c, if c.st = .capture then { l with wait := .capture c.id } else l)

/-- The live threads of a group, which supply its fragments (R260). -/
def State.suppliers (s : State) (g : GroupId) : List Thread := s.groupThreads g

/-- Instructions that act for every thread of the bundle, group by group (R257). -/
def State.groupWise (act : List Thread → State → Except RecInfo (State × (Thread → Thread))) (s : State) : State :=
  let r := s.bundleGroups.foldl (fun (acc : State × List LaneFault) g =>
    let ts := s.bundleThreads.filter fun t => decide (t.id.gid = g)
    match act ts acc.1 with
    | .error i => (acc.1, acc.2 ++ ts.map fun t => { th := t.id, info := s.atIssue i, resume := s.issue.pc })
    | .ok v => (ts.foldl (fun st t => st.modThread t.id fun x => (v.2 { x with pc := s.nextPc }).retire) v.1, acc.2)) (s, [])
  r.1.raise r.2 none

/-! ## WLD, WLDS, CBLD -/

/-- The quadrant whose array a WLD or WLDS names (R267). -/
def State.latchTarget (s : State) (l : Thread) (t : LatchTarget) : Option Nat :=
  match t with
  | .self => some l.quad
  | .quad q => if q ∈ fuseSet (s.fuseAtIssue l.core (s.partOf l.id)) l.quad then some q else none

/-- WLD (R257, R260, R267). -/
def execWld (ty : Ty) (t : LatchTarget) (f : Nat) (s : State) : Out :=
  .next (State.perGroup false (fun l st =>
    match st.latchTarget l t with
    | none => .error { cause := 0x0F }
    | some q =>
      if kwOf ty = 0 then .error { cause := 0x0F }
      else
        let b := regNo l.wb f
        let n := weightRegs ty
        let cols := (st.suppliers l.id.gid).map fun u => (u.id.tid, u.regsFrom b n)
        let c := ({ st.mtxCmd (.wld ty cols) l with target := q }).capturing ((List.range n).map fun i => b + i)
        .ok ((st.modQuad (quadOn l.core q) fun x => { x with issuedFmt := some ty }).issueCmd c l)) s)

/-- WLDS (R260, R266, R267). -/
def execWlds (t : LatchTarget) (sr : Nat) (s : State) : Out :=
  .next (State.perGroup false (fun l st =>
    match st.latchTarget l t with
    | none => .error { cause := 0x0F }
    | some q =>
      let n := match (st.quad (quadOn l.core q)).issuedFmt with
        | none => 0
        | some ty => kwOf ty / 128
      if n < 2 then .error { cause := 0x0F }
      else if st.regsOf l.id < regNo l.wb sr + n then .error { cause := 0x12 }
      else
        let b := regNo l.wb sr
        let cols := (st.suppliers l.id.gid).map fun u => (u.id.tid, u.regsFrom b n)
        let c := ({ st.mtxCmd (.wlds n cols) l with target := q }).capturing ((List.range n).map fun i => b + i)
        .ok (st.issueCmd c l)) s)

/-- CBLD (R268): the check covers every supplied entry. -/
def execCbld (f b : Nat) (s : State) : Out :=
  .next (State.perGroup false (fun l st =>
    let r := regNo l.wb f
    let ents := (st.suppliers l.id.gid).flatMap fun u =>
      (u.regsFrom r 4).zipIdx.map fun e => (b + 4 * u.id.tid + e.2, e.1.toNat)
    if ents.any fun e => decide (16777216 ≤ e.2) then .error { cause := 0x0F }
    else
      let c := (st.mtxCmd (.cbld (ents.filter fun e => decide (e.1 < 256))) l).capturing ((List.range 4).map fun i => r + i)
      .ok (st.issueCmd c l)) s)

/-! ## TMM and TEPI -/

/-- Word i of a captured block. -/
def blk (b : List Word) (i : Nat) : Nat := (b.getD i 0).toNat

/-- The fields of word 1 that engine blocks share: CEN with CW, and GEN with GY. -/
def blkCw (b : List Word) : Option Nat := if (blk b 1).testBit 9 then some (blk b 1 % 16) else none
def blkGy (b : List Word) : Option Nat := if (blk b 1).testBit 8 then some (blk b 1 / 16 % 16) else none

/-- The guard of a command: its slot with the current generation; cause 0x13 for a slot that is FREE (R265, R292). -/
def State.guardFor (s : State) (l : Thread) (b : List Word) : Except RecInfo (Option (Nat × Nat)) :=
  match blkGy b with
  | none => .ok none
  | some y =>
    match s.team? l.id.tmid with
    | none => .error { cause := 0x13 }
    | some t => if (t.guardSlot y).st = .free then .error { cause := 0x13 } else .ok (some (y, (t.guardSlot y).gen))

/-- Output types of the epilogue (R263). -/
def otyOf : Nat → Option Ty
  | 0x08 => some .f32 | 0x09 => some .f16 | 0x0A => some .bf16 | 0x0C => some .e4m3 | 0x0D => some .e5m2
  | 0x0E => some .e2m1 | _ => none

/-- Words 2 to 7 obey R263. -/
def epiOk (b : List Word) : Bool :=
  decide (blk b 2 % 32 = 0) && (otyOf (blk b 2 / 2 ^ 19 % 32)).isSome && decide (blk b 2 / 2 ^ 15 % 8 ≠ 7) &&
    decide (blk b 2 / 2 ^ 12 % 8 < 4)

/-- A capability that a block names, through the leader's team (R17, R263, R292): `ib` is what INFO adds. -/
def State.blockCap (s : State) (l : Thread) (k perm : Nat) : Except RecInfo Cap :=
  match s.capOf l.id.tmid k with
  | none => .error { cause := 0x04, info := k + 16 }
  | some c =>
    if c.tenant ≠ s.tenantOf l.id ∨ ¬ cPermBit c perm then .error { cause := 0x04, info := k + 16 } else .ok c

def Cap.zero : Cap := { base := 0, extent := 0, tenant := 0, stride := 0, swz := 0, perm := 0, device := 0 }

/-- The captured epilogue descriptor. -/
def State.epiDesc (s : State) (l : Thread) (b : List Word) : Except RecInfo EpiDesc :=
  let w := blk b 2
  match s.blockCap l (w / 2 ^ 28) capW with
  | .error i => .error i
  | .ok o =>
    let ben := w.testBit 11
    match (if ben then s.blockCap l (w / 2 ^ 24 % 16) capR else .ok Cap.zero) with
    | .error i => .error i
    | .ok bc =>
      .ok { oty := w / 2 ^ 19 % 32, osat := w.testBit 18, rm := l.rm ((Rm.ofCode (w / 2 ^ 15 % 8)).getD .rne),
            act := w / 2 ^ 12 % 8, ben := ben, nrow := w / 2 ^ 5 % 64, scale := blk b 3, ooff := blk b 4,
            boff := blk b 5, alpha := blk b 6, hi := blk b 7, out := o, bias := bc, seed := l.rng }

/-- The generator after n advances (R117). -/
def rngAdv : Nat → Word → Word
  | 0, s => s
  | n + 1, s => rngAdv n (rngStep s)

/-- The issuer's generator after the draws of an epilogue (R271). -/
def Thread.epiDraw (e : EpiDesc) (t : Thread) : Thread :=
  if e.rm = .sto then { t with rng := rngAdv (64 * (e.nrow + 1)) t.rng } else t

/-- TEPI (R262, R263, R265, R271): AF, AFMT, KH, ZA and EPI are ignored. -/
def execTepi (p : Nat) (s : State) : Out :=
  .next (State.perGroup false (fun l st =>
    let r := regNo l.wb p
    let b := l.regsFrom r 8
    if blk b 0 / 64 % 1024 ≠ 0 ∨ blk b 1 / 1024 ≠ 0 ∨ ¬ epiOk b ∨ ¬ st.reach l (blk b 0 % 64) then .error { cause := 0x0F }
    else
      match st.epiDesc l b with
      | .error i => .error i
      | .ok e =>
        match st.guardFor l b with
        | .error i => .error i
        | .ok g =>
          let c0 : Cmd := { st.mtxCmd (.tepi e) l with
            target := blk b 0 % 64 / 12, tile := blk b 0 % 64, cw := blkCw b, guard := g }
          let c := c0.capturing ((List.range 8).map fun i => r + i)
          let v := st.issueCmd c l
          .ok (v.1, v.2.epiDraw e)) s)

/-- Scale registers of one activation fragment (R260). -/
def scaleRegs (a : Ty) : Nat := if codeBits a = 8 then 2 else if codeBits a = 4 then 4 else 0

/-- The pairing of a TMM against every array of its set (R259): K, where every array accepts it. -/
def State.tmmPair (s : State) (l : Thread) (m : Nat) (a : Ty) (kh : Nat) : Option Nat :=
  let ks := ((fuseOut m l.quad).flatMap Prod.snd).map fun q =>
    match (s.quad (quadOn l.core q)).issuedFmt with
    | none => none
    | some w => match pairing a w with
      | none => none
      | some p => if kh = 1 ∧ ¬ p.2 then none else some p.1
  match ks with
  | some k :: r => if r.all fun x => decide (x = some k) then some k else none
  | _ => none

/-- The activation type that AFMT names. -/
def afmtOf (c : Nat) : Option Ty :=
  match Ty.ofCode c with
  | some ty => if kwOf ty ≠ 0 ∧ ty ≠ .cb2 then some ty else none
  | none => none

/-- TMM (R257 to R265, R269). -/
def execTmm (p : Nat) (s : State) : Out :=
  .next (State.perGroup false (fun l st =>
    let r := regNo l.wb p
    let b := l.regsFrom r 8
    let m := st.fuseAtIssue l.core (st.partOf l.id)
    let af := blk b 0 / 2 ^ 24
    let kh := blk b 0 / 2 ^ 18 % 2
    let tile := blk b 0 % 64
    let epi := (blk b 0).testBit 16
    if blk b 0 / 64 % 1024 ≠ 0 ∨ blk b 1 / 1024 ≠ 0 ∨ (epi ∧ ¬ epiOk b) ∨ tile / 12 ≠ l.quad then .error { cause := 0x0F }
    else
      match (afmtOf (blk b 0 / 2 ^ 19 % 32)).bind fun a => (st.tmmPair l m a kh).map fun k => (a, k) with
      | none => .error { cause := 0x0F }
      | some (a, _) =>
        let n := if fuseVert m l.quad then 2 else 1
        if af < 16 then .error { cause := 0x0F }
        else if st.regsOf l.id < af + n * (64 + scaleRegs a) then .error { cause := 0x12 }
        else
          match (if epi then (st.epiDesc l b).map some else .ok none) with
          | .error i => .error i
          | .ok e =>
            match st.guardFor l b with
            | .error i => .error i
            | .ok g =>
              let rows := (st.suppliers l.id.gid).map fun u =>
                (u.id.tid, u.regsFrom af (64 * n), u.regsFrom (af + 64 * n) (scaleRegs a * n))
              let c0 : Cmd := { st.mtxCmd (.tmm a kh ((blk b 0).testBit 17) rows e) l with
                target := l.quad, tile := tile, cw := blkCw b, guard := g }
              let c := c0.capturing (((List.range 8).map fun i => r + i) ++ (List.range (n * (64 + scaleRegs a))).map fun i => af + i)
              let v := st.issueCmd c l
              .ok (v.1, match e with | some d => v.2.epiDraw d | none => v.2)) s)

/-! ## TZERO, TRD, TWR, TFUSE, TSTAT -/

/-- TZERO (R270). -/
def execTzero (t : Nat) (s : State) : Out :=
  .next (State.perGroup false (fun l st =>
    if st.reach l t then .ok (st.issueCmd { st.mtxCmd .tzero l with target := t / 12, tile := t } l)
    else .error { cause := 0x0F }) s)

def F2Ty.elemTy : F2Ty → Ty
  | .f32 => .f32 | .f16x2 => .f16 | .bf16x2 => .bf16

/-- TRD (R257, R270): every thread of the bundle reads its row; the draws are those of its generator at issue. -/
def execTrd (ty : F2Ty) (rm : Rm) (sat : Bool) (d t : Nat) (s : State) : Out :=
  .next (State.groupWise (fun ts st =>
    match ts with
    | [] => .error { cause := 0x0F }
    | l :: _ =>
      if st.reach l t then
        let c := { st.mtxCmd (.trd ty sat (regNo l.wb d) (ts.map fun u => (u.id, u.rm rm, u.rng))) l with
                   target := t / 12, tile := t }
        .ok ((st.issueCmd c l).1, fun u => if ty ≠ .f32 ∧ u.rm rm = .sto then { u with rng := rngAdv 64 u.rng } else u)
      else .error { cause := 0x0F }) s)

/-- The 64 elements that a thread's row registers hold, widened to f32 (R270). -/
def rowWords (ty : F2Ty) (ws : List Word) : List Word :=
  if ty = .f32 then ws
  else (regElems 16 ws).map fun x => BitVec.ofNat 32 (convert .f32 (F2Ty.elemTy ty) false x .rne).1

/-- TWR (R257, R261, R270). -/
def execTwr (ty : F2Ty) (t a : Nat) (s : State) : Out :=
  .next (State.groupWise (fun ts st =>
    match ts with
    | [] => .error { cause := 0x0F }
    | l :: _ =>
      if st.reach l t then
        let b := regNo l.wb a
        let rows := ts.map fun u => (u.id.tid, rowWords ty (u.regsFrom b (rowRegs ty)))
        let c := ({ st.mtxCmd (.twr rows) l with target := t / 12, tile := t }).capturing
          ((List.range (rowRegs ty)).map fun i => b + i)
        .ok ((st.issueCmd c l).1, fun u => { u with wait := .capture c.id })
      else .error { cause := 0x0F }) s)

/-- TFUSE (R274): not counted (R15, R257). -/
def execTfuse (m : Nat) (s : State) : Out :=
  .next (State.perGroup false (fun l st =>
    if (fusedQuads m).all fun q => decide (quadOn l.core q ∈ (st.part (st.partOf l.id)).quads) then
      .ok (st.issueCmd { st.mtxCmd (.tfuse m) l with counted := false } l)
    else .error { cause := 0x0F }) s)

/-- TSTAT (R275): not counted. One command reads for every thread of the bundle and clears once. -/
def execTstat (clr : Bool) (d t : Nat) (s : State) : Out :=
  .next (match s.bundleThreads with
    | [] => s
    | l :: r =>
      if s.reach l t then
        (s.issueCmd { s.mtxCmd (.tstat clr (regNo l.wb d) ((l :: r).map Thread.id)) l with
                      target := t / 12, tile := t, counted := false } l).1.retireAll
      else s.raise (s.bundleThreads.map fun x => { th := x.id, info := s.atIssue { cause := 0x0F }, resume := s.issue.pc }) none)

/-! ## The queue (R264, R265) -/

/-- The tiles that a command names. -/
def Cmd.tiles (c : Cmd) : List (Nat × Nat) :=
  match c.kind with
  | .tmm _ _ _ _ _ => (fuseOut c.bytes c.quad).map fun o => (o.1, c.tile % 12)
  | .tzero | .trd _ _ _ _ | .twr _ | .tepi _ | .tstat _ _ _ => [(c.tile / 12, c.tile % 12)]
  | _ => []

/-- The arrays that a command uses. -/
def Cmd.arrays (c : Cmd) : List Nat :=
  match c.kind with
  | .tmm _ _ _ _ _ => (fuseOut c.bytes c.quad).flatMap Prod.snd
  | .wld _ _ | .wlds _ _ => [c.target]
  | _ => []

def Cmd.isTmm (c : Cmd) : Bool := match c.kind with | .tmm _ _ _ _ _ => true | _ => false
def Cmd.isLatch (c : Cmd) : Bool := match c.kind with | .wld _ _ | .wlds _ _ => true | _ => false
def Cmd.isCbld (c : Cmd) : Bool := match c.kind with | .cbld _ => true | _ => false
def Cmd.isCb2 (c : Cmd) : Bool := match c.kind with | .wld .cb2 _ => true | _ => false

/-- A TMM streams for 256 of its 300 cycles. -/
def Cmd.streaming (c : Cmd) (now : Nat) : Bool := c.isTmm && decide (c.st = .running) && decide (now + 44 < c.due)

/-- The quadrants whose sets a TFUSE changes. -/
def affected (old m : Nat) : List Nat := (List.range 4).filter fun q => decide (fuseSet old q ≠ fuseSet m q)

/-- An earlier command e keeps c from beginning (R264, R274). -/
def blocks (fuse now : Nat) (e c : Cmd) : Bool :=
  let released := (match e.st with | .draining => true | .held _ _ => true | _ => false)
  (decide (e.id < c.id) && !released &&
    ((e.tiles.any fun t => decide (t ∈ c.tiles)) ||
     (c.isTmm && e.isLatch && e.arrays.any fun a => decide (a ∈ c.arrays)) ||
     (c.isTmm && (match e.kind with | .tfuse m => (affected fuse m).any fun q => decide (q ∈ c.arrays) | _ => false)) ||
     (c.isLatch && (e.arrays.any fun a => decide (a ∈ c.arrays)) &&
       (e.isLatch || (e.isTmm && (decide (e.st = .capture) || decide (e.st = .queued) || e.streaming now)))) ||
     (c.isCbld && e.isCbld) ||
     (match c.kind, e.kind with
      | .tfuse _, .tfuse _ => true
      | .tfuse m, _ => decide (e.quad ∈ affected fuse m) || decide (e.target ∈ affected fuse m)
      | _, _ => false))) ||
  (c.isCb2 && e.isCbld && decide (e.at_ < c.at_)) ||
  (c.isCbld && e.isCb2 && decide (e.at_ ≤ c.at_)) ||
  (c.isTmm && e.streaming now && e.arrays.any fun a => decide (a ∈ c.arrays))

/-- An epilogue entry that is FREE. -/
def Quad.freeEpi (q : Quad) : Option Nat := (List.range 4).find? fun i => decide ((tget EpiEntry.free q.epi i).st = .free)

/-- An entry of a quadrant is free that no tile is being copied into (R264, R271). -/
def State.epiRoom (s : State) (q : QuadId) : Bool :=
  let free := ((List.range 4).filter fun i => decide ((tget EpiEntry.free (s.quad q).epi i).st = .free)).length
  decide ((s.cmds.filter fun c => decide (c.st = .copyOut) && decide (quadOn c.core (c.tile / 12) = q)).length < free)

/-- The command may begin (R264, R265). -/
def State.mayBegin (s : State) (c : Cmd) : Bool :=
  let mates := s.cmds.filter fun e => e.isMatrix && decide (e.core = c.core) && decide (e.part = c.part) && decide (e.id ≠ c.id) &&
    !(s.teamSaved e.th.tmid)
  let fuse := tget 0 (s.core c.core).fuse c.part
  c.isMatrix && decide (c.st = .queued) && decide (s.guardOf c = .true) && s.teamRuns c.th.tmid &&
    (mates.all fun e => !(blocks fuse s.clock.cycle e c)) &&
    ((s.queueOf c.core c.part c.bytes c.quad).all fun e => !(decide (e.id < c.id) && s.slotHolds e)) &&
    (match c.kind with | .tepi _ => s.epiRoom (quadOn c.core (c.tile / 12)) | _ => true)

/-- How long a command runs (R274, R275, R277). -/
def CmdKind.cycles : CmdKind → Nat
  | .wld ty _ => if ty = .cb2 then 72 else 64
  | .wlds _ _ | .cbld _ => 8
  | .tmm _ _ _ _ _ => 300
  | .trd _ _ _ _ => 24
  | .tfuse _ => 32
  | .tstat _ _ _ => 4
  | _ => 16

/-- MATRIX_CAPTURE_END (R261): the capture is over; the issuing threads go on. -/
def execMatrixCaptureEnd (n : Nat) (s : State) : Out :=
  .next (match s.cmd? n with
    | none => s
    | some c =>
      if c.isMatrix ∧ c.st = .capture ∧ c.due ≤ s.clock.cycle then
        (s.modCmd n fun x => { x with st := .queued, regs := [] }).mapThreads fun t =>
          t.wakeIf (fun w => decide (w = .capture n)) s.clock.cycle
      else s)

/-- MATRIX_COMMAND_BEGIN (R264, R277). -/
def execMatrixCommandBegin (n : Nat) (s : State) : Out :=
  .next (match s.cmd? n with
    | none => s
    | some c =>
      if s.mayBegin c then
        s.modCmd n fun x => { x with st := (match x.kind with | .tepi _ => .copyOut | _ => .running),
                                     due := s.clock.cycle + x.kind.cycles }
      else s)

/-! ## Completion -/

/-- The codes that WLD latches for a column (R267): cb2 indices decoded once. -/
def wldCodes (ty : Ty) (table : Nat → Nat) (ws : List Word) : List Int :=
  if ty = .cb2 then (regElems 16 ws).flatMap (cb2Decode table)
  else (regElems (codeBits ty) ws).map (fun x => Int.ofNat x)

/-- Effect of a TMM at its completion on every column block (R269, R274). -/
def State.tmmEffect (c : Cmd) (a : Ty) (kh : Nat) (za : Bool) (rows : List (Nat × List Word × List Word)) (s : State) : State :=
  let n := if fuseVert c.bytes c.quad then 2 else 1
  let kTot := 64 * n * (32 / codeBits a)
  let rs := rows.map fun r => (r.1, (regElems (codeBits a) r.2.1).map (fun x => elemVal a (Int.ofNat x)),
    if scaleRegs a = 0 then List.replicate (kTot / 32) 127 else regElems 8 r.2.2)
  let s1 := (fuseOut c.bytes c.quad).foldl (fun st o =>
    let cols := (List.range 64).map fun j =>
      let ps := o.2.map fun q => (st.quad (quadOn c.core q)).latch.column (kTot / n) kh j
      (ps.flatMap Prod.fst, ps.flatMap Prod.snd)
    let t0 := st.accTile c.core o.1 (c.tile % 12)
    st.setAccTile c.core o.1 (c.tile % 12) (tmmTile rs cols (if za then Tile.zero else t0))) s
  c.arrays.foldl (fun st q => st.modQuad (quadOn c.core q) fun x => { x with tmms := x.tmms + 1 }) s1

/-- The registers that a TRD writes in one thread (R270). -/
def trdWords (ty : F2Ty) (sat : Bool) (rm : Rm) (g : Word) (row : List Word) : List Word :=
  if ty = .f32 then row
  else
    let v := (elemsUnder rm (row.map fun x => convert (F2Ty.elemTy ty) .f32 sat x.toNat) g).1
    (List.range 32).map fun i => BitVec.ofNat 32 (v.getD (2 * i) 0 + 65536 * v.getD (2 * i + 1) 0)

/-- The threads of a TRD that reads a poisoned tile park at it, to execute it again (R344). -/
def State.trdPoison (c : Cmd) (ths : List ThreadId) (s : State) : State :=
  let s1 := s.mapThreads fun t => if t.id ∈ ths then t.redoAt c.id c.pc c.wb none else t
  s1.raise (((s.threads.map Thread.id).filter fun t => decide (t ∈ ths)).map fun t =>
    { th := t, info := { cause := 0x0B, addr0 := c.pc }, resume := c.pc }) none

/-- The value of TSTAT (R275). -/
def State.tstatWord (s : State) (c : Cmd) : Nat :=
  let q := s.quad (quadOn c.core c.target)
  let t := s.accTile c.core c.target (c.tile % 12)
  let n (p : EpiState → Bool) : Nat := ((List.range 4).filter fun i => p (tget EpiEntry.free q.epi i).st).length
  Nat.min q.mism 255 * 2 ^ 24 + tget 0 (s.core c.core).fuse c.part % 8 * 2 ^ 21 +
    ((q.issuedFmt.map Ty.code).getD 0x1F) * 2 ^ 16 +
    n (fun e => match e with | .held _ _ => true | _ => false) * 2 ^ 9 + n (fun e => decide (e ≠ .free)) * 2 ^ 6 +
    (if q.eof then 32 else 0) + (if q.env then 16 else 0) + (if t.infs then 2 else 0) + (if t.nans then 1 else 0)

/-- A command's effect at its completion; the command is still in its queue. -/
def State.mtxEffect (c : Cmd) (s : State) : State :=
  match c.kind with
  | .wld ty cols =>
    let table (i : Nat) : Nat := tget 0 (s.core c.core).codebook (256 * c.part + i)
    s.modQuad (quadOn c.core c.target) fun x =>
      { x with latch := { fmt := some ty, cols := cols.map fun e => (e.1, wldCodes ty table e.2), scales := [] } }
  | .wlds _ cols =>
    s.modQuad (quadOn c.core c.target) fun x =>
      { x with latch := { x.latch with scales := cols.map fun e => (e.1, regElems 8 e.2) } }
  | .cbld ents => s.modCore c.core fun x =>
      { x with codebook := ents.foldl (fun m e => tput 0 m (256 * c.part + e.1) e.2) x.codebook }
  | .tzero => s.setAccTile c.core c.target (c.tile % 12) Tile.zero
  | .twr rows =>
    let t := s.accTile c.core c.target (c.tile % 12)
    let els := rows.foldl (fun m r => r.2.zipIdx.foldl (fun m x => tput 0 m (64 * r.1 + x.2) x.1) m) t.els
    s.setAccTile c.core c.target (c.tile % 12) { t with els := els, nans := false, infs := false }
  | .trd ty sat d ths =>
    let t := s.accTile c.core c.target (c.tile % 12)
    if t.poison then s.trdPoison c (ths.map Prod.fst)
    else ths.foldl (fun st x => st.modThread x.1 fun u =>
      u.setRegs d (trdWords ty sat x.2.1 x.2.2 ((List.range 64).map fun n => tget 0 t.els (64 * x.1.tid + n)))) s
  | .tmm a kh za rows _ => if c.moved = 0 then s.tmmEffect c a kh za rows else s
  | .tstat clr d ths =>
    let v := BitVec.ofNat 32 (s.tstatWord c)
    let s1 := ths.foldl (fun st x => st.modThread x fun u => u.setReg d v) s
    if clr then s1.modQuad (quadOn c.core c.target) fun x => { x with env := false, eof := false } else s1
  | _ => s

/-- The threads that a TRD's poison would park are free to park. -/
def State.trdFree (s : State) (c : Cmd) : Bool :=
  match c.kind with
  | .trd _ _ _ ths => !(s.accTile c.core c.target (c.tile % 12)).poison ||
      (ths.all fun x => match s.thread? x.1 with | some t => t.park.isNone | none => true)
  | _ => true

/-- The command may complete: its time has come. -/
def State.mayComplete (s : State) (c : Cmd) : Bool :=
  c.isMatrix && decide (c.st = .running) && decide (c.due ≤ s.clock.cycle) && s.trdFree c &&
    (match c.kind with | .tfuse _ => false | _ => true)

/-- The TMMs that have streamed through an array whose latch a command now writes: their products, formed from the old
weights and scales, go into their tiles before (R264, R277). -/
def State.latchFirst (c : Cmd) (s : State) : State :=
  if ¬ c.isLatch then s
  else (s.cmds.filter fun e => e.isTmm && decide (e.core = c.core) && decide (e.id < c.id) && decide (e.st = .running) &&
    decide (e.moved = 0) && e.arrays.any fun a => decide (a ∈ c.arrays)).foldl (fun st e =>
      (st.mtxEffect e).modCmd e.id fun x => { x with moved := 1 }) s

/-- An entry of a quadrant is free for a command that waits: the copy takes 16 cycles from now on (R271, R277). -/
def State.startCopyOut (n : Nat) (s : State) : State :=
  match s.cmd? n with
  | none => s
  | some c =>
    if c.st = .copyWait ∧ s.epiRoom (quadOn c.core (c.tile / 12)) then
      s.modCmd n fun x => { x with st := .copyOut, due := s.clock.cycle + 16 }
    else s

/-- MATRIX_COMMAND_COMPLETE (R269 to R271, R275 to R277): a TMM with EPI goes on to its epilogue. What the spare row finds
is an event of its own, ECC_CORRECTED_EVENT (R276). -/
def execMatrixCommandComplete (n : Nat) (s : State) : Out :=
  .next (match s.cmd? n with
    | none => s
    | some c =>
      if s.mayComplete c then
        match c.kind with
        | .tmm _ _ _ _ (some _) => ((s.mtxEffect c).modCmd n fun x => { x with st := .copyWait }).startCopyOut n
        | _ => ((s.latchFirst c).mtxEffect c).finishCmd c stDone
      else s)

/-- TFUSE_EFFECT (R274). -/
def execTfuseEffect (n : Nat) (s : State) : Out :=
  .next (match s.cmd? n with
    | none => s
    | some c =>
      match c.kind with
      | .tfuse m =>
        if c.st = .running ∧ c.due ≤ s.clock.cycle then
          (s.modCore c.core fun x => { x with fuse := tput 0 x.fuse c.part m }).dropCmd n
        else s
      | _ => s)

/-! ## The epilogue (R271 to R273) -/

/-- The epilogue descriptor of a command. -/
def Cmd.epi (c : Cmd) : Option EpiDesc :=
  match c.kind with
  | .tmm _ _ _ _ e => e
  | .tepi e => some e
  | _ => none

/-- y for element i (row-major) of an entry: its bits and flags (R271). -/
def epiElem (e : EpiDesc) (x : Word) (bias i : Nat) : Nat × Nat :=
  let u := (Fmt.f32.fma .rne false (Fmt.f32.dec x.toNat) (Fmt.f32.dec e.scale) (Fmt.f32.dec bias)).1
  let v := match e.act with
    | 1 => (approx32 .tanh u).1
    | 2 => (approx32 .sigm u).1
    | 3 =>
      let w := if (fltCond .ge (Fmt.f32.dec u) (.fin false 0 0)).1 then u
        else (Fmt.f32.mul .rne false (Fmt.f32.dec u) (Fmt.f32.dec e.alpha)).1
      (Fmt.f32.minmax false w e.hi).1
    | _ => u
  convert ((otyOf e.oty).getD .f32) .f32 e.osat v (elemMode e.rm (rngAdv i e.seed)).1

/-- The stores of row r: offset within the row and the bytes, and the flags of its conversions. -/
def epiStores (e : EpiDesc) (img : Tile) (bias : List Nat) (r : Nat) : List (Nat × List Byte) × Nat :=
  let el (n : Nat) : Nat × Nat := epiElem e (tget 0 img.els (64 * r + n)) (bias.getD n 0) (64 * r + n)
  let fl := (List.range 64).foldl (fun f n => forr f (el n).2) 0
  let oty := (otyOf e.oty).getD .f32
  if oty = .e2m1 then
    ((List.range 32).map fun j => (j, natLE 1 ((el (2 * j)).1 + 16 * (el (2 * j + 1)).1)), fl)
  else
    let z := (CvtClass.width (Ty.cvtClass oty)) / 8
    ((List.range 64).map fun n => (z * n, natLE z (el n).1), fl)

/-- The bias vector, word by word; words of another device are asked for, and none is missing at the end (R188, R271). -/
def State.epiBias (c : Cmd) (e : EpiDesc) : List Nat → List Nat → Bool → Bool → State → State × Except EngRes (List Nat × Bool)
  | [], acc, oob, miss, s => (s, if miss then .error .asked else .ok (acc, oob))
  | n :: r, acc, oob, miss, s =>
    let v := s.engForm c e.bias false (e.boff + 4 * n : Nat) 4
    match v.2 with
    | .ok ks =>
      let w := v.1.engRead c ks
      State.epiBias c e r (acc ++ [leNat w.2]) oob miss w.1
    | .outside => State.epiBias c e r (acc ++ [0]) true miss v.1
    | .asked => State.epiBias c e r (acc ++ [0]) oob true v.1
    | x => (v.1, .error x)

/-- The places of a row's stores. -/
def State.epiPlaces (c : Cmd) (e : EpiDesc) (row : Nat) :
    List (Nat × List Byte) → List (List (Nat × Byte)) → Bool → State → State × Except EngRes (List (List (Nat × Byte)) × Bool)
  | [], acc, oob, s => (s, .ok (acc, oob))
  | x :: r, acc, oob, s =>
    let v := s.engForm c e.out true (e.ooff + row * e.out.stride + x.1 : Nat) x.2.length
    match v.2 with
    | .ok ks => State.epiPlaces c e row r (acc ++ [List.zip ks x.2]) oob v.1
    | .outside => State.epiPlaces c e row r acc true v.1
    | y => (v.1, .error y)

/-- The entry of a quadrant with its command. -/
def State.epiAt (s : State) (q : QuadId) (i : Nat) : EpiEntry := tget EpiEntry.free (s.quad q).epi i

def State.setEpi (q : QuadId) (i : Nat) (x : EpiEntry) (s : State) : State :=
  s.modQuad q fun y => { y with epi := tput EpiEntry.free y.epi i x }

/-- A row of an entry has been stored. -/
def EpiEntry.stored (r nrow : Nat) (x : EpiEntry) : EpiEntry :=
  let done := r :: x.ahead
  let next := ((List.range (nrow + 2)).find? fun n => decide (x.row ≤ n ∧ n ∉ done)).getD (nrow + 1)
  { x with row := next, ahead := done.filter fun n => decide (next < n) }

/-- A row whose stores another device has not taken is to be stored again. -/
def EpiEntry.unstored (r : Nat) (x : EpiEntry) : EpiEntry :=
  if r < x.row then
    { x with row := r, ahead := ((List.range x.row).filter fun n => decide (r < n)) ++ x.ahead, marks := x.marks.filter fun m => decide (m.1 ≠ r) }
  else { x with ahead := x.ahead.filter fun n => decide (n ≠ r), marks := x.marks.filter fun m => decide (m.1 ≠ r) }

/-- The place of the bias read among an entry's accesses; rows have their own numbers. -/
def biasPlace : Nat := 64

/-- One access of an entry: its bias read, or the stores of one row. The state and the entry after it, or what stops it. -/
def State.epiTry (c : Cmd) (e : EpiDesc) (x : EpiEntry) (place : Nat) (s : State) : State × Except EngRes EpiEntry :=
  if x.image.poison then (s, .error (.fault 0x0B 0 0 none))
  else if place = biasPlace then
    let b := s.epiBias c e (List.range 64) [] false false
    match b.2 with
    | .error y => (b.1, .error y)
    | .ok v => (b.1, .ok { x with bias := some v.1, oob := x.oob || v.2 })
  else
    let w := epiStores e x.image (x.bias.getD []) place
    let p := s.epiPlaces c e place w.1 [] false
    match p.2 with
    | .error y => (p.1, .error y)
    | .ok v =>
      let s1 := (v.1.foldl (fun st b => st.engWrite c b) p.1).modQuad (quadOn c.core (c.tile / 12)) fun q =>
        { q with env := q.env || decide (w.2 % 2 = 1), eof := q.eof || decide (w.2 / 4 % 2 = 1) }
      (s1, .ok ({ x with oob := x.oob || v.2, marks := x.marks ++ (p.1.newMarks s1).map fun m => (place, m) }.stored place e.nrow))

/-- The next access of an entry, those that are stalled apart: none when every row has had its turn. -/
def EpiEntry.next (c : Cmd) (e : EpiDesc) (x : EpiEntry) : Option Nat :=
  if e.ben ∧ x.bias = none then (if (c.stalledAt biasPlace).isSome then none else some biasPlace)
  else (List.range (e.nrow + 1)).find? fun r => decide (x.row ≤ r ∧ r ∉ x.ahead ∧ c.stalledAt r = none)

/-- The virtual addresses of an access of an entry. -/
def epiAddrs (e : EpiDesc) (place : Nat) : List Nat :=
  let at_ (c : Cap) (o z : Nat) : List Nat := match formAccess c o z with | .ok ps => ps.map Prod.fst | _ => []
  if place = biasPlace then (List.range 64).flatMap fun n => at_ e.bias (e.boff + 4 * n) 4
  else
    let z := match otyOf e.oty with | some ty => CvtClass.width (Ty.cvtClass ty) | none => 32
    (List.range 64).flatMap fun n => at_ e.out (e.ooff + place * e.out.stride + n * z / 8) (Nat.max 1 (z / 8))

/-- The level that serves an engine's read of a byte gives its time: the L1 where the core's own write of it is the latest
(R13, R209). -/
def State.engDelay (s : State) (c : Cmd) (a : Nat) : Nat :=
  if ((s.core c.core).pending a).isSome then 28 else s.lineDelay (!(s.engMisses c (a / 128))) (a / 128)

/-- Cycles until an access of an entry is made: a row every 8 cycles, a bias read at the time of the level that serves it,
and a walk where a line misses the translation caches (R271). A remote capability's addresses are translated where they
arrive. -/
def State.epiWait (s : State) (c : Cmd) (e : EpiDesc) (place : Nat) : Nat :=
  let vf := s.vfOf c.th
  let as := if Cap.remote (if place = biasPlace then e.bias else e.out) then [] else epiAddrs e place
  let hit (va : Nat) : Option TlbEntry := (tlbHit (s.quad c.qid).tlb vf va).orElse fun _ => tlbHit (s.core c.core).tlb vf va
  let walk := if as.any fun va => (hit va).isNone then Config.walkCycles s.clock.tick else 0
  walk + (if place = biasPlace then
      (as.filterMap fun va => (hit va).bind fun t => if t.remote.isSome then none else some (t.frame + va % t.size)).foldl
        (fun n a => Nat.max n (s.engDelay c a)) 28
    else 8)

/-- The entry with the time of its next access set. -/
def State.epiSchedule (s : State) (c : Cmd) (e : EpiDesc) (x : EpiEntry) : EpiEntry :=
  { x with due := s.clock.cycle + ((x.next c e).map (s.epiWait c e)).getD 0 }

/-- EPILOGUE_COPY (R271, R272): the tile goes into the lowest free entry of its quadrant and is released. -/
def execEpilogueCopy (n : Nat) (s : State) : Out :=
  .next (match s.cmd? n with
    | none => s
    | some c =>
      match c.epi, (s.quad (quadOn c.core (c.tile / 12))).freeEpi with
      | some e, some i =>
        if c.st = .copyOut ∧ c.due ≤ s.clock.cycle then
          let x : EpiEntry :=
            { EpiEntry.free with st := .draining, cmd := n, tileNo := c.tile, image := s.accTile c.core (c.tile / 12) (c.tile % 12) }
          (s.setEpi (quadOn c.core (c.tile / 12)) i (s.epiSchedule c e x)).modCmd n fun y => { y with st := .draining }
        else s
      | _, _ => s)

/-- The accesses of an entry whose time has come, each by its place: those that were stalled, and the next. -/
def State.epiDue (s : State) (c : Cmd) (e : EpiDesc) (x : EpiEntry) : List Nat :=
  if x.st ≠ .draining ∨ ¬ s.earlierDone c then []
  else c.stalls.map Prod.fst ++ (if x.due ≤ s.clock.cycle then (x.next c e).toList else [])

/-- An entry drains as far as it goes in this cycle; an access that stalls keeps only its own place from being done (R19). -/
def State.epiAdvance (q : QuadId) (i : Nat) (s : State) : State :=
  let x := s.epiAt q i
  match s.cmd? x.cmd with
  | none => s
  | some c => match c.epi with
    | none => s
    | some e =>
      match s.epiDue c e x with
      | [] => s
      | places =>
        let r := places.foldl (fun (acc : State × EpiEntry × List Nat × Bool) p =>
          let t := acc.1.epiTry c e acc.2.1 p
          match t.2 with
          | .ok y => (t.1, y, acc.2.2.1, acc.2.2.2)
          | .error (.wait _ _ _ _ _) => (t.1, acc.2.1, acc.2.2.1 ++ [p], acc.2.2.2)
          | .error _ => (t.1, acc.2.1, acc.2.2.1, true)) (s, x, [], false)
        let c1 := c.setStalls r.2.2.1 s.clock.cycle
        let s1 := r.1.modCmd c.id fun y => { y with stalls := c1.stalls }
        if r.2.2.2 then s1.setEpi q i r.2.1
        else s1.setEpi q i (if x.due ≤ s.clock.cycle then s1.epiSchedule c1 e r.2.1 else r.2.1)

/-- A row of an entry whose packets another device has not acknowledged, through a port of which a condition holds. -/
def EpiEntry.openRow (x : EpiEntry) (s : State) (p : Nat → Bool) : Option Nat :=
  (x.marks.find? fun m => s.unackedAt m.2 && p m.2.1).map Prod.fst

/-- An access of a draining entry that faults: its place, and the fault. A row on its way to another device fails with its
port (R320). -/
def State.epiFault (q : QuadId) (i : Nat) (s : State) : Option (Cmd × Nat × EngRes) :=
  let x := s.epiAt q i
  (s.cmd? x.cmd).bind fun c => c.epi.bind fun e =>
    (((s.epiDue c e x).findSome? fun p => match (s.epiTry c e x p).2 with
      | .error r => (match r.late c p s.clock.cycle with
        | .fault k n a d => some (c, p, EngRes.fault k n a d)
        | _ => none)
      | .ok _ => none).orElse fun _ =>
      if x.st ≠ .draining then none
      else (x.openRow s fun p => decide ((s.port p).st = .down)).map fun r => (c, r, .fault 0x0D 0 ((epiAddrs e r).headD 0) none))

/-- The access of a draining entry that the device which holds its bytes has refused (R17): a row on its way, or the bias
vector. That it refuses comes from the agenda. -/
def State.epiRefused (q : QuadId) (i : Nat) (s : State) : Option (Cmd × Nat × EngRes) :=
  let x := s.epiAt q i
  (s.cmd? x.cmd).bind fun c => c.epi.bind fun e =>
    if x.st ≠ .draining then none
    else ((x.openRow s fun _ => true).orElse fun _ => if c.asks.isEmpty then none else some biasPlace).map fun r =>
      (c, r, .fault 0x0D 0 ((epiAddrs e r).headD 0) none)

/-- EPILOGUE_DRAIN_COMPLETE (R271, R272): every row is stored, another device has acknowledged those it holds; what the
entry wrote performs. -/
def execEpilogueDrainComplete (q : QuadId) (i : Nat) (s : State) : Out :=
  let x := s.epiAt q i
  .next (match s.cmd? x.cmd with
    | none => s
    | some c => match c.epi with
      | none => s
      | some e =>
        if x.st = .draining ∧ e.nrow < x.row ∧ x.openRow s (fun _ => true) = none then
          ((s.setEpi q i EpiEntry.free).modThread c.th fun t => { t with oobflag := t.oobflag || x.oob }).finishCmd c stDone
        else s)

/-- EPILOGUE_ENTRY_FAULT (R17, R272, R273): the entry is HELD; rows already stored stand. -/
def execEpilogueEntryFault (q : QuadId) (i : Nat) (s : State) : Out :=
  let x := s.epiAt q i
  .next (match (s.epiFault q i).orElse fun _ => s.epiRefused q i with
    | some (c, r, .fault cause reason va die) =>
      (s.setEpi q i { x.unstored r with st := .held cause va }).holdCmd c q.quad
        { cause := 0x10, under := cause, reason := reason, addr1 := va, info := x.tileNo + 256 * i, die := die }
    | _ => s)

/-- EPILOGUE_ENTRY_RESOLVE (R272): draining resumes at the faulting row. -/
def execEpilogueEntryResolve (q : QuadId) (i : Nat) (s : State) : Out :=
  let x := s.epiAt q i
  .next (match x.st, s.cmd? x.cmd with
    | .held _ _, some c => match c.epi with
      | some e =>
        ((s.setEpi q i (s.epiSchedule c e { x with st := .draining, image := { x.image with poison := false } })).modCmd x.cmd
          fun y => { y with st := .draining }).unowe x.cmd
      | none => s
    | _, _ => s)

/-- Frees the entry of a command that is killed (R272, R349). -/
def State.killEpi (q : QuadId) (i : Nat) (s : State) : State :=
  match s.cmd? (s.epiAt q i).cmd with
  | none => s.setEpi q i EpiEntry.free
  | some c => ((s.setEpi q i EpiEntry.free).finishCmd c stCancelled).unowe c.id

/-- EPILOGUE_ENTRY_KILL (R272). -/
def execEpilogueEntryKill (q : QuadId) (i : Nat) (s : State) : Out :=
  .next (match (s.epiAt q i).st with
    | .held _ _ => s.killEpi q i
    | _ => s)

end Sys2Proof.Machine
end

