-- ==== Sys2Proof/Machine/Copy.lean ====
section
/-! DEFINITION. The copy engine (R284 to R304): tiles, layout descriptors, CPY and CPYR with their admission, arrival
and completion, guard slots, TWAIT and TQRY. -/

namespace Sys2Proof.Machine
open Host

/-! ## Acting once for each team (R63, R299) -/

/-- An instruction that acts once for each team of the bundle, by its leader: on a fault the team's threads park, on
`.hold` the leader is held, else all retire. -/
def State.perTeam (act : Thread → State → State × LaneRes) (s : State) : State :=
  let r := s.bundleTeams.foldl (fun (acc : State × List LaneFault) tm =>
    let ts := s.bundleThreads.filter fun t => decide (t.id.tmid = tm)
    match s.teamLeader tm with
    | none => acc
    | some l0 =>
      let l := { l0 with pc := s.nextPc }
      let v := act l acc.1
      let rest (st : State) : State := ts.foldl (fun x t => if t.id = l.id then x else
        x.modThread t.id fun y => { y with pc := s.nextPc }.retire) st
      match v.2 with
      | .done l' => (rest (v.1.modThread l.id fun _ => l'.retire), acc.2)
      | .hold l' => (rest (v.1.modThread l.id fun _ => l'.heldAt l0.pc), acc.2)
      | .fault i p => (v.1, acc.2 ++ ts.map fun t => { th := t.id, info := s.atIssue i, resume := p })) (s, [])
  r.1.raise r.2 none

/-! ## Tiles (R287) -/

/-- Copies in flight that write entry m of a core. -/
def State.copiesInto (s : State) (c : CoreId) (m : Nat) : Nat := tget 0 (s.core c).tileCopies m

/-- TSET on one team's entry: a transition without a row raises cause 0x0E and changes nothing. -/
def State.tset (m : Nat) (f : DWord → Nat → Option DWord) (s : State) : State :=
  s.perTeam (fun l st =>
    let e := st.tile l.core m
    match (st.team? l.id.tmid).bind fun t => if t.owns m then f e (st.copiesInto l.core m) else none with
    | none => (st, .fault { cause := 0x0E, info := m } s.issue.pc)
    | some e' => (st.setTile l.core m e', .done l))

/-- TSET.fill (R287). -/
def execTsetFill (m n : Nat) (rw : Bool) (s : State) : Out :=
  .next (s.tset m fun e _ => if tState e = 0 ∨ tState e = 2 then some (tMake 1 rw (tOwner e) n 0 (tSize e) (tBase e)) else none)

/-- TSET.ready (R287). -/
def execTsetReady (m : Nat) (s : State) : Out :=
  .next (s.tset m fun e k =>
    if tState e = 0 then some (tSt e 2)
    else if tState e = 1 ∧ k = 0 then some (tMake 2 (tRW e) (tOwner e) (tExpect e) 0 (tSize e) (tBase e))
    else none)

/-- TSET.empty (R287). -/
def execTsetEmpty (m : Nat) (s : State) : Out :=
  .next (s.tset m fun e k =>
    if tState e = 2 ∨ tState e = 0 then some (tSt e 0)
    else if tState e = 1 ∧ k = 0 then some (tMake 0 (tRW e) (tOwner e) (tExpect e) 0 (tSize e) (tBase e))
    else none)

/-- An arrival at a FILLING tile. -/
def tileArrive (e : DWord) : DWord :=
  if tState e ≠ 1 then e
  else if tArrived e + 1 = tExpect e then tMake 2 (tRW e) (tOwner e) (tExpect e) 0 (tSize e) (tBase e)
  else tMake 1 (tRW e) (tOwner e) (tExpect e) (tArrived e + 1) (tSize e) (tBase e)

/-- A DRAINING tile whose copy has ended becomes EMPTY. -/
def tileDrained (e : DWord) : DWord := if tState e = 3 then tSt e 0 else e

/-- TWAIT (R297, R300). -/
def execTwait (m : Nat) (s : State) : Out :=
  .next ((s.parkOwed false).lanes fun t =>
    match s.team? t.id.tmid with
    | some tm => if tm.owns m then .done { t with wait := .tile m } else .fault { cause := 0x0E, info := m } s.issue.pc
    | none => .fault { cause := 0x0E, info := m } s.issue.pc)

def SlotState.code : SlotState → Nat
  | .free => 0 | .unresolved => 1 | .true => 2 | .false => 3

/-- Commands bound to the current generation of a slot; one whose decision is outstanding is not bound yet (R292). -/
def State.boundTo (s : State) (t : TeamId) (y gen : Nat) : Nat :=
  (s.cmds.filter fun c => decide (c.th.tmid = t) && decide (c.guard = some (y, gen)) && decide (c.st ≠ .decide)).length

/-- TQRY (R300). -/
def execTqry (k : TqKind) (d idx : Nat) (s : State) : Out :=
  .next (match k with
    | .tile => s.lanes fun t =>
        match s.team? t.id.tmid with
        | some tm => if tm.owns idx then .done (t.dstPair d (s.tile t.core idx)) else .fault { cause := 0x0E, info := idx } s.issue.pc
        | none => .fault { cause := 0x0E, info := idx } s.issue.pc
    | .cnt clr =>
        let s1 := s.lanesOk fun t => t.dst d (((s.team? t.id.tmid).map fun tm => tget 0 tm.wstat idx).getD 0)
        if clr then s.bundleTeams.foldl (fun st tm => st.modTeam tm fun x => { x with wstat := tdel x.wstat idx }) s1 else s1
    | .slot => s.lanesOk fun t => t.dst d (BitVec.ofNat 32 (((s.team? t.id.tmid).map fun tm =>
        SlotState.code (tm.guardSlot idx).st + 256 * Nat.min 255 (s.boundTo tm.id idx (tm.guardSlot idx).gen)).getD 0)))

/-! ## Guard slots (R298, R299) -/

def Team.setSlot (y : Nat) (x : Slot) (t : Team) : Team := { t with y := tput Slot.reset t.y y x }

/-- A command bound to a generation has not begun. -/
def State.slotWaits (s : State) (t : TeamId) (y gen : Nat) : Bool :=
  s.cmds.any fun c => decide (c.th.tmid = t) && decide (c.guard = some (y, gen)) &&
    (decide (c.st = .queued) || decide (c.st = .capture))

/-- GSLOT: a new generation, or a wait until the old one holds no command. -/
def execGslot (y : Nat) (s : State) : Out :=
  .next (s.perTeam (fun l st =>
    match st.team? l.id.tmid with
    | none => (st, .done l)
    | some t =>
      let x := t.guardSlot y
      if x.st = .unresolved then (st, .fault { cause := 0x13 } s.issue.pc)
      else if st.slotWaits t.id y x.gen then (st, .hold { l with wait := .gslot y })
      else (st.modTeam t.id (Team.setSlot y { st := .unresolved, gen := x.gen + 1 }), .done l)))

/-- GSLOT_GENERATION_ADVANCE (R298): the generation rises, and the waiting GSLOT retires; another GSLOT may have come
before it. -/
def execGslotGenerationAdvance (tm : TeamId) (y : Nat) (s : State) : Out :=
  .next (match s.team? tm, (s.teamThreads tm).find? fun t => decide (t.wait = .gslot y) && t.park.isNone with
    | some t, some u =>
      let x := t.guardSlot y
      if x.st = .unresolved then s.raise [{ th := u.id, info := { cause := 0x13, addr0 := u.pc }, resume := u.pc }] none
      else if s.slotWaits tm y x.gen then s
      else (s.modTeam tm (Team.setSlot y { st := .unresolved, gen := x.gen + 1 })).modThread u.id fun v =>
        { v.passHeld 2 with nextAt := s.clock.cycle + 4 }
    | _, _ => s)

/-- GRES (R298, R299): what follows for the commands bound to the slot is settled after the step. -/
def execGres (m : GresMode) (n p : Nat) (neg : Bool) (s : State) : Out :=
  .next (s.perTeam (fun l st =>
    match st.team? l.id.tmid with
    | none => (st, .done l)
    | some t =>
      let x := t.guardSlot n
      if x.st ≠ .unresolved then (st, .fault { cause := 0x13 } s.issue.pc)
      else
        let cs := (s.bundleThreads.filter fun u => decide (u.id.tmid = t.id)).map fun u => u.pred p != neg
        let v := match m with
          | .lead => l.pred p != neg
          | .any => cs.any id
          | .all => cs.all id
        (st.modTeam t.id (Team.setSlot n { x with st := if v then .true else .false }), .done l)))

/-! ## The command block and the descriptor (R288 to R290) -/

def blk64 (b : List Word) (i : Nat) : Nat := blk b i + 2 ^ 32 * blk b (i + 1)
def blkST (b : List Word) : Bool := (blk b 0).testBit 7
def blkDT (b : List Word) : Bool := (blk b 0).testBit 6
def blkDrain (b : List Word) : Bool := (blk b 0).testBit 5
def blkSM (b : List Word) : Nat := blk b 0 / 2 ^ 14 % 64
def blkDM (b : List Word) : Nat := blk b 0 / 2 ^ 8 % 64
def blkFEN (b : List Word) : Bool := (blk b 7).testBit 27

/-- A copy's block obeys R290. -/
def copyBlkOk (remote : Bool) (b : List Word) : Bool :=
  decide (blk b 0 % 32 = 0) && decide (blk b 1 / 1024 % 64 = 0) && (!(blkDrain b) || blkST b) &&
    decide (blk64 b 2 < 2 ^ 48) && decide (blk64 b 4 < 2 ^ 48) && decide (blk b 6 % 64 = 0) &&
    (if remote then decide (blk b 7 % 2 ^ 18 = 0) && decide (blk b 7 / 2 ^ 18 % 64 < 48) &&
        decide (blk b 8 % 4 = 0)
      else decide (blk b 7 = 0))

/-- A layout descriptor as its sixteen words. -/
abbrev Dsc := List Nat
def Dsc.z (d : Dsc) : Nat := 2 ^ (d.getD 0 0 % 8)
/-- The extents of the four dimensions, as counts. -/
def Dsc.n (d : Dsc) (k : Nat) : Nat := d.getD (1 + k / 2) 0 / 2 ^ (16 * (k % 2)) % 65536 + 1
def Dsc.sstr (d : Dsc) (k : Nat) : Int := sInt 32 (d.getD (3 + k) 0)
def Dsc.dstr (d : Dsc) (k : Nat) : Int := sInt 32 (d.getD (7 + k) 0)
def Dsc.sswz (d : Dsc) : Nat := d.getD 0 0 / 256 % 256
def Dsc.dswz (d : Dsc) : Nat := d.getD 0 0 / 65536 % 256
/-- The bytes that the copy moves. -/
def Dsc.bytes (d : Dsc) : Nat := Dsc.n d 0 * Dsc.n d 1 * Dsc.n d 2 * Dsc.n d 3 * Dsc.z d

/-- A descriptor lies in memory at a multiple of 64 bytes (R288). -/
def dscAligned (b : List Word) (y : Cap) : Bool := decide ((y.base + blk b 6) % 64 = 0)

/-- The descriptor obeys R288 for the ends of a block, and the offsets the alignment of R289. -/
def dscOk (b : List Word) (y : Cap) (d : Dsc) : Bool :=
  let z : Int := Dsc.z d
  dscAligned b y &&
  decide (d.getD 0 0 / 2 ^ 24 = 0) && decide (d.getD 0 0 / 8 % 32 = 0) && decide (d.getD 0 0 % 8 < 5) &&
    (blkST b || decide (Dsc.sswz d = 0)) && (blkDT b || decide (Dsc.dswz d = 0)) &&
    ((List.range 4).all fun k => decide (Dsc.sstr d k % z = 0) && decide (Dsc.dstr d k % z = 0)) &&
    ((List.range 5).all fun k => decide (d.getD (11 + k) 0 = 0)) &&
    decide (((blk64 b 2 : Nat) : Int) % z = 0) && decide (((blk64 b 4 : Nat) : Int) % z = 0)

/-- The offsets of each element, in visiting order (R289). -/
def copyOffsets (b : List Word) (d : Dsc) : List (Int × Int) :=
  (List.range (Dsc.n d 3)).flatMap fun i3 => (List.range (Dsc.n d 2)).flatMap fun i2 =>
    (List.range (Dsc.n d 1)).flatMap fun i1 => (List.range (Dsc.n d 0)).map fun i0 =>
      (Int.ofNat (blk64 b 2) + Int.ofNat i0 * Dsc.sstr d 0 + Int.ofNat i1 * Dsc.sstr d 1 + Int.ofNat i2 * Dsc.sstr d 2 +
         Int.ofNat i3 * Dsc.sstr d 3,
       Int.ofNat (blk64 b 4) + Int.ofNat i0 * Dsc.dstr d 0 + Int.ofNat i1 * Dsc.dstr d 1 + Int.ofNat i2 * Dsc.dstr d 2 +
         Int.ofNat i3 * Dsc.dstr d 3)

/-- The lowest and the highest offset of one end. -/
def spanOf (start : Int) (d : Dsc) (str : Nat → Int) : Int × Int :=
  (List.range 4).foldl (fun a k =>
    let e : Int := ((Dsc.n d k : Int) - 1) * str k
    (if e < 0 then a.1 + e else a.1, if e < 0 then a.2 else a.2 + e)) (start, start)

/-- An element's offset through a swizzle, where the swizzled element stays within `ext` bytes (R289). -/
def placed (o : Int) (z ext sw : Nat) : Option Nat :=
  if o < 0 ∨ ext < swz o.toNat sw + z then none else some (swz o.toNat sw)

/-- All elements of an end lie in bounds (R289). -/
def endIn (offs : List Int) (span : Int × Int) (z ext sw : Nat) : Bool :=
  if sw = 0 then decide (0 ≤ span.1) && decide (span.2 + z ≤ (ext : Int)) else offs.all fun o => (placed o z ext sw).isSome

/-! ## Issue (R292) -/

/-- The source, destination, descriptor and flag capabilities of a copy, checked (R17, R292). -/
def State.copyCaps (s : State) (l : Thread) (remote : Bool) (b : List Word) : Except RecInfo (Cap × Cap × Cap × Cap) :=
  let bad (k : Nat) : Except RecInfo (Cap × Cap × Cap × Cap) := .error { cause := 0x04, info := k + 16 }
  let sk := blk b 0 / 2 ^ 28
  let dk := blk b 0 / 2 ^ 24 % 16
  let fk := blk b 7 / 2 ^ 28
  match (if blkST b then .ok Cap.zero else s.blockCap l sk capR),
      (if blkDT b ∧ ¬ remote then .ok Cap.zero else s.blockCap l dk capW), s.blockCap l (blk b 0 / 2 ^ 20 % 16) capR,
      (if remote then s.blockCap l fk capA else .ok Cap.zero) with
  | .error i, _, _, _ => .error i
  | _, .error i, _, _ => .error i
  | _, _, .error i, _ => .error i
  | _, _, _, .error i => .error i
  | .ok a, .ok d, .ok y, .ok f =>
    if remote then
      if ¬ cPermBit d capREM then bad dk
      else if ¬ cPermBit f capREM ∨ f.device ≠ d.device then bad fk
      else .ok (a, d, y, f)
    else if cPermBit a capREM then bad sk
    else if cPermBit y capREM then bad (blk b 0 / 2 ^ 20 % 16)
    else if cPermBit d capREM then bad dk else .ok (a, d, y, f)

/-- The tiles of a copy are in the states R292 asks: at its issue, and again when it is accepted (R287; log entry 59). -/
def State.copyTiles (s : State) (t : ThreadId) (core : CoreId) (remote : Bool) (b : List Word) : Except RecInfo Unit :=
  let in_ (m st : Nat) : Bool := match s.team? t.tmid with
    | some x => x.owns m && decide (tState (s.tile core m) = st)
    | none => false
  if blkST b ∧ ¬ in_ (blkSM b) 2 then .error { cause := 0x0E, info := blkSM b }
  else if ¬ remote ∧ blkDT b ∧ ¬ in_ (blkDM b) 1 then .error { cause := 0x0E, info := blkDM b }
  else .ok ()

/-- The pieces of a descriptor of 64 bytes. -/
def dscPieces (c : Cap) (b : List Word) : Formed := formAccess c (blk b 6 : Nat) 64

/-- Where the pieces of a descriptor lie: in another device, or as they are translated. -/
def State.dscKeys (y : Cap) (q : QuadId) (vf : Nat) (ps : List (Nat × Nat)) (s : State) : State × Except (Nat × Nat) (List (Nat × Nat)) :=
  if Cap.remote y then (s, .ok (ps.map fun p => (remoteKey y.device p.1, p.2))) else s.translateAll q vf .rd ps

/-- The checks of CPY and CPYR at issue, and the command that then reads its descriptor; a block that breaks R290 or a
descriptor out of bounds leaves no descriptor to read. -/
def State.copyIssue (remote : Bool) (d p : Nat) (l : Thread) (s : State) : Except RecInfo (State × Thread) :=
  let b := l.regsFrom (regNo l.wb p) (if remote then 10 else 8)
  match s.copyCaps l remote b with
  | .error i => .error i
  | .ok (a, dst, y, f) =>
    if remote ∧ ([dst, a, y].any fun k => Cap.remote k && !(s.inDomain k.device)) then .error { cause := 0x0D }
    else
      match s.copyTiles l.id l.core remote b, s.guardFor l b with
      | .error i, _ => .error i
      | _, .error i => .error i
      | .ok _, .ok g =>
        let kind : CmdKind := if remote then .cpyr b a dst y f else .cpy b a dst y
        let c : Cmd := { s.newCmd kind l with
          st := .decide, cw := blkCw b, guard := g, dreg := regNo l.wb d, counted := false, due := s.clock.cycle + 24 }
        let go (c : Cmd) : Except RecInfo (State × Thread) := .ok (s.addCmd c, { l with wait := .status c.id })
        if ¬ copyBlkOk remote b then go c
        else match dscPieces y b with
          | .misaligned _ => go c
          | .outside va => if cPermBit y capTOOB then .error { cause := 0x05, addr1 := va } else go c
          | .ok ps =>
            match (s.dscKeys y l.qid (s.vfOf l.id) ps).2 with
            | .error e => .error { cause := 0x03, reason := e.1, addr1 := e.2 }
            | .ok ks => go { c with due := s.clock.cycle + s.loadDelay l (pieceBytes ks) + (if remote then 120 else 24) }

/-- CPY (R291, R292). -/
def execCpy (d p : Nat) (s : State) : Out := .next (State.perGroup true (State.copyIssue false d p) s)

/-- CPYR (R291, R292). -/
def execCpyr (d p : Nat) (s : State) : Out := .next (State.perGroup true (State.copyIssue true d p) s)

/-! ## Admission (R292 to R294) -/

/-- A bound in 224ths of a nanosecond; its statuses count hundreds of nanoseconds, rounded up. -/
def boundUnits (v : Nat) : Nat := Nat.min ((v + 22399) / 22400) (2 ^ 28 - 1)

/-- The payload of R294 with one header flit for each packet of up to 256 bytes. -/
def wireBytes (b : Nat) : Nat := b + 64 * ((b + 255) / 256)

/-- The copies and collectives of a core that are admitted and incomplete (R284); those of a saved team are not there. -/
def State.admitted (s : State) (c : CoreId) : List Cmd :=
  s.cmds.filter fun x => !x.isMatrix && decide (x.core = c) && decide (x.st ≠ .decide) && !(s.teamSaved x.th.tmid)

/-- The port that a CPYR of the device uses. -/
def State.cpyrPort (s : State) (c : Cmd) : Option Nat :=
  match c.kind with
  | .cpyr _ _ d _ _ => s.portTo d.device
  | _ => none

/-- Qp: what the incomplete CPYRs of a port carry. -/
def State.portLoad (s : State) (p : Nat) : Nat :=
  ((s.cmds.filter fun x => decide (x.st ≠ .decide) && !(s.teamSaved x.th.tmid) && decide (s.cpyrPort x = some p)).map fun x => wireBytes x.bytes).foldl (· + ·) 0

/-- The bound of a copy of b bytes, in 224ths of a nanosecond, rounded up (R294). -/
def State.copyBound (s : State) (c : Cmd) (b : Nat) : Nat :=
  let q := ((s.admitted c.core).map Cmd.bytes).foldl (· + ·) 0
  let cyc := (160 * (q + b) + 127) / 128
  match c.kind with
  | .cpyr _ _ d _ _ =>
    let e := s.domain.find? fun x => decide (x.1 = d.device)
    let l := (e.map fun x => x.2.latency).getD 0
    let p := (e.map fun x => s.portLoad x.2.port).getD 0
    (5200 + l) * 224 + cyc + p + wireBytes b
  | _ => 2000 * 224 + cyc

/-- The leader's status is written, and it goes on (R292, R293). -/
def State.answer (c : Cmd) (code units : Nat) (s : State) : State :=
  s.modThread c.th fun t => if t.wait = .status c.id then
    ({ t.passHeld 2 with nextAt := Nat.max t.nextAt s.clock.cycle }).setReg c.dreg (BitVec.ofNat 32 (units * 16 + code)) else t

/-- A refusal: the command is gone, with no effect beyond gD (R21, R292). -/
def State.refuse (c : Cmd) (code units : Nat) (s : State) : State := (s.dropCmd c.id).answer c code units

/-- A fault at the decision parks the leader at its instruction. -/
def State.decideFault (c : Cmd) (i : RecInfo) (s : State) : State :=
  (s.dropCmd c.id).raise [{ th := c.th, info := { i with addr0 := c.pc }, resume := c.pc }] none

def CmdKind.isCpyr : CmdKind → Bool
  | .cpyr _ _ _ _ _ => true
  | _ => false

/-- The size of a tile of the command's core, in bytes. -/
def State.tileBytes (s : State) (c : Cmd) (m : Nat) : Nat := 16 * tSize (s.tile c.core m)

/-- The size of a copy's tile destination. The issuer cannot know that of a tile of another device, and no tile is larger
than the greatest size (log entry 74). -/
def State.destBytes (s : State) (c : Cmd) (b : List Word) (d : Cap) : Nat :=
  if c.kind.isCpyr then
    if d.device = Config.devid.toNat then 16 * tSize (s.tile { die := blk b 7 / 2 ^ 24 % 4, core := blk b 7 / 2 ^ 18 % 64 } (blkDM b))
    else 16 * 98304
  else s.tileBytes c (blkDM b)

/-- Whether each end of a copy is in bounds (R289). -/
def State.endsIn (s : State) (c : Cmd) (b : List Word) (a d : Cap) (y : Dsc) : Bool × Bool :=
  let offs := copyOffsets b y
  (endIn (offs.map Prod.fst) (spanOf (blk64 b 2) y (Dsc.sstr y)) (Dsc.z y)
      (if blkST b then s.tileBytes c (blkSM b) else a.extent) (if blkST b then Dsc.sswz y else a.swz),
   endIn (offs.map Prod.snd) (spanOf (blk64 b 4) y (Dsc.dstr y)) (Dsc.z y)
      (if blkDT b then s.destBytes c b d else d.extent) (if blkDT b then Dsc.dswz y else d.swz))

/-- An accepted command: admitted at the end of its team's queue, counted, its tiles noted. -/
def State.takeIn (c : Cmd) (bytes bound : Nat) (s : State) : State :=
  let g := match c.guard, s.team? c.th.tmid with
    | some y, some t => some (y.1, (t.guardSlot y.1).gen)
    | _, _ => none
  let s1 := (s.dropCmd c.id).setCmds ((s.dropCmd c.id).cmds ++
    [{ c with st := .queued, bytes := bytes, bound := bound, counted := true, guard := g, due := s.clock.cycle, stalls := [] }])
  (s1.modGroup c.th.gid (Group.addCount c.id .nc 1)).answer c 0 (boundUnits bound)

/-- The dies on the routes of a copy's bytes of this device, and of a CPYR to its port (R294). -/
def State.copyDies (s : State) (c : Cmd) : List Nat :=
  let vf := s.vfOf c.th
  let homes (tile : Bool) (cap : Cap) (n : Need) (os : List Int) (z sw : Nat) : List Nat :=
    if tile || Cap.remote cap then []
    else (os.filterMap fun o => (placed o z cap.extent sw).bind fun p => (s.hostWalk vf n (cap.base + p)).map homeDie).eraseDups
  let b := (match c.kind with | .cpy b _ _ _ | .cpyr b _ _ _ _ | .cred b _ _ => b | _ => [])
  let ds := (match c.kind with
    | .cpy _ a d _ => homes (blkST b) a .rd ((copyOffsets b c.regs).map Prod.fst) (Dsc.z c.regs) a.swz ++
        homes (blkDT b) d .wr ((copyOffsets b c.regs).map Prod.snd) (Dsc.z c.regs) d.swz
    | .cpyr _ a _ _ _ => homes (blkST b) a .rd ((copyOffsets b c.regs).map Prod.fst) (Dsc.z c.regs) a.swz ++
        ((s.cpyrPort c).map portDie).toList
    | .cred _ a d => homes false a .rd [(blk64 b 2 : Nat)] 1 a.swz ++ homes false d .wr [(blk64 b 4 : Nat)] 1 d.swz
    | _ => [])
  (ds.flatMap fun d => route c.core.die d).eraseDups

/-- A cycle that is not charged against the bound of an admitted command: a die on its route is in Dusk, its port is in
recovery, its team is saved, or a fault holds it (R294). -/
def State.uncharged (s : State) (c : Cmd) : Bool :=
  (match c.st with | .held _ _ => true | _ => false) || s.teamSaved c.th.tmid ||
    ((s.cpyrPort c).map fun p => (s.port p).st.recovering).getD false ||
    ((s.dies.any fun d => decide (d.2.st = .dusk)) && (s.copyDies c).any fun d => decide ((s.die d).st = .dusk))

/-- The time of the cycle that begins is taken off the admitted commands that R294 does not charge for it. -/
def State.chargeBounds (s : State) : State :=
  s.setCmds (s.cmds.map fun c => if c.isMatrix ∨ c.st = .decide then c else if s.uncharged c then { c with lost := c.lost + 1 } else c)

/-- The decision of a copy whose descriptor has been read. -/
def State.decideCopy (c : Cmd) (b : List Word) (a d l : Cap) (y : Dsc) (s : State) : State :=
  if ¬ dscOk b l y then s.refuse c 2 0
  else
    let ends := s.endsIn c b a d y
    if (¬ ends.1 ∧ ¬ blkST b ∧ cPermBit a capTOOB) ∨ (¬ ends.2 ∧ ¬ blkDT b ∧ cPermBit d capTOOB) then
      s.decideFault c { cause := 0x05 }
    else
      let n := Dsc.bytes y
      let bd := s.copyBound c n
      let dl := blk b 1 / 65536
      if 64 ≤ (s.admitted c.core).length then s.refuse c 3 (boundUnits bd)
      else if (if dl = 0 then 65535 else dl) * 224000 < bd then s.refuse c 1 (boundUnits bd)
      else match s.copyTiles c.th c.core c.kind.isCpyr b with
      | .error i => s.decideFault c i
      | .ok _ =>
        let s1 := s.takeIn { c with contrib := none } n bd
        let s2 := if ends.1 && ends.2 then s1 else s1.modThread c.th fun t => { t with oobflag := true }
        let s3 := if blkDrain b then s2.setTile c.core (blkSM b) (tSt (s2.tile c.core (blkSM b)) 3) else s2
        let s4 := s3.modCmd c.id fun x => { x with regs := y }
        if blkDT b ∧ ¬ c.kind.isCpyr then s4.modCore c.core fun x =>
          { x with tileCopies := tput 0 x.tileCopies (blkDM b) (tget 0 x.tileCopies (blkDM b) + 1) } else s4

/-- An earlier copy of the same bundle is still to be decided: it is admitted first (R292). -/
def State.admittedLater (s : State) (c : Cmd) : Bool :=
  s.cmds.any fun e => decide (e.st = .decide) && decide (e.id < c.id) && decide (e.at_ = c.at_) && decide (e.core = c.core) &&
    decide (e.quad = c.quad)

/-- The 64 bytes of a descriptor as its issuer's plain load returns them, or what the read meets; none where the
descriptor is out of bounds and is not read. -/
def State.readDsc (c : Cmd) (b : List Word) (y : Cap) (s : State) : State × Except EngRes (Option Dsc) :=
  match dscPieces y b, s.thread? c.th with
  | .ok ps, some t =>
    let va := (ps.head?.map Prod.fst).getD 0
    let r := s.dscKeys y c.qid (s.vfOf c.th) ps
    match r.2 with
    | .error e => (r.1, .error (.fault 0x03 e.1 e.2 none))
    | .ok ks =>
      let keys := pieceBytes ks
      let words (bs : List Byte) : Dsc := (List.range 16).map fun i => leNat ((bs.drop (4 * i)).take 4)
      let dies := r.1.routeOf t (.load .n128 false) keys
      if keys.any isRemote then
        let v := r.1.engRemoteRead c keys va
        (v.1, match v.2 with | .ok _ => .ok (some (words (keys.map c.gotByte))) | x => .error x)
      else match r.1.gate dies with
        | .dead d => (r.1, .error (.fault 0x0C 0 va (some d)))
        | .stall => (r.1, .error (.wait 28000 0x0C 0 va (r.1.duskOn dies)))
        | .go =>
          if keys.any fun k => r.1.bytePoisoned t k then (r.1, .error (.fault 0x0B 0 va none))
          else
            let l1 := r.1.l1Access t.id.gid c.pc .none s.clock.cycle (wordsOf16 keys)
            let s1 := (l1.1.imageAll t keys).fillBlock t l1.2.fills
            let bs := keys.map fun k => s1.loadByte t false k
            (s1.observe t.id (s1.freshOf t keys), .ok (some (words bs)))
  | _, _ => (s, .ok none)

/-! ## Moving bytes (R289, R295, R296) -/

/-- Where an element's bytes go. -/
inductive Put where
  | drop
  | mem (bytes : List (Nat × Byte))
  /-- Bytes of the team's scratchpad. -/
  | spad (bytes : List (Nat × Byte))
deriving DecidableEq, Repr

/-- Bytes of a memory end at an offset in bounds: their keys (translated byte by byte). -/
def State.copyKeys (c : Cmd) (cap : Cap) (wr : Bool) (o z : Nat) (s : State) : State × EngRes :=
  let va := cap.base + o
  if Cap.remote cap then s.engKeys c wr ((List.range z).map fun i => remoteKey cap.device (va + i)) va
  else
  let r := s.translateAll c.qid (s.vfOf c.th) (if wr then .wr else .rd) ((List.range z).map fun i => (va + i, 1))
  match r.2 with
  | .error e => (r.1, .fault 0x03 e.1 e.2 none)
  | .ok ks => r.1.engKeys c wr (pieceBytes ks) va

/-- Reads the source of one element: zeroes out of bounds. -/
def State.copyGet (c : Cmd) (b : List Word) (a : Cap) (y : Dsc) (o : Int) (s : State) : State × Except EngRes (List Byte) :=
  let z := Dsc.z y
  if blkST b then
    match placed o z (s.tileBytes c (blkSM b)) (Dsc.sswz y), s.team? c.th.tmid with
    | some p, some t =>
      let at_ := 16 * tBase (s.tile c.core (blkSM b)) + p
      (s, if s.spadPoisoned t.id at_ z then .error (.fault 0x0B 0 0 none) else .ok (Memory.readN t.spad at_ z))
    | _, _ => (s, .ok (List.replicate z 0))
  else match placed o z a.extent a.swz with
    | none => (s, .ok (List.replicate z 0))
    | some p =>
      let r := s.copyKeys c a false p z
      match r.2 with
      | .ok ks => let v := r.1.engRead c ks; (v.1, .ok v.2)
      | x => (r.1, .error x)

/-- The destination of one element of a local copy. -/
def State.copyPut (c : Cmd) (b : List Word) (d : Cap) (y : Dsc) (o : Int) (v : List Byte) (s : State) :
    State × Except EngRes Put :=
  let z := Dsc.z y
  if blkDT b then
    match placed o z (s.tileBytes c (blkDM b)) (Dsc.dswz y) with
    | some p => (s, .ok (.spad (v.zipIdx.map fun e => (16 * tBase (s.tile c.core (blkDM b)) + p + e.2, e.1))))
    | none => (s, .ok .drop)
  else match placed o z d.extent d.swz with
    | none => (s, .ok .drop)
    | some p =>
      let r := s.copyKeys c d true p z
      match r.2 with
      | .ok ks => (r.1, .ok (.mem (List.zip ks v)))
      | x => (r.1, .error x)

/-- Applies one element's write. -/
def State.put (c : Cmd) (p : Put) (s : State) : State :=
  match p with
  | .drop => s
  | .mem bs => s.engWrite c bs
  | .spad bs => s.modTeam c.th.tmid fun t => { t with spad := bs.foldl (fun m e => Memory.write m e.1 e.2) t.spad }

/-- What a pass over some of a copy's elements comes to: the writes in visiting order, the elements moved, those that are
stalled and those that wait for bytes of another device, with the destinations they keep, the first that faults, and the
source elements that a CPYR has read. -/
structure Moved where
  st : State
  puts : List Put
  done : List Nat
  stalls : List Nat
  asked : List Nat
  kept : List Int
  stop : Option (Nat × EngRes)
  taken : List (Nat × List Byte)
deriving DecidableEq, Repr

def State.unmoved (s : State) : Moved :=
  { st := s, puts := [], done := [], stalls := [], asked := [], kept := [], stop := none, taken := [] }

/-- Every element has been moved. -/
def Moved.whole (m : Moved) : Bool := m.stop.isNone && m.stalls.isEmpty && m.asked.isEmpty

/-- An element whose access does not go on: it stalls (R19), or faults where its time has passed. -/
def Moved.stopAt (c : Cmd) (e : Nat × Int × Int) (x : EngRes) (st : State) (m : Moved) : Moved :=
  match x.late c e.1 st.clock.cycle with
  | .wait _ _ _ _ _ => { m with st := st, stalls := m.stalls ++ [e.1], kept := m.kept ++ [e.2.2] }
  | .asked => { m with st := st, asked := m.asked ++ [e.1], kept := m.kept ++ [e.2.2] }
  | y => { m with st := st, stop := some (e.1, y) }

/-- Moves elements in visiting order, up to one that faults; for a CPYR only their source is read. A stalled element holds
back those that write the same destination. -/
def State.moveElems (c : Cmd) (remote : Bool) (b : List Word) (a d : Cap) (y : Dsc) : List (Nat × Int × Int) → Moved → Moved
  | [], m => m
  | e :: r, m =>
    if ¬ remote ∧ e.2.2 ∈ m.kept then State.moveElems c remote b a d y r m
    else
      let g := m.st.copyGet c b a y e.2.1
      let m1 : Moved := match g.2 with
        | .error x => m.stopAt c e x g.1
        | .ok v =>
          if remote then { m with st := g.1, done := m.done ++ [e.1], taken := m.taken ++ [(e.1, v)] }
          else
            let p := g.1.copyPut c b d y e.2.2 v
            match p.2 with
            | .error x => m.stopAt c e x p.1
            | .ok w => { m with st := p.1, done := m.done ++ [e.1], puts := m.puts ++ [w] }
      if m1.stop.isSome then m1 else State.moveElems c remote b a d y r m1

/-- The elements of a copy, numbered in visiting order. -/
def copyElems (b : List Word) (y : Dsc) : List (Nat × Int × Int) := (copyOffsets b y).zipIdx.map fun e => (e.2, e.1)

/-- The elements that a copy has still to move. -/
def Cmd.pending (c : Cmd) (b : List Word) : List (Nat × Int × Int) :=
  ((copyElems b c.regs).drop c.moved).filter fun e => decide (e.1 ∉ c.ahead)

/-- A copy has moved no byte. -/
def Cmd.untouched (c : Cmd) : Bool := decide (c.moved = 0) && c.ahead.isEmpty

/-- A copy may move bytes: its issuer's earlier accesses have taken effect, and it does not begin for a stopped team. -/
def State.mayMove (s : State) (c : Cmd) : Bool :=
  decide (c.st = .running) && c.contrib.isNone && s.earlierDone c && (!c.untouched || s.teamRuns c.th.tmid)

/-- The first element from `n` on that is not among some, and those of them behind it. -/
def skipDone : Nat → Nat → List Nat → Nat × List Nat
  | 0, n, l => (n, l)
  | k + 1, n, l => if n ∈ l then skipDone k (n + 1) (l.filter fun x => decide (x ≠ n)) else (n, l)

/-- The copy after a pass: what it has moved, and since when its other accesses stall. -/
def Cmd.passed (tried : List Nat) (m : Moved) (c : Cmd) : Cmd :=
  let l := c.ahead ++ m.done
  let r := skipDone l.length c.moved l
  { c.setStalls ((c.stalls.map Prod.fst).filter (fun p => decide (p ∉ tried)) ++ m.stalls) m.st.clock.cycle with
    moved := r.1, ahead := r.2, taken := c.taken ++ m.taken }

/-- The state after a pass over some elements of a copy. -/
def State.tookPass (c : Cmd) (tried : List Nat) (m : Moved) : State :=
  (m.puts.foldl (fun st p => st.put c p) m.st).modCmd c.id (Cmd.passed tried m)

/-- The place of a CPYR's port among its accesses: behind its elements. -/
def portPlace (b : List Word) (y : Dsc) : Nat := (copyOffsets b y).length

/-- A running copy whose time has come, moved as far as it goes. Of a CPYR the source elements are read, each once (R19), and
its port must be up. -/
def State.dueCopy (s : State) (n : Nat) : Option (Cmd × Moved) :=
  (s.cmd? n).bind fun c =>
    if ¬ s.mayMove c ∨ s.clock.cycle < c.due then none
    else match c.kind with
      | .cpy b a d _ => some (c, State.moveElems c false b a d c.regs (c.pending b) s.unmoved)
      | .cpyr b a d _ _ =>
        let m := State.moveElems c true b a d c.regs (c.pending b) s.unmoved
        some (c, if m.stop.isSome ∨ d.device = Config.devid.toNat then m
          else match s.engRemote c.core.die [remoteKey d.device 0] 0 with
            | .ok _ => m
            | x => m.stopAt c (portPlace b c.regs, 0, 0) x m.st)
      | _ => none

/-- A copy goes on by itself: before its time it moves a free number of elements (R13, R238, R289), and at its time all but
those that stall. What completes it, or faults, has an event of its own. -/
def State.advanceCopy (s : State) (c : Cmd) : State :=
  if ¬ s.mayMove c then s
  else if c.due ≤ s.clock.cycle then
    match s.dueCopy c.id with
    | some (_, m) => if m.stop.isSome ∨ m.whole then s else State.tookPass c (m.done ++ m.stalls ++ m.asked) m
    | none => s
  else match c.kind, Config.progress c.id s.clock.tick with
    | .cpy b a d _, n + 1 =>
      let l := (c.pending b).take (n + 1)
      let m := State.moveElems c false b a d c.regs l s.unmoved
      State.tookPass c (l.map Prod.fst) m
    | _, _ => s

/-- Edits a tile entry of a command's team: on its core, or as saved (R237). -/
def State.editTile (c : Cmd) (m : Nat) (f : DWord → DWord) (s : State) : State :=
  if s.teamSaved c.th.tmid then s.modTeam c.th.tmid fun t => { t with savedTiles := t.savedTiles.map fun e => if e.1 = m then (m, f e.2) else e }
  else s.setTile c.core m (f (s.tile c.core m))

/-- One copy less is in flight into a tile. -/
def State.leaveTile (c : CoreId) (m : Nat) (s : State) : State :=
  s.modCore c fun x => { x with tileCopies := tput 0 x.tileCopies m (tget 0 x.tileCopies m - 1) }

/-- What the end of a copy does to its tiles: no copy into the destination is in flight any more, it counts an arrival
where it completed, and a DRAIN source becomes EMPTY (R287, R295). -/
def State.endCopyTiles (c : Cmd) (arrive : Bool) (s : State) : State :=
  let one (b : List Word) (local_ : Bool) (st : State) : State :=
    let s1 := if blkDT b ∧ local_ then
        let s0 := if st.teamSaved c.th.tmid then st else st.leaveTile c.core (blkDM b)
        if arrive then s0.editTile c (blkDM b) tileArrive else s0
      else st
    if blkDrain b then s1.editTile c (blkSM b) tileDrained else s1
  if c.st = .decide then s
  else match c.kind with
    | .cpy b _ _ _ => one b true s
    | .cpyr b _ _ _ _ => one b false s
    | _ => s

/-- What the record of a held copy or collective says of its counter: CW and CEN (R342). -/
def blkInfo (b : List Word) : Nat := blk b 1 % 16 + (if (blk b 1).testBit 9 then 16 else 0)

/-- What the record of a held copy says besides its cause (R342). -/
def copyInfo (b : List Word) (i : RecInfo) (so d : Nat) : RecInfo := { i with info := blkInfo b, aux0 := so, aux1 := d }

/-- The tile that a local copy writes is not FILLING: its completion has no row there (R287). -/
def State.noArrival (s : State) (c : Cmd) (b : List Word) : Bool :=
  blkDT b && !(s.teamSaved c.th.tmid) && decide (tState (s.tile c.core (blkDM b)) ≠ 1)

/-- COPY_COMPLETE (R287, R295): every element is moved. A completion for which the tile's state has no row is cause 0x0E of
the CPY: the copy is held, and completes once the tile is FILLING and the supervisor resumes it (log entry 73). -/
def execCopyComplete (n : Nat) (s : State) : Out :=
  .next (match s.dueCopy n with
    | some (c, m) =>
      match c.kind with
      | .cpy b _ _ _ =>
        let s1 := m.puts.foldl (fun st p => st.put c p) m.st
        if ¬ m.whole then s
        else if s.noArrival c b then
          (s1.modCmd n (Cmd.passed m.done m)).holdCmd c c.quad (copyInfo b { cause := 0x0E, under := 0x0E } 0 0)
        else (s1.endCopyTiles c true).finishCmd c stDone
      | _ => s
    | none => s)

/-- Offsets of the faulting element. -/
def offsOf (b : List Word) (y : Dsc) (n : Nat) : Nat × Nat :=
  let o := (copyOffsets b y).getD n (0, 0)
  ((o.1 % (2 ^ 64 : Int)).toNat, (o.2 % (2 ^ 48 : Int)).toNat)

/-- The route of a CPYR that has left has failed: its port is down, or has been in recovery for 100 ms of its waiting (R320). -/
def State.cmdPortDown (s : State) (c : Cmd) : Bool :=
  match (s.cpyrPort c).map fun p => (s.port p).st with
  | some .down => true
  | some _ => (c.stalls.any fun e => decide (e.2 + 140000000 ≤ s.clock.cycle))
  | none => true

/-- A CPYR that has left waits for its port, and since when (R320). -/
def State.sentStall (s : State) (c : Cmd) : Option (List Nat) :=
  match (s.cpyrPort c).map fun p => (s.port p).st with
  | some x => some (if x.recovering then [0] else [])
  | none => none

/-- A CPYR that has left fails (R296): it is held, to be sent again whole. -/
def State.failRemote (c : Cmd) (b : List Word) (s : State) : State :=
  let o := offsOf b c.regs 0
  ((s.modCmd c.id fun x => { x with contrib := none, moved := 0, ahead := [], taken := [] }).voidPackets c.marks).holdCmd c c.quad
    (copyInfo b { cause := 0x0D, under := 0x0D } o.1 o.2)

/-- COPY_FAULT_HOLD (R17, R296, R297): a copy whose element faults is held there, the bytes written so far stand; a CPYR that
has left fails with cause 0x0D, on the word of its destination or for its port; so does a read that another device refuses. -/
def execCopyFaultHold (n : Nat) (s : State) : Out :=
  .next (match s.dueCopy n, s.cmd? n with
    | some (c, m), _ =>
      match m.stop, c.kind with
      | some (i, .fault cause reason va die), .cpy b _ _ _ | some (i, .fault cause reason va die), .cpyr b _ _ _ _ =>
        let o := offsOf b c.regs i
        (State.tookPass c (m.done ++ m.stalls ++ m.asked) m).holdCmd c c.quad
          (copyInfo b { cause := cause, under := cause, reason := reason, addr1 := va, die := die } o.1 o.2)
      | none, .cpy b _ _ _ | none, .cpyr b _ _ _ _ =>
        (match m.asked with
          | i :: _ =>
            let o := offsOf b c.regs i
            if c.asks.isEmpty then s
            else (State.tookPass c (m.done ++ m.stalls ++ m.asked) m).holdCmd c c.quad
              (copyInfo b { cause := 0x0D, under := 0x0D } o.1 o.2)
          | [] => s)
      | _, _ => s
    | none, some c =>
      match c.kind, c.st with
      | .cpyr b _ d _ _, .running => if c.contrib.isSome ∧ d.device ≠ Config.devid.toNat then s.failRemote c b else s
      | _, _ => s
    | _, _ => s)

/-- CPYR_ACKNOWLEDGE (R294, R295): the destination has acknowledged the arrival. -/
def execCpyrAcknowledge (n : Nat) (s : State) : Out :=
  .next (match s.cmd? n with
    | some c =>
      match c.kind, c.st with
      | .cpyr _ _ d _ _, .running =>
        if c.contrib.isSome ∧ d.device ≠ Config.devid.toNat then (s.endCopyTiles c false).finishCmd c stDone else s
      | _, _ => s
    | none => s)

/-- A held copy is taken up again, at its element or from the start (R297). -/
def State.resumeCopy (c : Cmd) (s : State) : State :=
  (s.modCmd c.id fun x => { x with
    st := if s.teamSaved c.th.tmid then .queued else .running, due := s.clock.cycle + 1, stalls := [],
    moved := if x.kind.isCpyr then 0 else x.moved, ahead := if x.kind.isCpyr then [] else x.ahead, taken := if x.kind.isCpyr then [] else x.taken }).unowe c.id

/-- A transfer is still in flight for its tile (R285). -/
def Inbound.inFlight (e : Inbound) : Bool := e.x.toTile && decide (e.done ≤ e.x.bytes.length) && !e.failed

/-- A transfer is not in flight for its tile any more; the owner of the tile may be gone. -/
def State.leaveInbound (e : Inbound) (s : State) : State :=
  let c : CoreId := { die := e.x.die, core := e.x.core }
  if e.inFlight && s.teams.any fun t => decide (some t.id = e.owner) && decide (t.core = c) && !t.saved then s.leaveTile c e.x.tile else s

/-- What a command's transfer to this device has still to write is not written. -/
def State.stopInbound (n : Nat) (s : State) : State :=
  let es := s.root.inbound.filter fun e => decide (e.cmd = some n)
  (es.foldl (fun (st : State) (e : Inbound) => st.leaveInbound e) s).modRoot fun r =>
    { r with inbound := r.inbound.filter fun e => decide (e.cmd ≠ some n) }

/-- A copy or collective ends with a status and without an arrival (R238, R297, R298, R349). -/
def State.cancelCopy (c : Cmd) (st : Nat) (s : State) : State :=
  (((s.stopInbound c.id).endCopyTiles c false).finishCmd c st).unowe c.id

/-! ## A transfer that reaches this device (R285, R296) -/

/-- The virtual function whose tenant a packet or transfer carries. Where two enabled functions have the tenant, the one
of lower number: R17 names no other way to tell them apart (DESIGN CHOICE, log entry 61). -/
def State.vfByTenant (s : State) (tenant : Nat) : Option Nat :=
  (s.vfs.find? fun v => decide (v.2.tenant = tenant) && v.2.enabled).map Prod.fst

/-- Every die between the die of entry and some others is in Noon. -/
def State.arriveOk (s : State) (via : Nat) (dies : List Nat) : Bool :=
  (dies.flatMap fun d => route via d).all fun d => decide ((s.die d).st = .noon)

/-- The resident team that owns the destination tile, in a partition of the tenant, the one that owned it at acceptance; the
tile is FILLING, with RW. -/
def State.arriveTile (s : State) (x : Transfer) (owner : Option TeamId) : Option Team :=
  let c : CoreId := { die := x.die, core := x.core }
  let e := s.tile c x.tile
  s.teams.find? fun t => decide (t.core = c) && !t.saved && t.owns x.tile && (owner.isNone || decide (owner = some t.id)) &&
    (s.vfs.any fun v => decide (v.2.tenant = x.tenant) && v.2.enabled &&
      decide (v.2.part = ((s.grid? t.id.grid).map Grid.part).getD 0)) &&
    decide (tState e = 1) && tRW e

/-- The check before the first byte (R296). -/
def State.arriveOkAll (s : State) (x : Transfer) (via : Nat) : Bool :=
  match s.vfByTenant x.tenant with
  | none => false
  | some vf =>
    let home (n : Need) (va : Nat) : List Nat := ((s.hostWalk vf n va).map homeDie).toList
    s.arriveOk via ((if x.toTile then [x.die] else (x.bytes.flatMap fun b => home .wr b.1).eraseDups) ++
      (match x.flag with | some f => home .wr f.1 | none => [])) &&
      (!x.toTile || (s.arriveTile x none).isSome)

/-- One write of a transfer at the device point: the state after it, or what it meets (R19, R219). -/
def State.arriveWrite (vf via va : Nat) (f : Nat → State → State) (s : State) : State × Option EngRes :=
  let r := s.hostTranslate vf .wr va
  match r.2 with
  | none => (r.1, some (.fault 0x0D 0 va none))
  | some k =>
    match r.1.gate (route via (homeDie k)) with
    | .dead d => (r.1, some (.fault 0x0C 0 va (some d)))
    | .stall => (r.1, some (.wait 28000 0x0C 0 va none))
    | .go => if r.1.frameLocked k then (r.1, some (.wait 140000 0x03 3 va none)) else (f k r.1, none)

/-- One step of a transfer (R88, R296): a byte, then the tile's arrival, then the flag. -/
def State.arriveStep (e : Inbound) (s : State) : State × Option EngRes :=
  let x := e.x
  let c : CoreId := { die := x.die, core := x.core }
  match s.vfByTenant x.tenant with
  | none => (s, some (.fault 0x0D 0 0 none))
  | some vf =>
    match x.bytes[e.done]? with
    | some b =>
      if x.toTile then match s.arriveTile x e.owner with
        | none => (s, some (.fault 0x0D 0 0 none))
        | some t =>
          match s.gate (route e.via x.die) with
          | .dead d => (s, some (.fault 0x0C 0 0 (some d)))
          | .stall => (s, some (.wait 28000 0x0C 0 0 none))
          | .go =>
            let n := 16 * tSize (s.tile c x.tile)
            if n ≤ swz b.1 x.swz then (s, none)
            else
              let at_ := 16 * tBase (s.tile c x.tile) + swz b.1 x.swz
              (s.modTeam t.id fun y => { y with spad := Memory.write y.spad at_ (BitVec.ofNat 8 b.2) }, none)
      else s.arriveWrite vf e.via b.1 fun k st => st.setMem (Memory.write st.mem k (BitVec.ofNat 8 b.2))
    | none =>
      if e.done = x.bytes.length then
        if x.toTile then match s.arriveTile x e.owner with
          | none => (s, some (.fault 0x0D 0 0 none))
          | some _ => ((s.setTile c x.tile (tileArrive (s.tile c x.tile))).leaveInbound e, none)
        else (s, none)
      else match x.flag with
        | none => (s, none)
        | some (va, add, v) => s.arriveWrite vf e.via va fun k st =>
            st.devWriteN k 4 (if add then (st.dev32 k + v) % 2 ^ 32 else v)

/-- Steps of a transfer, as far as its packets have arrived and nothing stops it. -/
def State.arriveSteps : Nat → Inbound → State → State × Inbound × Option EngRes
  | 0, e, s => (s, e, none)
  | n + 1, e, s =>
    if e.x.got ≤ e.done ∧ e.x.got < e.x.bytes.length then (s, e, none)
    else
      let r := s.arriveStep e
      match r.2 with
      | some x => (r.1, e, some x)
      | none => State.arriveSteps n { e with done := e.done + 1, stall := none } r.1

/-- The steps of a whole transfer. -/
def Transfer.steps (x : Transfer) : Nat := x.bytes.length + 2

/-- Two events are about one transfer. -/
def Transfer.same (x y : Transfer) : Bool := decide ({ x with got := 0 } = { y with got := 0 })

def State.dropInbound (x : Transfer) (s : State) : State :=
  s.modRoot fun r => { r with inbound := r.inbound.filter fun e => !(Transfer.same e.x x) }

/-- A transfer has failed, or is refused (R296): its sender is told, and what follows of it is ignored. -/
def State.arriveFail (e : Inbound) (s : State) : State :=
  let s0 := s.dropInbound e.x
  let s1 := if s.root.inbound.any fun y => Transfer.same y.x e.x then s0.leaveInbound e else s0
  match e.cmd.bind s1.cmd? with
  | some c => match c.kind with
    | .cpyr b _ _ _ _ => s1.failRemote c b
    | _ => s1
  | none =>
    let s2 := s1.report 0x3D e.x.num
    if e.x.got < e.x.bytes.length then s2.modRoot fun r => { r with inbound := r.inbound ++ [{ e with failed := true }] } else s2

/-- A transfer that the device is receiving goes on: it completes, fails, or waits (R19, R88, R219). -/
def State.arriveGo (e : Inbound) (s : State) : State :=
  if e.failed then s
  else
    let r := State.arriveSteps (Transfer.steps e.x - e.done) e s
    let now := s.clock.cycle
    let keep (y : Inbound) : State := (r.1.dropInbound e.x).modRoot fun z => { z with inbound := z.inbound ++ [y] }
    match r.2.2 with
    | some (.wait lim _ _ _ _) =>
      let since := r.2.1.stall.getD now
      if since + lim ≤ now then r.1.arriveFail r.2.1 else keep { r.2.1 with stall := some since }
    | some _ => r.1.arriveFail r.2.1
    | none =>
      if r.2.1.done < Transfer.steps e.x then keep r.2.1
      else match e.cmd.bind r.1.cmd? with
        | some c => ((r.1.dropInbound e.x).endCopyTiles c false).finishCmd c stDone
        | none => r.1.dropInbound e.x

/-- Packets of a transfer arrive: the first are checked, and the transfer then counts as in flight for its tile (R285,
R296). -/
def State.arrive (x : Transfer) (cmd : Option Nat) (via : Nat) (s : State) : State :=
  match s.root.inbound.find? fun e => Transfer.same e.x x with
  | some e =>
    let y := { e with x := { x with got := Nat.max e.x.got x.got } }
    if e.failed then (if x.bytes.length ≤ y.x.got then s.dropInbound x else s) else s.arriveGo y
  | none =>
    let e : Inbound :=
      { x := x, owner := if x.toTile then (s.arriveTile x none).map Team.id else none, cmd := cmd, via := via, done := 0,
        stall := none, failed := false }
    if ¬ s.arriveOkAll x via then s.arriveFail e
    else
      let s1 := s.modRoot fun r => { r with inbound := r.inbound ++ [e] }
      (if x.toTile then s1.modCore { die := x.die, core := x.core } fun y =>
        { y with tileCopies := tput 0 y.tileCopies x.tile (tget 0 y.tileCopies x.tile + 1) } else s1).arriveGo e

/-- CPYR_ARRIVAL (R296): `x.got` bytes of a transfer have arrived. -/
def execCpyrArrival (x : Transfer) (s : State) : Out := .next (s.arrive x none (portDie x.port))

/-- The transfers that the device is receiving go on. -/
def State.arriveAll (s : State) : State := s.root.inbound.foldl (fun st e => st.arriveGo e) s

/-! ## Guard slots and the start of copies (R298) -/

/-- An earlier command of the team's queue waits for its slot. The queue stands in the order of admission. -/
def State.behindSlot (s : State) (c : Cmd) : Bool :=
  (s.cmds.takeWhile fun e => decide (e.id ≠ c.id)).any fun e => !e.isMatrix && decide (e.th.tmid = c.th.tmid) && s.slotHolds e

/-- Bytes that the copies being moved on a core have still ahead of them. -/
def State.movingBytes (s : State) (c : CoreId) : Nat :=
  (((s.admitted c).filter fun x => decide (x.st = .running)).map Cmd.bytes).foldl (· + ·) 0

/-- Copies and collectives that leave their queue; the bound of one that a slot has kept there runs from now on (R294). -/
def State.startCopies (s : State) : State :=
  (s.cmds.filter fun c => !c.isMatrix && decide (c.st = .queued)).foldl (fun st c =>
    if st.guardOf c = .true ∧ ¬ st.behindSlot c ∧ st.teamRuns c.th.tmid then
      st.modCmd c.id fun x => { x with st := .running, at_ := if c.due < st.clock.cycle then st.clock.cycle else x.at_,
                                       lost := if c.due < st.clock.cycle then 0 else x.lost,
                                       due := st.clock.cycle + 1 + (st.movingBytes c.core + c.bytes + 127) / 128 }
    else st) s

/-- The copies being moved go on, in admission order (R13). -/
def State.advanceCopies (s : State) : State := s.cmds.foldl State.advanceCopy s

/-! ## A CPYR that leaves (R289, R290, R296) -/

/-- The transfer that a CPYR makes; a tile's offsets are placed where they arrive, which knows the tile's size. -/
def copyTransfer (c : Cmd) (b : List Word) (d f : Cap) (y : Dsc) (bs : List Byte) : Transfer :=
  let z := Dsc.z y
  let place (o : Int) : Option Nat :=
    if blkDT b then (if o < 0 then none else some o.toNat) else (placed o z d.extent d.swz).map fun p => d.base + p
  let bytes := ((copyOffsets b y).zipIdx.filterMap fun e => (place e.1.2).map fun p =>
      (((bs.drop (z * e.2)).take z).zipIdx.map fun x => (p + x.2, x.1.toNat))).flatten
  { port := 0, num := c.id, tenant := d.tenant, toTile := blkDT b, die := blk b 7 / 2 ^ 24 % 4, core := blk b 7 / 2 ^ 18 % 64,
    tile := blkDM b, bytes := bytes, got := bytes.length, swz := Dsc.dswz y,
    flag := if blkFEN b then (placed (blk b 8 : Nat) 4 f.extent f.swz).map fun p => (f.base + p, (blk b 7).testBit 26, blk b 9) else none }

/-- The payloads of up to 256 bytes in which a list of bytes leaves. -/
def packed : Nat → List (Nat × Nat) → List (List (Nat × Nat))
  | 0, _ => []
  | n + 1, l => if l.isEmpty then [] else l.take 256 :: packed n (l.drop 256)

/-- How a packet names a byte of a tile of another device (log entry 19): beyond every virtual address. -/
def Transfer.tileAddr (x : Transfer) (off : Nat) : Nat :=
  2 ^ 59 + (((x.swz * 4 + x.die) * 64 + x.core) * 64 + x.tile) * 2 ^ 24 + off

/-- Hands the packets of a transfer to the port: its bytes in visiting order, up to 256 in a packet (R294). The tile's arrival
and the flag go with the last packet (R88, R296, R322; log entry 19). -/
def State.sendTransfer (c : Cmd) (dev : Nat) (x : Transfer) (s : State) : State :=
  match s.portTo dev with
  | none => s
  | some p =>
    let at_ (a : Nat) : Nat := if x.toTile then Transfer.tileAddr x a else a
    match packed (x.bytes.length / 256 + 1) x.bytes with
    | [] => s.send p dev .atomic c.reqtag c.tenant (at_ ((x.flag.map Prod.fst).getD 0)) [255]
    | ps => ps.foldl (fun st l => st.send p dev .write c.reqtag c.tenant (at_ ((l.headD (0, 0)).1)) (l.map Prod.snd)) s

/-- A CPYR whose source has been read leaves; one to this device arrives here at once. -/
def State.sendCopy (s : State) (c : Cmd) : State :=
  match c.kind, s.dueCopy c.id with
  | .cpyr b _ d _ f, some (_, m) =>
    if ¬ m.whole then s
    else
      let read := c.taken ++ m.taken
      let z := List.replicate (Dsc.z c.regs) 0
      let x := copyTransfer c b d f c.regs
        ((List.range (copyOffsets b c.regs).length).flatMap fun i => ((read.find? fun e => decide (e.1 = i)).map Prod.snd).getD z)
      let gone (st : State) : State := st.modCmd c.id fun y => { y with contrib := some [], stalls := [], marks := m.st.newMarks st }
      if d.device = Config.devid.toNat then (gone m.st).arrive x (some c.id) c.core.die else gone (m.st.sendTransfer c d.device x)
  | _, _ => s

def State.sendCopies (s : State) : State :=
  (s.cmds.filter fun c => decide (c.st = .running) && c.kind.isCpyr).foldl State.sendCopy s

end Sys2Proof.Machine
end

