-- ==== Sys2Proof/Machine/Sync.lean ====
section
/-! DEFINITION. Named barriers (R306, R307), tree barriers (R308 to R310), CRED (R311 to R314), the completion counters
(R315), and the admission of CPY, CPYR and CRED (R292, R312). -/

namespace Sys2Proof.Machine
open Host

/-! ## Arrivals that wait -/

/-- Every thread of the bundle, in order, is held at the instruction in a wait that `f` gives, or faults. -/
def State.holdEach (f : State → Thread → Except RecInfo (State × Wait)) (s : State) : State :=
  let r := s.bundleThreads.foldl (fun (acc : State × List LaneFault) t0 =>
    match acc.1.thread? t0.id with
    | none => acc
    | some t =>
      match f acc.1 t with
      | .ok v => (v.1.modThread t.id fun x => { x with wait := v.2, regen := [] }, acc.2)
      | .error i => (acc.1, acc.2 ++ [{ th := t.id, info := s.atIssue i, resume := s.issue.pc }])) (s, [])
  r.1.raise r.2 none

/-- A BAR that arrives: each thread arrives at once, or waits until its earlier accesses have taken effect. -/
def State.barArrivals (b a : Nat) (sync : Bool) (s : State) : State :=
  (s.holdEach fun st t => .ok (st, .barArrive b (decide (a ≠ 0)) (t.src a).toNat sync)).arriveBars (s.bundleThreads.map Thread.id)

/-- BAR.arrive (R306). -/
def execBarArrive (b a : Nat) (s : State) : Out := .next (s.barArrivals b a false)

/-- BAR.sync (R306). -/
def execBarSync (b a : Nat) (s : State) : Out := .next (s.barArrivals b a true)

/-- BAR.wait (R306): until the generation rises above its value at issue. -/
def execBarWait (b : Nat) (s : State) : Out :=
  .next (s.lanesOk fun t =>
    { t with wait := .bar b (((s.team? t.id.tmid).map fun x => (tget Barrier.reset x.bars b).gen).getD 0) })

/-! ## Tree barriers (R309) -/

/-- The mode of a tag: 0 disabled, 1 cluster span, 2 device span (R308). -/
def State.tagMode (s : State) (p tag : Nat) : Nat := tget 0 (s.part p).tags tag

def tagScope (mode : Nat) : Scope := if mode = 1 then .cluster else .device

def Team.tbar? (t : Team) (tag : Nat) : Option TbarTeam := t.tbars.find? fun b => decide (b.tag = tag)

/-- A thread's form differs from its team's first arrival. -/
def State.tbarMixed (s : State) (t : ThreadId) (tag : Nat) (ar : Bool) : Bool :=
  match (s.team? t.tmid).bind fun x => x.tbar? tag with
  | some b => !b.here.isEmpty && decide (b.ar ≠ ar)
  | none => false

/-- The team with one more thread arrived. -/
def Team.tbarAdd (tag : Nat) (ar : Bool) (t : ThreadId) (x : Team) : Team :=
  match x.tbar? tag with
  | none => { x with tbars := x.tbars ++ [{ tag := tag, here := [t], ar := ar, arrivedAt := none }] }
  | some _ => { x with tbars := x.tbars.map fun b => if b.tag = tag then { b with here := b.here ++ [t] } else b }

/-- A release of the thread has not completed. -/
def State.relPending (s : State) (t : ThreadId) : Bool :=
  s.ops.any fun o => decide (o.th = t) && (match o.kind with | .rel _ => true | _ => false)

/-- The arrival that a thread waits to make at a tree barrier, when it may. -/
def State.arriveTbar (tid : ThreadId) (s : State) : State :=
  match s.thread? tid with
  | none => s
  | some t =>
    match t.wait with
    | .tbarArrive tag ar =>
      if (if ar then s.relPending tid else s.accessPending tid) then s
      else if s.tbarMixed tid tag ar then
        s.raise [{ th := tid, info := { cause := 0x14, addr0 := t.pc }, resume := t.pc }] none
      else ((s.modTeam tid.tmid (Team.tbarAdd tag ar tid)).modThread tid
        fun x => { x.passHeld 2 with wait := .tbar tag ar }).evalTbar tid.tmid
    | _ => s

/-- TBAR (R309): with .ar a release at the tag's scope comes first. -/
def execTbar (tag : Nat) (ar : Bool) (s : State) : Out :=
  let s1 := s.holdEach fun st t =>
    let m := st.tagMode (st.partOf t.id) tag
    let coop := ((st.gridOf t.id).map Grid.coop).getD false
    if m = 0 ∨ (m = 2 ∧ ¬ coop) ∨ st.tbarMixed t.id tag ar then .error { cause := 0x14 }
    else .ok (if ar then st.addOp (st.bareOp t (.rel (tagScope m))) else st, .tbarArrive tag ar)
  .next (s.bundleThreads.foldl (fun st t => st.arriveTbar t.id) s1)

/-- The resident teams that take part in an instance: those of a cluster, or of the grid. -/
def State.tbarTeams (s : State) (g cl mode : Nat) : List Team :=
  let n := ((s.grid? g).map fun x => x.desc.tpc).getD 1
  s.teams.filter fun t => decide (t.id.grid = g) && (decide (mode = 2) || decide (t.id.team / n = cl))

/-- The die that keeps an instance from being released: one that holds a resident participant. -/
def State.tbarBad (s : State) (ts : List Team) (p : Die → Bool) : Option Nat :=
  (ts.find? fun t => !t.saved && p (s.die t.core.die)).map fun t => t.core.die

/-- A command has saved the team (R237): until it is restored no instance of its tree barriers is released (R310). A team
whose groups have been swapped out (R216) withholds none. -/
def Team.away (t : Team) : Bool := t.saved && t.stopped.isSome

/-- The cycle of the last team's arrival, when every team that has a live thread has arrived. -/
def State.tbarLast (s : State) (ts : List Team) (tag : Nat) : Option Nat :=
  ts.foldl (fun acc t =>
    match acc, t.tbar? tag with
    | some m, some b => b.arrivedAt.map (Nat.max m)
    | some m, none => if (s.teamThreads t.id).isEmpty then some m else none
    | none, _ => none) (some 0)

/-- Where a released waiter goes on: after .ar, to an acquire. -/
def Thread.tbarGo (tag op at_ : Nat) (t : Thread) : Thread :=
  let conv (w : Wait) : Wait := match w with
    | .tbar x true => if x = tag then .phase op else w
    | _ => w
  let t1 : Thread := { t with wait := conv t.wait, redo := t.redo.map fun e => { e with wait := conv e.wait } }
  t1.wakeIf (fun w => decide (w = Wait.tbar tag false)) at_

/-- A thread waits, or will return to a wait, in a tree barrier. -/
def Thread.inTbar (tag : Nat) (t : Thread) : Option Bool :=
  (t.wait :: t.redo.map Redo.wait).findSome? fun w => match w with
    | .tbar x ar => if x = tag then some ar else none
    | _ => none

/-- Releases one waiter of an instance. -/
def State.tbarFree (tag at_ : Nat) (sc : Scope) (s : State) (t : Thread) : State :=
  match t.inTbar tag with
  | none => s
  | some ar =>
    let op : Op := { s.bareOp t (.acq sc) with addr0 := t.standsAt, due := at_ }
    (if ar then s.addOp op else s).modThread t.id (Thread.tbarGo tag s.clock.fresh at_)

/-- TBAR_RELEASE (R309, R310): 24 or 96 cycles after the last arrival, with every participant's die in Noon. -/
def execTbarRelease (g cl tag : Nat) (s : State) : Out :=
  .next (match s.grid? g with
    | none => s
    | some gr =>
      let m := s.tagMode gr.part tag
      let ts := s.tbarTeams g cl m
      let lat := if m = 1 then 24 else 96
      match s.tbarLast ts tag with
      | none => s
      | some last =>
        if m = 0 ∨ ts.any Team.away ∨ ¬ (ts.any fun t => (t.tbar? tag).isSome) ∨ s.clock.cycle < last + lat ∨
            (s.tbarBad ts fun d => decide (d.st ≠ .noon)).isSome then s
        else
          let s1 := ts.foldl (fun st t => (st.teamThreads t.id).foldl (State.tbarFree tag (last + lat) (tagScope m)) st) s
          ts.foldl (fun st t => st.modTeam t.id fun x => { x with tbars := x.tbars.filter fun b => decide (b.tag ≠ tag) }) s1)

/-- The waiters of instances whose die has left: each parks with cause 0x0C (R309). -/
def State.tbarDead (s : State) : List (LaneFault × Nat) :=
  s.threads.filterMap fun t =>
    match t.wait, s.grid? t.id.grid with
    | .tbar tag _, some gr =>
      if t.park.isSome ∨ s.teamSaved t.id.tmid then none
      else (s.tbarBad (s.tbarTeams gr.id (t.id.team / gr.desc.tpc) (s.tagMode gr.part tag)) fun d =>
          decide (d.st = .midnight) || decide (d.st = .dawn) ||
            (decide (d.st = .dusk) && decide (d.since + 28000 ≤ s.clock.cycle))).map fun d =>
        ({ th := t.id, info := { cause := 0x0C, addr0 := t.standsAt, own := true }, resume := t.pc }, d)
    | _, _ => none

/-! ## Completion counters (R315) -/

/-- SEQW: captured commands and owed parks as R297 says; the wait ends 2 cycles after its condition holds. -/
def execSeqw (n : Nat) (v : SeqSrc) (s : State) : Out :=
  .next ((s.parkOwed false).lanesOk fun t =>
    { t with wait := .seq n (match v with | .reg a => (t.src a).toNat | .imm x => x) })

/-- SEQRD. -/
def execSeqrd (d n : Nat) (s : State) : Out :=
  .next (s.lanesOk fun t => t.dst d (BitVec.ofNat 32 (((s.team? t.id.tmid).map fun x => tget 0 x.w n).getD 0)))

/-! ## CRED (R311 to R314) -/

def credSk (b : List Word) : Nat := blk b 0 / 2 ^ 28
def credDk (b : List Word) : Nat := blk b 0 / 2 ^ 24 % 16
def credOp (b : List Word) : Nat := blk b 0 / 2 ^ 21 % 8
def credTy (b : List Word) : Nat := blk b 0 / 2 ^ 16 % 32
def credSpan (b : List Word) : Nat := blk b 0 / 2 ^ 14 % 4
def credTag (b : List Word) : Nat := blk b 0 / 2 ^ 11 % 8
def credCg (b : List Word) : Nat := blk b 0 / 2 ^ 5 % 64
def credBytes (b : List Word) : Nat := blk b 1 / 2 ^ 24 + 1

/-- The operator, with FADD rounding RNE (R313). -/
def credRed (b : List Word) : Option RedOp :=
  let int (o : IntRed) : Option RedOp := match credTy b with
    | 0 => some (.int o .s32) | 1 => some (.int o .n32) | 2 => some (.int o .s64) | 3 => some (.int o .n64) | _ => none
  match credOp b with
  | 0 => int .add
  | 1 => int .min
  | 2 => int .max
  | 3 => int .and
  | 4 => int .or
  | 5 => int .xor
  | 6 => if credTy b = 0x08 then some (.fadd false .rne) else if credTy b = 0x0B then some (.fadd true .rne) else none
  | _ => if credTy b = 0x08 then some (.fmax false) else if credTy b = 0x0B then some (.fmax true) else none

def credElem (b : List Word) : Nat := match credRed b with
  | some op => if RedOp.is64 op then 8 else 4
  | none => 4

/-- A CRED's block is well formed and its offsets are aligned (R311, R312). -/
def credOk (b : List Word) : Bool :=
  (credRed b).isSome && decide (credSpan b < 2) && decide (blk b 0 % 32 = 0) && decide (blk b 1 / 1024 % 16384 = 0) &&
    decide (blk b 7 = 0) && decide (credBytes b % credElem b = 0) && decide (blk64 b 2 % credElem b = 0) &&
    decide (blk64 b 4 % credElem b = 0)

/-- The checks of CRED at issue, and the command that is then decided. -/
def State.credIssue (d p : Nat) (l : Thread) (s : State) : Except RecInfo (State × Thread) :=
  let b := l.regsFrom (regNo l.wb p) 8
  match s.blockCap l (credSk b) capR, s.blockCap l (credDk b) capW with
  | .error i, _ => .error i
  | _, .error i => .error i
  | .ok a, .ok w =>
    if cPermBit a capREM then .error { cause := 0x04, info := credSk b + 16 }
    else if cPermBit w capREM then .error { cause := 0x04, info := credDk b + 16 }
    else match s.guardFor l b with
      | .error i => .error i
      | .ok g =>
        let c : Cmd := { s.newCmd (.cred b a w) l with
          st := .decide, cw := blkCw b, guard := g, dreg := regNo l.wb d, counted := false, due := s.clock.cycle + 24 }
        .ok (s.addCmd c, { l with wait := .status c.id })

/-- CRED (R312). -/
def execCred (d p : Nat) (s : State) : Out := .next (State.perGroup true (State.credIssue d p) s)

/-- The collective group that a block names in its partition. -/
def State.collOf (s : State) (c : Cmd) (b : List Word) : Option CollGroup :=
  ((s.part c.part).colls.find? fun e => decide (e.1 = credCg b)).map Prod.snd

/-- The members of a collective group other than this device that the domain table names. -/
def State.collOthers (s : State) (g : CollGroup) : List DomainEntry :=
  g.members.filterMap fun m => (s.domain.find? fun e => decide (e.1 = m.1)).map Prod.snd

/-- The bound of a CRED and what its admission tests, in 224ths of a nanosecond (R312). -/
def State.credBound (s : State) (c : Cmd) (b : List Word) : Nat × Nat :=
  if credSpan b = 0 then (4000 * 224, 0)
  else
    let far := (((s.collOf c b).map s.collOthers).getD []).foldl (fun (m : Option DomainEntry) e => match m with
      | none => some e
      | some x => if x.latency < e.latency then some e else m) none
    match far with
    | none => (8000 * 224, 0)
    | some e => (8000 * 224, (5200 + e.latency) * 224 + s.portLoad e.port + wireBytes (credBytes b))

/-- An element that a CRED names lies out of bounds of a capability, mapped as R178 maps it (R289, R312). -/
def credOut (c : Cap) (off n z : Nat) : Bool :=
  (List.range (n / z)).any fun i => match formAccess c (off + z * i : Nat) z with | .outside _ => true | _ => false

/-- The decision of a CRED. -/
def State.decideCred (c : Cmd) (b : List Word) (a d : Cap) (s : State) : State :=
  let outA := credOut a (blk64 b 2) (credBytes b) (credElem b)
  let outD := credOut d (blk64 b 4) (credBytes b) (credElem b)
  if ¬ credOk b then s.refuse c 2 0
  else if (outA ∧ cPermBit a capTOOB) ∨ (outD ∧ cPermBit d capTOOB) then s.decideFault c { cause := 0x05 }
  else
    let bd := s.credBound c b
    if 64 ≤ (s.admitted c.core).length then s.refuse c 3 (boundUnits bd.1)
    else if 8000 * 224 < bd.2 then s.refuse c 1 (boundUnits bd.1)
    else
      let s1 := s.takeIn c (credBytes b) bd.1
      if outA || outD then s1.modThread c.th fun t => { t with oobflag := true } else s1

/-- COMMAND_ADMISSION (R292, R293, R312). A descriptor for which another device has been asked, and which it refuses, is
cause 0x0D (R17). -/
def execCommandAdmission (n : Nat) (s : State) : Out :=
  let copy (c : Cmd) (b : List Word) (a d y : Cap) : State :=
    if ¬ copyBlkOk c.kind.isCpyr b then s.refuse c 2 0
    else if ¬ s.earlierDone c ∨ s.admittedLater c then s
    else
      let r := s.readDsc c b y
      match r.2 with
      | .ok none => s.refuse c 2 0
      | .ok (some x) => r.1.decideCopy c b a d y x
      | .error e =>
        match e.late c 0 s.clock.cycle with
        | .fault cause reason va die => r.1.decideFault c { cause := cause, reason := reason, addr1 := va, die := die }
        | .asked => if c.asks.isEmpty then s else s.decideFault c { cause := 0x0D }
        | _ => s
  .next (match s.cmd? n with
    | none => s
    | some c =>
      if c.st ≠ .decide ∨ s.clock.cycle < c.due then s
      else match c.kind with
        | .cpy b a d y | .cpyr b a d y _ => copy c b a d y
        | .cred b a d => s.decideCred c b a d
        | _ => s)

/-- The tag whose span says which teams of this device take part: the block's, or the one that the collective group
gives for this device. -/
def State.credTagOf (s : State) (c : Cmd) (b : List Word) : Option Nat :=
  if credSpan b = 0 then some (credTag b)
  else (s.collOf c b).bind fun g => (g.members.find? fun m => decide (m.1 = Config.devid.toNat)).map Prod.snd

/-- Two commands name one instance (R313): of one grid, of one cluster where the tag has that span, with one SEQ, and one
collective group or one tag. A participant that names the tag where another names a group of that tag disagrees in SPAN
(R314; log entry 17). -/
def State.credSame (s : State) (c e : Cmd) : Bool :=
  match c.kind, e.kind with
  | .cred b _ _, .cred b' _ _ =>
    let n := ((s.grid? c.th.grid).map fun x => x.desc.tpc).getD 1
    let tag := s.credTagOf c b
    decide (c.th.grid = e.th.grid) && decide (e.st ≠ .decide) && decide (blk b 6 = blk b' 6) && decide (tag = s.credTagOf e b') &&
      (decide (credSpan b ≠ 1 ∨ credSpan b' ≠ 1) || decide (credCg b = credCg b')) &&
      (decide ((tag.map (s.tagMode c.part)).getD 2 = 2) || decide (c.th.team / n = e.th.team / n))
  | _, _ => false

/-- The commands of an instance, in TEAMID order of its participants. -/
def State.credMates (s : State) (c : Cmd) : List Cmd :=
  (s.cmds.filter fun e => s.credSame c e).foldr insCmd []
where
  insCmd (c : Cmd) : List Cmd → List Cmd
    | [] => [c]
    | x :: r => if c.th.team ≤ x.th.team then c :: x :: r else x :: insCmd c r

/-- The TEAMIDs that take part in a command's instance. -/
def State.credTeams (s : State) (c : Cmd) (b : List Word) : List Nat :=
  match s.grid? c.th.grid, s.credTagOf c b with
  | some g, some tag =>
    let n := g.desc.tpc
    match s.tagMode c.part tag with
    | 1 => (List.range n).map fun i => c.th.team / n * n + i
    | 2 => if g.coop then List.range g.nteams else []
    | _ => []
  | _, _ => []

/-- What two participants must agree in (R314). -/
def credKey (c : Cmd) : Option (Nat × Nat × Nat × Nat) :=
  match c.kind with
  | .cred b _ _ => some (credOp b, credTy b, credBytes b, credSpan b)
  | _ => none

/-- An instance that R314 fails: two commands of one team, a disagreement, a group without this device; or a tag that
gives the instance no span (log entry 17). -/
def State.credBad (s : State) (c : Cmd) (b : List Word) : Bool :=
  let ms := s.credMates c
  (ms.any fun e => ms.any fun x => decide (x.id ≠ e.id) && decide (x.th.tmid = e.th.tmid)) ||
    (ms.any fun e => decide (credKey e ≠ credKey c)) || (s.credTeams c b).isEmpty

/-- Elements of a contribution. -/
def credVals (z : Nat) : Nat → List Byte → List Nat
  | 0, _ => []
  | n + 1, l => leNat (l.take z) :: credVals z n (l.drop z)

/-- The bytes of some accesses of a command, and the places of those that stall (R19). -/
abbrev CredAcc (α : Type) := State × Except EngRes (α × List Nat)

/-- Reads the elements of one command's contribution that have not been read, each by its place: zeroes out of bounds. What
has been read, and the places that stall or whose bytes another device has still to send. -/
def State.credRead (c : Cmd) (cap : Cap) (z : Nat) :
    List (Nat × Nat) → List (Nat × List Byte) × List Nat → State → CredAcc (List (Nat × List Byte))
  | [], acc, s => (s, .ok acc)
  | o :: r, acc, s =>
    if acc.1.any fun e => decide (e.1 = o.1) then State.credRead c cap z r acc s
    else
      let v := s.engForm c cap false (o.2 : Int) z
      match v.2.late c o.1 s.clock.cycle with
      | .ok ks => let w := v.1.engRead c ks; State.credRead c cap z r (acc.1 ++ [(o.1, w.2)], acc.2) w.1
      | .outside => State.credRead c cap z r (acc.1 ++ [(o.1, List.replicate z 0)], acc.2) v.1
      | .wait _ _ _ _ _ | .asked => State.credRead c cap z r (acc.1, acc.2 ++ [o.1]) v.1
      | x => (v.1, .error x)

/-- Where a result's elements go in one team. -/
def State.credPlaces (c : Cmd) (cap : Cap) (z : Nat) :
    List (Nat × Nat × List Byte) → List (List (Nat × Byte)) × List Nat → State → CredAcc (List (List (Nat × Byte)))
  | [], acc, s => (s, .ok acc)
  | e :: r, acc, s =>
    let v := s.engForm c cap true (e.2.1 : Int) z
    match v.2.late c e.1 s.clock.cycle with
    | .ok ks => State.credPlaces c cap z r (acc.1 ++ [List.zip ks e.2.2], acc.2) v.1
    | .outside => State.credPlaces c cap z r acc v.1
    | .wait _ _ _ _ _ | .asked => State.credPlaces c cap z r (acc.1, acc.2 ++ [e.1]) v.1
    | x => (v.1, .error x)

/-- The places of a command's writes, and of its packets to other devices, among its accesses. -/
def credWritePlace : Nat := 64
def credPortPlace : Nat := 128

/-- The contribution of each command of an instance, with the places that stall, each by its command; or the first access
that faults, with its command. Every element is read once (R19): the command keeps it. -/
def State.credGather : List Cmd → List (List Byte) × List (Nat × Nat) → State →
    State × Except (Cmd × EngRes) (List (List Byte) × List (Nat × Nat))
  | [], acc, s => (s, .ok acc)
  | c :: r, acc, s =>
    match c.kind with
    | .cred b a _ =>
      let z := credElem b
      let v := State.credRead c a z ((List.range (credBytes b / z)).map fun i => (i, blk64 b 2 + z * i)) (c.taken, []) s
      match v.2 with
      | .error x => (v.1, .error (c, x))
      | .ok bs =>
        let bytes := (List.range (credBytes b / z)).flatMap fun i => ((bs.1.find? fun e => decide (e.1 = i)).map Prod.snd).getD []
        State.credGather r (acc.1 ++ [bytes], acc.2 ++ bs.2.map fun p => (c.id, p)) (v.1.modCmd c.id fun x => { x with taken := bs.1 })
    | _ => State.credGather r acc s

/-- The combination of some contributions, in the order of their positions. -/
def credCombine (op : RedOp) (z n : Nat) (bs : List (List Byte)) : List Byte :=
  let vs := bs.map (credVals z (n / z))
  (List.range (n / z)).flatMap fun i =>
    natLE z ((treeRed op 25 (vs.map fun v => some (v.getD i (redIdent op)))).1.getD 0)

/-- Every participant has its one command in the instance, begun and not held. -/
def State.credReady (s : State) (c : Cmd) (b : List Word) : Bool :=
  let ms := s.credMates c
  !(s.credBad c b) && (s.credTeams c b).all (fun t => ms.any fun e => decide (e.th.team = t)) &&
    ms.all fun e => decide (e.st = .running) && decide (e.due ≤ s.clock.cycle) &&
      s.teamRuns e.th.tmid && s.earlierDone e

/-- The other members of the command's collective group. -/
def State.credOthers (s : State) (c : Cmd) (b : List Word) : List Nat :=
  if credSpan b = 0 then []
  else (((s.collOf c b).map CollGroup.members).getD []).filterMap fun m => if m.1 = Config.devid.toNat then none else some m.1

/-- What the packets of a command to the other members meet on their way to the ports, each by its place (R18, R320). -/
def State.credPorts (s : State) (c : Cmd) (b : List Word) : List (Nat × EngRes) :=
  (s.credOthers c b).zipIdx.map fun d =>
    (credPortPlace + d.2, (s.engRemote c.core.die [remoteKey d.1 0] 0).late c (credPortPlace + d.2) s.clock.cycle)

/-- The result of a domain collective over member order; a member's value that is missing gives none (R313). -/
def State.credDomain (s : State) (c : Cmd) (b : List Word) (op : RedOp) (mine : List Byte) (others : List (Nat × List Nat)) :
    Option (List Byte) :=
  if credSpan b = 0 then some mine
  else
    let vs := (((s.collOf c b).map CollGroup.members).getD []).map fun m =>
      if m.1 = Config.devid.toNat then some mine
      else (others.find? fun o => decide (o.1 = m.1) && decide (o.2.length = credBytes b)).map fun o => o.2.map (BitVec.ofNat 8)
    if vs.all Option.isSome then some (credCombine op (credElem b) (credBytes b) (vs.filterMap id)) else none

/-- What an instance comes to: its writes, by command, and the accesses that stall; or the access that faults. -/
abbrev CredRun := State × Except (Cmd × EngRes) (List (Cmd × List (List (Nat × Byte))) × List (Nat × Nat))

/-- Places of the result in every team. -/
def State.credDeliver (r : List Byte) : List Cmd → List (Cmd × List (List (Nat × Byte))) × List (Nat × Nat) → State → CredRun
  | [], acc, s => (s, .ok acc)
  | c :: cs, acc, s =>
    match c.kind with
    | .cred b _ d =>
      let z := credElem b
      let v := State.credPlaces c d z ((List.range (credBytes b / z)).map fun i =>
        (credWritePlace + i, blk64 b 4 + z * i, (r.drop (z * i)).take z)) ([], []) s
      match v.2 with
      | .error x => (v.1, .error (c, x))
      | .ok ps => State.credDeliver r cs (acc.1 ++ [(c, ps.1)], acc.2 ++ ps.2.map fun p => (c.id, p)) v.1
    | _ => State.credDeliver r cs acc s

/-- An instance whose commands are all there, run as far as it goes; none where a member's value is missing. -/
def State.credRun (c : Cmd) (b : List Word) (others : List (Nat × List Nat)) (s : State) : Option CredRun :=
  let ports := s.credPorts c b
  match credRed b, ports.find? fun p => (match p.2 with | .fault _ _ _ _ => true | _ => false) with
  | none, _ => none
  | _, some x => some (s, .error (c, x.2))
  | some op, none =>
    let waits := (ports.filter fun p => match p.2 with | .wait _ _ _ _ _ => true | _ => false).map fun p => (c.id, p.1)
    let g := State.credGather (s.credMates c) ([], waits) s
    match g.2 with
    | .error x => some (g.1, .error x)
    | .ok bs =>
      if ¬ bs.2.isEmpty then some (g.1, .ok ([], bs.2))
      else match s.credDomain c b op (credCombine op (credElem b) (credBytes b) bs.1) others with
        | none => none
        | some r => some (State.credDeliver r (s.credMates c) ([], []) g.1)

/-- What an instance meets whatever the other devices contribute. -/
def State.credMeets (s : State) (c : Cmd) (b : List Word) : Option CredRun :=
  if s.credReady c b then s.credRun c b ((s.credOthers c b).map fun d => (d, List.replicate (credBytes b) 0)) else none

/-- The accesses of a command that stall now, by their places. -/
def State.credStalls (s : State) (c : Cmd) (b : List Word) : List Nat :=
  match s.credMeets c b with
  | some (_, .ok r) => (r.2.filter fun p => decide (p.1 = c.id)).map Prod.snd
  | _ => []

/-- The route of a domain collective to some member is down (R320). -/
def State.credDown (s : State) (c : Cmd) (b : List Word) : Bool :=
  (s.credOthers c b).any fun d => match s.portTo d with
    | some p => decide ((s.port p).st = .down)
    | none => true

/-- The combined value of this device goes to the other members of a domain instance (R313). -/
def State.credSend (c : Cmd) (b : List Word) (mine : List Byte) (s : State) : State :=
  let s1 := (s.credOthers c b).foldl (fun st d => match st.portTo d with
    | some p => st.send p d .collective c.reqtag c.tenant 0 (mine.map BitVec.toNat)
    | none => st) s
  (s.credMates c).foldl (fun st e => st.modCmd e.id fun x =>
    { x with contrib := some mine, marks := if x.id = c.id then s.newMarks s1 else [] }) s1

/-- An instance whose participants are there reads their contributions, as far as they go; once a domain instance has them
all, its devices exchange their values. A fault has an event of its own. -/
def State.credAdvance (s : State) (c : Cmd) : State :=
  match c.kind with
  | .cred b _ _ =>
    if (s.credMates c).head?.map Cmd.id ≠ some c.id ∨ ¬ s.credReady c b then s
    else
      let g := s.credGather (s.credMates c) ([], [])
      match g.2, credRed b with
      | .ok bs, some op =>
        if bs.2.isEmpty ∧ credSpan b = 1 ∧ c.contrib.isNone ∧ (g.1.credPorts c b).all fun p => (match p.2 with | .ok _ => true | _ => false) then
          g.1.credSend c b (credCombine op (credElem b) (credBytes b) bs.1)
        else g.1
      | _, _ => s
  | _ => s

def State.credAll (s : State) : State :=
  (s.cmds.filter fun c => decide (c.st = .running) && !c.isMatrix).foldl (fun st c => st.credAdvance ((st.cmd? c.id).getD c)) s

/-- CRED_INSTANCE_COMPLETE (R313): the contributions are read, combined and written in every team. `others` are the
combined values that the other member devices sent. -/
def execCredInstanceComplete (n : Nat) (others : List (Nat × List Nat)) (s : State) : Out :=
  .next (match s.cmd? n with
    | none => s
    | some c =>
      match c.kind with
      | .cred b _ _ =>
        if ¬ s.credReady c b ∨ (credSpan b = 1 ∧ c.contrib.isNone) then s
        else match s.credRun c b others with
          | some (s1, .ok (ws, [])) =>
            ws.foldl (fun st w => (w.2.foldl (fun x p => x.engWrite w.1 p) st).finishCmd w.1 stDone) s1
          | _ => s
      | _ => s)

/-- The record of a held CRED (R342). -/
def credInfo (c : Cmd) (cause reason va : Nat) : RecInfo :=
  match c.kind with
  | .cred b _ _ =>
    { cause := cause, reason := reason, addr1 := va, info := blkInfo b, aux0 := blk64 b 2, aux1 := blk64 b 4 }
  | _ => { cause := cause }

/-- The remote part of a command of an instance has failed: what it sent is void, and once it is resumed it sends again. -/
def State.credLost (c : Cmd) (s : State) : State :=
  ((s.modCmd c.id fun x => { x with contrib := none }).voidPackets c.marks).holdCmd c c.quad (credInfo c 0x0D 0 0)

/-- An instance of this device has failed, or an access of it faults (R314, R320). -/
def State.credFails (s : State) (c : Cmd) (b : List Word) : Bool :=
  decide (c.st = .running) && (s.credBad c b || s.credDown c b || (match s.credMeets c b with
    | some (_, .error _) => true
    | _ => false))

/-- CRED_INSTANCE_FAILURE (R314, R320): every command of a bad instance is held with cause 0x14, of one whose remote part has
failed with cause 0x0D; a command whose own access faults is held with that cause. That another device fails its part, or
refuses a read, comes from the agenda. -/
def execCredInstanceFailure (n : Nat) (s : State) : Out :=
  let free (st : State) (c : Cmd) : List Cmd := (st.credMates c).filter fun e => match e.st with | .held _ _ => false | _ => true
  let lost (c : Cmd) : State := (free s c).foldl (fun st e => st.credLost e) s
  .next (match s.cmd? n with
    | none => s
    | some c =>
      match c.kind with
      | .cred b _ _ =>
        if c.st ≠ .running then s
        else if s.credBad c b then (free s c).foldl (fun st e => st.holdCmd e e.quad (credInfo e 0x14 0 0)) s
        else if s.credDown c b then lost c
        else match s.credMeets c b with
          | some (s1, .error (e, .fault cause reason va die)) =>
            if cause = 0x0D ∧ va = 0 then lost c
            else s1.holdCmd e e.quad { credInfo e cause reason va with die := die }
          | _ => if c.contrib.isSome then lost c
            else if c.asks.isEmpty then s else s.holdCmd c c.quad (credInfo c 0x0D 0 0)
      | _ => s)

end Sys2Proof.Machine
end

