-- ==== Sys2Proof/Machine/Launch.lean ====
section
/-! DEFINITION. Launch entries, chains and their completion (R222 to R226), placement (R57 to R59, R227, R228, R286), and
the end of groups, teams and grids (R67). -/

namespace Sys2Proof.Machine
open Host

/-! ## Entries (R222, R223) -/

def enKind (r : Nat) : Nat := bitsAt r 0 4
def enSer (r : Nat) : Bool := r.testBit 4
def enCoop (r : Nat) : Bool := r.testBit 5
def enDep (r : Nat) : Bool := r.testBit 6
def enFast (r : Nat) : Bool := r.testBit 7
def enPrio (r : Nat) : Nat := bitsAt r 16 3
def enShare (r : Nat) : Nat := bitsAt r 19 5
def enTeams (r : Nat) : Nat := bitsAt r 24 24
def enTag (r : Nat) : Nat := bitsAt r 48 16
def enKdesc (r : Nat) : Nat := bitsAt r 64 57
def enCapTab (r : Nat) : Nat := bitsAt r 128 57
def enDepAddr (r : Nat) : Nat := bitsAt r 192 57
def enDepVal (r : Nat) : Nat := bitsAt r 256 32
def enCapCnt (r : Nat) : Nat := bitsAt r 288 8
def enNext (r : Nat) : Nat := bitsAt r 320 57

/-- Reserved bits are zero, KIND is known, addresses are aligned, and a marker has no kernel's fields. -/
def enForm (r : Nat) : Bool :=
  decide (bitsAt r 8 8 = 0) && decide (bitsAt r 121 7 = 0) && decide (bitsAt r 185 7 = 0) && decide (bitsAt r 249 7 = 0) &&
    decide (bitsAt r 296 24 = 0) && decide (bitsAt r 377 7 = 0) && decide (bitsAt r 416 96 = 0) && decide (enKind r < 2) &&
    decide (enNext r % 64 = 0) && decide (enDepAddr r % 4 = 0) && decide (enCapTab r % 32 = 0) &&
    (decide (enKind r = 0) || decide (enKdesc r = 0) && decide (enCapTab r = 0) && decide (enCapCnt r = 0) &&
      decide (enTeams r = 0) && decide (enShare r = 0) && decide (enPrio r = 0) && !(enFast r) && !(enCoop r))

/-- The base of the code object whose kernel descriptor stands at an address. -/
def Part.codeBase (p : Part) (kdesc : Nat) : Option Nat := (p.codes.find? fun e => decide (e.1 = kdesc)).map Prod.snd

/-- The form of an entry in a partition: STATUS 3 where it breaks R222. -/
def enOk (p : Part) (r : Nat) : Bool := enForm r && (decide (enKind r ≠ 0) || (p.codeBase (enKdesc r)).isSome)

/-! ## Front-end reads (R224, R226) -/

/-- What the dies between a front end's die and a byte do to its access (R18). -/
def State.feGate (s : State) (d k : Nat) : Gate := s.gate (route d (homeDie k))

/-- `n` bytes at a virtual address of a function, at the device point, as the front end on a die reads them; none where the
address does not translate or a die on the route is not in Noon. -/
def State.feNat (s : State) (d vf va n : Nat) : Option Nat :=
  (s.hostWalk vf .rd va).bind fun k => if s.feGate d k = .go then some (leNat (Memory.readN s.mem k n)) else none

/-- What the translations of some reads set in the tables and the frame table (R212, R217). -/
def State.feTouch (vf : Nat) (as : List Nat) (s : State) : State := as.foldl (fun st va => (st.hostTranslate vf .rd va).1) s

/-- A front end's write to an address waits: a die on the route is not in Noon, or the frame is locked (R18, R219). -/
def State.feWaits (s : State) (d vf va : Nat) : Bool :=
  match s.hostWalk vf .wr va with
  | some k => decide (s.feGate d k ≠ .go) || s.frameLocked k
  | none => false

/-- A front end's write. -/
def State.feWrite (vf va n v : Nat) (s : State) : State :=
  let r := s.hostTranslate vf .wr va
  match r.2 with
  | some k => r.1.devWriteN k n v
  | none => r.1

/-- All of some reads, or none. -/
def allSome {α : Type} : List (Option α) → Option (List α)
  | [] => some []
  | none :: _ => none
  | some x :: r => (allSome r).map fun l => x :: l

/-- The values of a kernel descriptor (R329), with its tile template and entry point. -/
def State.readDesc (s : State) (die vf kdesc base : Nat) : Option Desc :=
  match s.feNat die vf kdesc 64, s.feNat die vf (base + 28) 4 with
  | some d, some codeoff =>
    let w (i : Nat) : Nat := bitsAt d (32 * i) 32
    (allSome ((List.range (bitsAt (w 7) 16 7)).map fun j => s.feNat die vf (base + w 8 + 8 * j) 8)).map fun ts =>
      { width := bitsAt (w 0) 16 8, tpc := bitsAt (w 0) 8 4 + 1, ngroups := bitsAt (w 0) 12 4 + 1,
        regs := bitsAt (w 0) 0 8 + 1, wb := 16 * bitsAt (w 1) 20 4, lease := bitsAt (w 1) 0 17,
        spad := 256 * bitsAt (w 2) 0 13,
        tiles := ts.zipIdx.filterMap fun e => if bitsAt e.1 17 17 = 0 then none
          else some { m := e.2, off := bitsAt e.1 0 17, size := bitsAt e.1 17 17 },
        entry := base + codeoff + w 3 }
  | _, _ => none

/-- A descriptor's address is one that the header of its code object names: B + KDOFF + 64i with i < NKERN (R328); none where
the header cannot be read now. -/
def State.isKernel (s : State) (die vf kdesc base : Nat) : Option Bool :=
  match s.feNat die vf (base + 8) 4, s.feNat die vf (base + 24) 4 with
  | some n, some off => some (decide (base + off ≤ kdesc) && decide ((kdesc - base - off) % 64 = 0) && decide ((kdesc - base - off) / 64 < n % 512))
  | _, _ => none

/-- The capability table of an entry. -/
def State.readCapTab (s : State) (die vf r : Nat) : Option (List Nat) :=
  allSome ((List.range (enCapCnt r + 1)).map fun i => s.feNat die vf (enCapTab r + 32 * i) 32)

/-- The addresses that a front end reads to start an entry: its descriptor, what the header says of it, the code offset, the tile template, the
capability table (R226). -/
def State.startReads (s : State) (die vf r base : Nat) : List Nat :=
  let tmpl := match s.feNat die vf (enKdesc r) 64 with
    | some d => (List.range (bitsAt (bitsAt d 224 32) 16 7)).map fun j => base + bitsAt d 256 32 + 8 * j
    | none => []
  [enKdesc r, base + 8, base + 24, base + 28] ++ tmpl ++ (List.range (enCapCnt r + 1)).map fun i => enCapTab r + 32 * i

/-! ## Placement (R58, R59, R227, R286) -/

def coresAll : List CoreId := (List.range 4).flatMap fun d => (List.range 48).map fun c => { die := d, core := c }

/-- Steps of 64 KiB of a scratchpad. -/
def spadSteps (n : Nat) : Nat := (n + 65535) / 65536

/-- The resident teams of a core. A team saved because all its groups are swapped out (R216 step 6) is none of them, like
one that pre-emption saved: its slot and its barriers may go to another team (DESIGN CHOICE, log entry 61). -/
def State.residents (s : State) (c : CoreId) : List Team := s.teams.filter fun t => decide (t.core = c) && !t.saved

/-- Resident threads by home lane: those of swapped groups keep their lanes (R59). -/
def State.laneCount (s : State) (q : QuadId) (lane : Nat) : Nat :=
  (s.threads.filter fun t => decide (t.qid = q) && decide (t.lane = lane) && (match s.group? t.id.gid with
    | some g => decide (g.act ≠ .saved)
    | none => false)).length

/-- The lane base of R59 for a group of width w, given the counts of the lanes. -/
def laneBaseOf (cnt : List Nat) (w : Nat) : Option Nat :=
  ((List.range (64 / w)).foldl (fun (m : Option (Nat × Nat)) i =>
    let top := ((cnt.drop (i * w)).take w).foldl Nat.max 0
    if 32 ≤ top then m
    else match m with
      | some x => if top < x.1 then some (top, i * w) else m
      | none => some (top, i * w)) none).map Prod.snd

/-- Rows that the full charges of resident cooperative groups that a test accepts set aside over a lane (R227). -/
def State.coopRows (s : State) (q : QuadId) (lane : Nat) (want : Group → Bool) : Nat :=
  s.usedRows (fun g => ((s.grid? g.id.grid).map fun x => x.desc.regs + 8).getD 0) q
    (fun g => ((s.grid? g.id.grid).map Grid.coop).getD false && want g) lane 1

/-- The rows that a grid may use in one quadrant. -/
def Grid.fileRows (g : Grid) : Nat := if g.fast then 1024 else 2048

/-- The charge of a group never yet started (R230). -/
def Grid.charge (g : Grid) : Nat := g.desc.regs + 8

/-- A group of a grid fits beside the cooperative groups over w lanes from b: in the file, and in the grid's half of it.
`own` are the charges of the team's earlier groups over a lane. -/
def State.coopRoom (s : State) (g : Grid) (q : QuadId) (b w : Nat) (own : Nat → Nat) : Bool :=
  (List.range w).all fun i =>
    let mine := g.charge + if g.coop then own (b + i) else 0
    decide (s.coopRows q (b + i) (fun _ => true) + mine ≤ 2048) &&
      (!g.fast || decide (s.coopRows q (b + i) (fun x => decide (s.halfOf x.id.grid = some g.half)) + mine ≤ 1024))

/-- The free row capacity of a quadrant over w lanes from b, once the team's earlier groups have their charges. -/
def State.capacity (s : State) (g : Grid) (q : QuadId) (b w : Nat) (own : Nat → Nat) : Nat :=
  (List.range w).foldl (fun m i => Nat.min m (s.freeRows q g.id (b + i) 1 - own (b + i))) 2048

/-- Places of a team's groups on a core: quadrant and lane base of each, in GIDX order. -/
def State.placeGroups (s : State) (g : Grid) (c : CoreId) (qs : List Nat) : Nat → List (Nat × Nat) → Option (List (Nat × Nat))
  | 0, acc => some acc
  | n + 1, acc =>
    let w := g.desc.width
    let best := qs.foldl (fun (m : Option (Nat × Nat × Nat)) q =>
      let mine (l : Nat) : Nat := (acc.filter fun a => decide (a.1 = q) && decide (a.2 ≤ l) && decide (l < a.2 + w)).length
      let own (l : Nat) : Nat := mine l * g.charge
      match laneBaseOf ((List.range 64).map fun l => s.laneCount (quadOn c q) l + mine l) w with
      | none => m
      | some b =>
        if ¬ s.coopRoom g (quadOn c q) b w own then m
        else
          let f := s.capacity g (quadOn c q) b w own
          match m with
          | some x => if x.1 < f then some (f, q, b) else m
          | none => some (f, q, b)) none
    match best with
    | none => none
    | some x => State.placeGroups s g c qs n (acc ++ [x.2])

/-- The part of R227 that no other team's presence decides. -/
def Part.couldHold (p : Part) (g : Grid) (c : CoreId) : Bool :=
  let qs := p.quadsOn c
  !qs.isEmpty && decide (spadSteps g.desc.spad + g.l1share ≤ 6 * qs.length) &&
    (g.desc.tiles.all fun t => decide (t.m / 16 ∈ qs)) && decide (g.charge ≤ g.fileRows) &&
    decide (g.desc.ngroups ≤ 32 * (64 / g.desc.width) * qs.length)

/-- What R227 and R286 ask of a core, its register files and home lanes apart. -/
def State.roomOn (s : State) (g : Grid) (c : CoreId) : Bool :=
  let p := s.part g.part
  let qs := p.quadsOn c
  let all := s.residents c
  let mine := all.filter fun t => decide (((s.grid? t.id.grid).map Grid.part).getD 0 = g.part)
  let used := (mine.map fun t => spadSteps (((s.grid? t.id.grid).map fun x => x.desc.spad).getD 0)).foldl (· + ·) 0
  decide ((s.die c.die).st = .noon) && p.couldHold g c && decide (all.length < 16) && decide (mine.length < 4 * qs.length) &&
    decide (used + spadSteps g.desc.spad + g.l1share ≤ 6 * qs.length) &&
    !(all.any fun t => t.tiles.any fun m => g.desc.tiles.any fun x => decide (x.m = m))

/-- Where a team fits on a core: its groups' places (R227). -/
def State.fitsOn (s : State) (g : Grid) (c : CoreId) : Option (List (Nat × Nat)) :=
  if s.roomOn g c then State.placeGroups s g c ((s.part g.part).quadsOn c) g.desc.ngroups [] else none

/-- The core for one team: fewest resident teams, then lowest (R227). -/
def State.coreFor (s : State) (g : Grid) (want : CoreId → Bool) : Option CoreId :=
  (coresAll.foldl (fun (m : Option (Nat × CoreId)) c =>
    if ¬ want c ∨ (s.fitsOn g c).isNone then m
    else
      let n := (s.residents c).length
      match m with
      | some x => if n < x.1 then some (n, c) else m
      | none => some (n, c)) none).map Prod.snd

/-- Rectangles of a die's 6 × 8 mesh (rows by columns, cores in row-major order) of `t` to 12 cores. -/
def rectangles (t : Nat) : List (List Nat) :=
  (List.range 6).flatMap fun r0 => (List.range 8).flatMap fun c0 =>
    (List.range (6 - r0)).flatMap fun h => (List.range (8 - c0)).filterMap fun w =>
      let n := (h + 1) * (w + 1)
      if t ≤ n ∧ n ≤ 12 then
        some ((List.range (h + 1)).flatMap fun r => (List.range (w + 1)).map fun c => 8 * (r0 + r) + c0 + c)
      else none

/-- The cores for a cluster of t teams (R227): least greatest count of resident teams, then the smaller rectangle, the
lower die, the lower origin; then the lower height, as the spec gives no further tie (log entry 72). -/
def State.rectFor (s : State) (g : Grid) (t : Nat) (shape : List Nat → Bool) : Option (List CoreId) :=
  ((List.range 4).flatMap fun d => (rectangles t).map fun r => r.map fun c => ({ die := d, core := c } : CoreId)).foldl
    (fun (m : Option (List CoreId)) r =>
      if ¬ shape (r.map CoreId.core) ∨ r.any (fun c => (s.fitsOn g c).isNone) then m
      else
        let k (x : List CoreId) : Nat := (x.map fun c => (s.residents c).length).foldl Nat.max 0
        match m with
        | none => some r
        | some x => if k r < k x ∨ (k r = k x ∧ r.length < x.length) then some r else m) none

/-- A thread at its start (R45, R56, R79, R114, R117, R138; registers and OOBFLAG: log entry 1). -/
def newThread (g : Grid) (id : ThreadId) (c : CoreId) (quad base now tick : Nat) : Thread :=
  { id := id, core := c, quad := quad, lane := base + id.tid, pc := g.desc.entry, wb := g.desc.wb, regs := [], preds := 0,
    fpcsr := 0, rng := rngSeed 0 id.tid, oobflag := false, phaseno := 0, acqScope := .device, acqAt := tick,
    observed := [], bypass := [], fences := [], cyclehi := 0, faultCause := 0, faultAddr0 := 0, faultAddr1 := 0, wait := .none,
    park := none, ready := false, readySince := now, busy := [], nextAt := now, moveUntil := 0, stallAt := none, forms := [], regen := [], slice := none, retired := 0,
    counted := none, owed := [], poisoned := [], zeroes := [], stepOwed := none, stepNow := none, collUntil := 0, redo := [] }

/-- A group at its start: WAITING (R150, R158 to R160, R210, R229). -/
def newGroup (g : Grid) (id : GroupId) (c : CoreId) (quad base now : Nat) : Group :=
  { id := id, core := c, quad := quad, laneBase := base, width := g.desc.width,
    masks := ones g.desc.width :: List.replicate 7 0, arrivals := List.replicate 8 0, counts := [], recipes := [],
    reserve := 0, thresh := 14, declared := if g.desc.lease = 0 then none else some g.desc.lease, measured := 512,
    winWords := 0, lostloc := 0, lostPrev := 0, step := false, prio := g.prio, act := .waiting, eligSince := now,
    actSince := now, started := false, urgent := false, fetchHeld := false, retiredEnded := 0, hang := 0, retireAt := 0, remote := 0, stopAt := none,
    wideAt := now, lastIssue := 0 }

/-- A team at its start (R174, R285, R298, R306, R315). -/
def newTeam (g : Grid) (n : Nat) (c : CoreId) (slot : Nat) : Team :=
  { id := { grid := g.id, team := n }, core := c, slot := slot, caps := [], capWrites := [], w := [], wstat := [], y := [],
    bars := [], tbars := [], spad := [], spadPoison := [], tiles := g.desc.tiles.map TileTmpl.m, stopping := false, fast := false,
    stopped := none, saveStall := none, saveHeld := false, saved := false,
    replace := false, savedTiles := [], savedQuads := [], savedBook := [], savedFuse := 0 }

/-- The lowest free resident-team slot of a core. -/
def State.freeSlot (s : State) (c : CoreId) : Nat :=
  ((List.range 16).find? fun i => (s.residents c).all fun t => decide (t.slot ≠ i)).getD 0

/-- Activates a group, with its reserve; each thread begins its first phase, or a new one after a save (R72, R79, R229). -/
def State.activate (gid : GroupId) (s : State) : State :=
  match s.group? gid with
  | none => s
  | some g =>
    let s1 := s.modGroup gid fun x => { x with
      act := .active, actSince := s.clock.cycle, eligSince := s.clock.cycle, started := true, urgent := false,
      reserve := (if g.act = .held then x.reserve else 8) }
    if g.act = .held then s1
    else (s.groupThreads gid).foldl (fun st t =>
      let s2 := if g.started then st.newPhase t.id .device else st
      s2.modThread t.id fun x => { x with acqAt := s.clock.tick, acqScope := .device,
                                          nextAt := Nat.max x.nextAt s.clock.cycle }) s1

/-- Places one team of a grid on a core. -/
def State.placeTeam (g : Grid) (c : CoreId) (s : State) : State :=
  match s.grid? g.id, s.fitsOn g c with
  | some gr, some ps =>
    let n := gr.placed
    let slot := s.freeSlot c
    let gs := ps.zipIdx.map fun p => newGroup g { grid := g.id, team := n, group := p.2 } c p.1.1 p.1.2 s.clock.cycle
    let ts := gs.flatMap fun x => (List.range g.desc.width).map fun t =>
      newThread g { grid := g.id, team := n, group := x.id.group, tid := t } c x.quad x.laneBase s.clock.cycle s.clock.tick
    let s1 := ({ s with teams := s.teams ++ [newTeam g n c slot], groups := s.groups ++ gs, threads := s.threads ++ ts }).modGrid
      g.id fun x => { x with placed := n + 1 }
    let s2 := (g.desc.tiles.foldl (fun st t => st.setTile c t.m (tMake 2 false slot 0 0 t.size t.off)) s1).fitL1 c g.part
    if g.coop then gs.foldl (fun st x => st.activate x.id) s2 else s2
  | _, _ => s

/-- Places the next team of a grid, or its next cluster whole; none where it does not fit (R227). -/
def State.placeNext (g : Grid) (s : State) : Option State :=
  if g.desc.tpc = 1 then (s.coreFor g fun _ => true).map fun c => s.placeTeam g c
  else (s.rectFor g g.desc.tpc fun _ => true).map fun r => (r.take g.desc.tpc).foldl (fun st c => st.placeTeam g c) s

/-- A cooperative grid's groups are active together: in every quadrant the rows charged to the resident groups of the
partition, active or not, fit, those of a FAST grid's half in that half too, and on every core the leases fit the share
(R68, R228). -/
def State.coopFits (s : State) (g : Grid) : Bool :=
  (s.groups.filter fun x => decide (x.id.grid = g.id)).all fun x =>
    let charge (y : Group) : Nat :=
      if Group.holdsRows y then s.ownRows y else ((s.grid? y.id.grid).map fun z => z.desc.regs + 8).getD 0
    decide (s.usedRows charge (Group.qid x) (fun y => decide (y.act ≠ .saved)) x.laneBase x.width ≤ 2048) &&
      (!g.fast || decide (s.usedRows charge (Group.qid x) (fun y => decide (y.act ≠ .saved) &&
        decide (s.halfOf y.id.grid = s.halfOf g.id)) x.laneBase x.width ≤ 1024)) &&
      decide (((s.groups.filter fun y => decide (y.id.grid = g.id) && decide (y.core = x.core)).map fun y =>
        Nat.min (Group.lease y) (g.l1share * 4096)).foldl (· + ·) 0 ≤ g.l1share * 4096)

/-- Places every team of a cooperative grid, or none (R68). -/
def State.placeAll (g : Grid) : Nat → State → Option State
  | 0, s => if s.coopFits g then some s else none
  | n + 1, s => match s.placeNext g with
    | none => none
    | some s1 => State.placeAll g n s1

/-! ## Chains (R224 to R226). Chains 0 to 127 are the front ends'; 128 + p is the spawn queue of partition p (R234). -/

def spawnChain (p : Nat) : Nat := 128 + p
/-- The I/O die whose front end walks a chain; a spawn queue is held by that of IO0, as the spec does not say which holds it
(log entry 72). -/
def chainDie (c : Nat) : Nat := if c < 64 ∨ 128 ≤ c then 4 else 5

/-- The virtual function whose work an entry of a chain is. -/
def State.entryVf (s : State) (c : Nat) (e : Entry) : Nat :=
  match e.spawned with
  | some x => x.1
  | none => (s.chain c).vf

def State.setEntry (c : Nat) (e : Entry) (s : State) : State :=
  s.modChain c fun x => { x with entries := x.entries.map fun y => if y.num = e.num then e else y }

/-- A function for which work is placed (R238). -/
def State.vfOn (s : State) (v : Nat) : Bool := (s.vf v).enabled && !(s.vf v).disabling

/-- A chain is walked: its ENABLE is set and its function enabled; a spawn queue is walked always. -/
def State.walked (s : State) (c : Nat) : Bool :=
  if c < 128 then (s.chain c).enable && s.vfOn (s.chain c).vf else true

/-- DOORBELL_WRITE (R224, R356): a write to the doorbell word of chain c, in the page of the chain's function; one that lowers
TAIL is ignored. A spawn queue has no doorbell. -/
def execDoorbellWrite (c tail : Nat) (s : State) : Out :=
  .next (if c < 128 then s.modChain c fun x => { x with tail := Nat.max x.tail tail } else s)

/-- Reads the next entry of a chain. -/
def State.readEntry (c : Nat) (s : State) : State :=
  let ch := s.chain c
  let add (e : Entry) (next : Nat) (halt : Bool) : State :=
    let p := s.part (s.vf (s.entryVf c e)).part
    s.modChain c fun x => { x with
      read := x.read + 1, next := next, halted := halt, queue := x.queue.drop 1,
      entries := x.entries ++ [if enOk p e.raw then e else { e with stage := .completed 3 }] }
  let new (addr raw : Nat) (sp : Option (Nat × Bool)) : Entry :=
    { num := ch.read + 1, addr := addr, raw := raw, stage := .waiting, depOk := false, faulted := none, spawned := sp }
  if ch.halted ∨ ch.tail ≤ ch.read then s
  else if c < 128 then
    let at_ := if ch.read = 0 then ch.first else ch.next
    match s.feNat (chainDie c) ch.vf at_ 64 with
    | none => s
    | some r => (add (new at_ r none) (enNext r) (decide (enNext r % 64 ≠ 0))).feTouch ch.vf [at_]
  else match ch.queue with
    | [] => s
    | q :: _ => add (new q.1 q.2.1 (some (q.2.2.2, q.2.2.1))) 0 false

/-- Entry i has placed every team, has completed or has been refused. -/
def State.entryPast (s : State) (e : Entry) : Bool :=
  match e.stage with
  | .waiting => false
  | .completed _ => true
  | .grid g => match s.grid? g with
    | some x => decide (x.placed = x.nteams)
    | none => true

/-- The conditions of R225 for an entry to start. -/
def State.entryFree (s : State) (c : Nat) (e : Entry) : Bool :=
  let ch := s.chain c
  decide (e.stage = .waiting) && s.vfOn (s.entryVf c e) &&
    (ch.entries.all fun x => decide (e.num ≤ x.num) || s.entryPast x) &&
    (!(enSer e.raw) || decide (e.num ≤ ch.done + 1)) && (!(enDep e.raw) || e.depOk)

/-- The first entry of a chain that may start. -/
def State.nextEntry (s : State) (c : Nat) : Option Entry := (s.chain c).entries.find? fun e => s.entryFree c e

/-- The half that a FAST grid gets: half 0, unless another FAST grid of the partition has it (R222; log entry 72). -/
def State.fastHalf (s : State) (p : Nat) : Nat :=
  if s.grids.any fun g => decide (g.part = p) && g.fast && decide (g.half = 0) then 1 else 0

/-- The shape of an entry is one that the partition could ever hold (STATUS 4). -/
def State.shapeOk (s : State) (g : Grid) : Bool :=
  decide (g.nteams ≠ 0) && decide (g.nteams % g.desc.tpc = 0) && decide (1 ≤ g.l1share) && decide (g.l1share ≤ 24) &&
    coresAll.any fun c => (s.part g.part).couldHold g c

/-- Starts an entry: refuses it, or makes its grid; a cooperative grid is placed whole, and takes its rows after any refill
under way (R165). -/
def State.startEntry (c : Nat) (e : Entry) (s : State) : State :=
  let r := e.raw
  let vf := s.entryVf c e
  let p := (s.vf vf).part
  match (s.part p).codeBase (enKdesc r) with
  | none => s.setEntry c { e with stage := .completed 3 }
  | some base =>
    match s.isKernel (chainDie c) vf (enKdesc r) base, s.readDesc (chainDie c) vf (enKdesc r) base, s.readCapTab (chainDie c) vf r with
    | some false, _, _ => s.setEntry c { e with stage := .completed 3 }
    | some true, some d, some tab =>
      let g : Grid :=
        { id := s.clock.fresh, part := p, vf := vf, tenant := (s.vf vf).tenant, reqtag := enTag r, prio := enPrio r,
          coop := enCoop r, fast := enFast r, half := s.fastHalf p, l1share := enShare r, nteams := enTeams r, desc := d,
          capTab := tab, chain := c, entry := e.num, placed := 0, ended := 0, killed := false, purged := false, paused := false,
          complete := false, since := s.clock.tick }
      let s0 := s.feTouch vf (s.startReads (chainDie c) vf r base)
      if g.coop ∧ s.partRefilling p then s
      else if ¬ s.shapeOk g then s0.setEntry c { e with stage := .completed 4 }
      else
        let s1 := (({ s0 with grids := s0.grids ++ [g] }).bump 1).setEntry c { e with stage := .grid g.id }
        if g.coop then match State.placeAll g (g.nteams / d.tpc) s1 with
          | some s2 => s2
          | none => s0.setEntry c { e with stage := .completed 2 }
        else s1
    | _, _, _ => s

/-- LAUNCH_ENTRY_START (R222 to R226): the chain's entry that is free starts; where none is, the next one is read. -/
def execLaunchEntryStart (c : Nat) (s : State) : Out :=
  .next (if ¬ s.walked c then s
    else match (s.chain c).entries.find? fun e => s.entryFree c e && decide (enKind e.raw = 0) with
      | some e => s.startEntry c e
      | none => s.readEntry c)

/-- The dependence word of an entry has its value (R225). -/
def State.depHolds (s : State) (c : Nat) (e : Entry) : Bool :=
  match s.feNat (chainDie c) (s.entryVf c e) (enDepAddr e.raw) 4 with
  | some w => decide ((w + 2 ^ 32 - enDepVal e.raw) % 2 ^ 32 < 2 ^ 31)
  | none => false

/-- An entry whose dependence word is watched or polled. -/
def Entry.watches (e : Entry) : Bool := decide (e.stage = .waiting) && enDep e.raw && !e.depOk

/-- How many dependence words of the chain's I/O die come before an entry's: the first 4,096 are watched (R226). -/
def State.watchRank (s : State) (c : Nat) (e : Entry) : Nat :=
  ((s.chains.filter fun x => decide (chainDie x.1 = chainDie c) && decide (x.1 < c)).map fun x =>
      (x.2.entries.filter Entry.watches).length).foldl (· + ·) 0 +
    ((s.chain c).entries.filter fun x => x.watches && decide (x.num < e.num)).length

/-- The entries of a chain whose word a test lets the front end look at, and which it finds satisfied. -/
def State.satisfy (c : Nat) (look : Entry → Bool) (s : State) : State :=
  if ¬ s.walked c then s
  else
    let es := (s.chain c).entries.filter fun e => e.watches && look e && s.depHolds c e
    let f (e : Entry) : Entry := if e ∈ es then { e with depOk := true, faulted := none } else e
    es.foldl (fun st e => st.feTouch (s.entryVf c e) [enDepAddr e.raw])
      (s.modChain c fun x => { x with entries := x.entries.map f })

/-- DEPENDENCE_SATISFIED (R225, R226): a watched word. -/
def execDependenceSatisfied (c : Nat) (s : State) : Out := .next (s.satisfy c fun e => decide (s.watchRank c e < 4096))

/-- DEPENDENCE_POLL (R226): a word beyond the 4,096 watched ones. -/
def execDependencePoll (c : Nat) (s : State) : Out := .next (s.satisfy c fun e => decide (4096 ≤ s.watchRank c e))

/-- The addresses that the front end reads for an entry as it stands. -/
def State.entryReads (s : State) (c : Nat) (e : Entry) : List Nat :=
  let vf := s.entryVf c e
  (if e.watches then [enDepAddr e.raw] else []) ++
    (if enKind e.raw = 0 ∧ s.entryFree c e then
      s.startReads (chainDie c) vf e.raw (((s.part (s.vf vf).part).codeBase (enKdesc e.raw)).getD 0) else [])

/-- What a front-end access meets: cause 0x03 where its address does not translate; cause 0x0C where a die on its route is in
Dawn or Midnight, or has kept it stalled for 20 µs (R19). -/
def State.feMeets (s : State) (c vf va : Nat) (n : Need) : Option RecInfo :=
  match s.hostWalk vf n va with
  | none => some { cause := 0x03, reason := s.hostReason vf n va, addr1 := va }
  | some k => match s.feGate (chainDie c) k with
    | .go => none
    | .dead d => some { cause := 0x0C, addr1 := va, die := some d }
    | .stall => match (s.chain c).stalls.find? fun x => decide (x.1 = va) with
      | some b => if b.2 + 28000 ≤ s.clock.cycle then
          some { cause := 0x0C, addr1 := va, die := s.duskOn (route (chainDie c) (homeDie k)) } else none
      | none => none

/-- The first front-end read of an entry that faults. -/
def State.feFault (s : State) (c : Nat) (e : Entry) : Option RecInfo :=
  (s.entryReads c e).findSome? fun va => s.feMeets c (s.entryVf c e) va .rd

/-- The entries that DONE rises over: the completed ones that follow it. -/
def doneRun : Nat → List Entry → Nat → List Entry
  | 0, _, _ => []
  | n + 1, es, d => match es.find? fun e => decide (e.num = d + 1) with
    | none => []
    | some e => match e.stage with
      | .completed _ => e :: doneRun n es (d + 1)
      | _ => []

def Chain.doneNow (ch : Chain) : List Entry := doneRun ch.entries.length ch.entries ch.done

/-- The STATUS of an entry is written: always, but for a spawned one whose capability has no W (R234). -/
def Entry.writesBack (e : Entry) : Bool := match e.spawned with | some x => x.2 | none => true

/-- The accesses of a chain of its own, as function, address, request tag and what they need: the read of its next entry, and
the writes with which DONE is to rise. -/
def State.chainOwn (s : State) (c : Nat) : List (Nat × Nat × Nat × Need) :=
  let ch := s.chain c
  (if s.walked c ∧ c < 128 ∧ ¬ ch.halted ∧ ch.read < ch.tail then [(ch.vf, if ch.read = 0 then ch.first else ch.next, 0, Need.rd)]
    else []) ++
    ((ch.doneNow.filter Entry.writesBack).map fun e => (s.entryVf c e, e.addr + 48, enTag e.raw, Need.wr)) ++
    (if ch.doneNow.isEmpty ∨ ch.compaddr = 0 then [] else [(ch.vf, ch.compaddr, 0, Need.wr)])

/-- The addresses at which a chain's accesses are stalled in Dusk. -/
def State.feStalled (s : State) (c : Nat) : List Nat :=
  let stall (vf va : Nat) (n : Need) : Bool := match s.hostWalk vf n va with
    | some k => decide (s.feGate (chainDie c) k = .stall)
    | none => false
  ((if s.walked c then ((s.chain c).entries.filter fun e => decide (e.stage = .waiting)).flatMap fun e =>
      (s.entryReads c e).filter fun va => stall (s.entryVf c e) va .rd else []) ++
    ((s.chainOwn c).filter fun x => stall x.1 x.2.1 x.2.2.2).map fun x => x.2.1).eraseDups

/-- A chain as the front end finds it now: since when each of its accesses is stalled; and one that faulted and faults no
more, since the supervisor has resolved it, may fault anew (R226). -/
def State.feNow (s : State) (c : Nat) (x : Chain) : Chain :=
  { x with
    stalls := (s.feStalled c).map fun va => (va, ((x.stalls.find? fun y => decide (y.1 = va)).map Prod.snd).getD s.clock.cycle),
    faulted := if (s.chainOwn c).all fun y => decide (x.faulted ≠ some y.2.1) || (s.feMeets c y.1 y.2.1 y.2.2.2).isNone then none
      else x.faulted,
    entries := x.entries.map fun e => if e.faulted.isSome ∧ (s.feFault c e).isNone then { e with faulted := none } else e }

/-- Since when the accesses of each chain are stalled. -/
def State.feStalls (s : State) : State :=
  s.chains.foldl (fun st c => if s.feNow c.1 c.2 = c.2 then st else st.modChain c.1 (s.feNow c.1)) s

/-- The first access of a chain's own that faults anew: its function, request tag and what it meets. -/
def State.chainFault (s : State) (c : Nat) : Option (Nat × Nat × RecInfo) :=
  (s.chainOwn c).findSome? fun x => if (s.chain c).faulted = some x.2.1 then none
    else (s.feMeets c x.1 x.2.1 x.2.2.2).map fun i => (x.1, x.2.2.1, i)

/-- The record of a front end's access. -/
def State.feRecord (c vf tag : Nat) (i : RecInfo) (s : State) : State :=
  let d := chainDie c
  s.waitRecord d
    { q := .part (s.vf vf).part,
      words := recordWords i tag (s.vf vf).tenant 0 0 0 0 (i.die.getD d) (DieState.code (s.die (i.die.getD d)).st) 0 0 }

/-- FRONT_END_READ_FAULT (R19, R226): one record for each read that faults; the entry goes on once its reads succeed. A read
of the chain's own, or a write with which DONE is to rise, is reported alike, and is made once it can be (log entry 72). -/
def execFrontEndReadFault (c : Nat) (s : State) : Out :=
  let new (e : Entry) : Option RecInfo := (s.feFault c e).bind fun i => if e.faulted = some i.addr1 then none else some i
  .next (match (s.chain c).entries.find? fun e => decide (e.stage = .waiting) && (new e).isSome with
    | none => match s.chainFault c with
      | none => s
      | some x => (s.modChain c fun y => { y with faulted := some x.2.2.addr1 }).feRecord c x.1 x.2.1 x.2.2
    | some e =>
      match new e with
      | none => s
      | some i => (s.setEntry c { e with faulted := some i.addr1 }).feRecord c (s.entryVf c e) (enTag e.raw) i)

/-- A team of the partition returns before a new one is placed (R238). -/
def State.awaitsRestore (s : State) (p : Nat) : Bool :=
  s.teams.any fun t => t.replace && (match s.grid? t.id.grid with | some g => decide (g.part = p) && s.vfOn g.vf | none => false)

/-- TEAM_PLACEMENT (R227). -/
def execTeamPlacement (g : Nat) (s : State) : Out :=
  .next (match s.grid? g with
    | none => s
    | some x =>
      if x.nteams ≤ x.placed ∨ x.coop ∨ x.purged ∨ x.paused ∨ ¬ s.vfOn x.vf ∨ s.awaitsRestore x.part then s
      else (s.placeNext x).getD s)

/-- MARKER_COMPLETION (R225). -/
def execMarkerCompletion (c : Nat) (s : State) : Out :=
  .next (if ¬ s.walked c then s
    else match (s.chain c).entries.find? fun e => decide (enKind e.raw = 1) && decide (e.stage = .waiting) &&
        (!(enSer e.raw) || decide (e.num ≤ (s.chain c).done + 1)) && (!(enDep e.raw) || e.depOk) with
      | some e => s.setEntry c { e with stage := .completed 1 }
      | none => s)

/-- CHAIN_DONE_ADVANCE (R225, R234, R356): STATUS words, then the completion word, then the notification. -/
def execChainDoneAdvance (c : Nat) (s : State) : Out :=
  let ch := s.chain c
  let es := ch.doneNow
  let waits := (es.any fun e => e.writesBack && s.feWaits (chainDie c) (s.entryVf c e) (e.addr + 48)) ||
    (decide (ch.compaddr ≠ 0) && s.feWaits (chainDie c) ch.vf ch.compaddr)
  .next (if es.isEmpty ∨ waits then s
    else
      let d := ch.done + es.length
      let s1 := es.foldl (fun st e =>
        let code := match e.stage with | .completed x => x | _ => 0
        if e.writesBack then st.feWrite (s.entryVf c e) (e.addr + 48) 4 code else st) s
      let s2 := s1.modChain c fun x => { x with done := d, entries := x.entries.filter fun e => decide (d < e.num) }
      let s3 := if ch.compaddr = 0 then s2 else s2.feWrite ch.vf ch.compaddr 4 (d % 2 ^ 32)
      if c < 128 then s3.modRoot fun r => { r with hostOut := (ch.notify, (natLE 8 d).map BitVec.toNat) :: r.hostOut } else s3)

/-! ## Ends (R67) -/

/-- A group's victim tags and retain bits are dropped (R204, R211). -/
def State.dropLocality (g : Group) (s : State) : State :=
  (s.modQuad (Group.qid g) fun q => { q with victims := q.victims.filter fun v => decide (v.2.2 ≠ g.id) }).modCore g.core
    fun x => { x with blocks := x.blocks.map fun b => if b.owner = g.id then { b with keep := false } else b }

/-- The lease of an ACTIVE group that ends is free from the next cycle on (R239). -/
def State.leaseEnds (g : Group) (s : State) : State :=
  match s.grid? g.id.grid, g.act with
  | some x, .active => s.modCore g.core fun c => { c with freed :=
      (c.freed.filter fun e => decide (e.2.1 = s.clock.cycle)) ++ [(x.id, s.clock.cycle, Nat.min (Group.lease g) (x.l1share * 4096))] }
  | _, _ => s

/-- GROUP_END (R67): every thread has exited and all four counters are zero. -/
def execGroupEnd (gid : GroupId) (s : State) : Out :=
  .next (match s.group? gid with
    | none => s
    | some g =>
      if ¬ (s.groupThreads gid).isEmpty ∨ ¬ g.counts.isEmpty then s
      else
        let s1 := (s.dropLocality g).leaseEnds g
        { s1 with groups := s1.groups.filter fun x => decide (x.id ≠ gid) })

/-- A command that names a counter, a slot or a tile of its team. -/
def Cmd.namesTeam (c : Cmd) : Bool := c.cw.isSome || c.guard.isSome || !c.isMatrix

/-- TEAM_END (R67). -/
def execTeamEnd (tm : TeamId) (s : State) : Out :=
  .next (match s.team? tm with
    | none => s
    | some t =>
      if (s.groups.any fun g => decide (g.id.tmid = tm)) ∨ (s.cmds.any fun c => decide (c.th.tmid = tm) && c.namesTeam) then s
      else
        let s1 := if t.saved then s else t.tiles.foldl (fun st m => st.setTile t.core m 0) s
        ({ s1 with teams := s1.teams.filter fun x => decide (x.id ≠ tm) }).modGrid tm.grid fun g => { g with ended := g.ended + 1 })

/-- Every write of the device's cores and L2s is made present at the device point. -/
def State.publishAll (s : State) : State :=
  s.cores.foldl (fun st c => st.publish { die := c.1 / 48, core := c.1 % 48 } .device fun _ => true)
    ((List.range 4).foldl (fun st d => st.pushL2 d fun _ => true) s)

/-- A byte cannot go from a die to the device point now: its frame is locked (R219), or a die between is not in Noon (R18). -/
def State.keptBack (s : State) (d a : Nat) : Bool := s.frameLocked a || decide (s.gate (route d (homeDie a)) ≠ .go)

/-- A write that a core or an L2 of the device has still to make at the device point waits. -/
def State.publishWaits (s : State) : Bool :=
  (s.cores.any fun c => c.2.writes.any fun w => w.pub.isNone && !isRemote w.addr && s.keptBack (c.1 / 48) w.addr) ||
    s.dies.any fun d => d.2.l2.any fun l => l.dirty.any fun e => s.keptBack d.1 e.addr

/-- GRID_COMPLETION (R67): its writes at device scope, then its entry's completion. -/
def execGridCompletion (g : Nat) (s : State) : Out :=
  .next (match s.grid? g with
    | none => s
    | some x =>
      if x.placed ≠ x.ended ∨ (x.nteams ≠ x.placed ∧ ¬ x.purged) ∨ s.publishWaits then s
      else
        let s1 := s.publishAll
        let s2 := match (s1.chain x.chain).entries.find? fun e => decide (e.num = x.entry) with
          | none => s1
          | some e => s1.setEntry x.chain { e with stage := .completed (if x.killed then 5 else 1) }
        { s2 with grids := s2.grids.filter fun y => decide (y.id ≠ g) })

end Sys2Proof.Machine
end

