-- ==== Sys2Proof/Machine/Sched.lean ====
section
/-! DEFINITION. The scheduling engine: activation, leases, urgency and swaps (R210, R216, R229 to R232), SPAWN, QSTAT and
PRIO (R234, R235), the watchdog (R236), SLEEP and YIELD (R140). -/

namespace Sys2Proof.Machine
open Host

/-! ## SPAWN (R234) -/

/-- A number with one bit field replaced. -/
def putBits (v i n x : Nat) : Nat := v - bitsAt v i n * 2 ^ i + x % 2 ^ n * 2 ^ i

/-- The checks of SPAWN before its lane loop: its entry and code capabilities. -/
def State.spawnCaps (s : State) (t : Thread) (k x : Nat) : Except RecInfo (Cap × Cap) :=
  match s.capOf t.id.tmid k, s.capOf t.id.tmid x with
  | none, _ => .error { cause := 0x04, info := k }
  | _, none => .error { cause := 0x04, info := x }
  | some e, some c =>
    if e.tenant ≠ s.tenantOf t.id ∨ ¬ cPermBit e capR then .error { cause := 0x04, info := k }
    else if c.tenant ≠ s.tenantOf t.id ∨ ¬ cPermBit c capX then .error { cause := 0x04, info := x }
    else .ok (e, c)

/-- SPAWN: the checks, then each lane waits for its result. -/
def execSpawn (d k x a : Nat) (s : State) : Out :=
  .next (s.holdEach fun st t =>
    match st.spawnCaps t k x with
    | .error i => .error i
    | .ok v =>
      let off := (t.srcPair a).toNat
      if off % 64 ≠ 0 then .error { cause := 0x06, addr1 := vaOf (v.1.base + off : Nat) }
      else if v.1.extent < off + 64 then .error { cause := 0x05, addr1 := vaOf (v.1.base + off : Nat) }
      else .ok (st, .spawn (regNo t.wb d) v.1 v.2 off (s.clock.cycle + 300)))

/-- The entry's 64 bytes as the thread's plain load returns them, or the fault that the read meets. -/
def State.readSpawn (t : Thread) (e : Cap) (off : Nat) (s : State) : State × Except (Option RecInfo) Nat :=
  let va := e.base + off
  if Cap.remote e then (s, .error (some { cause := 0x0D, addr1 := va }))
  else
    let ps := (List.range 4).map fun i => (va + 16 * i, 16)
    let r := s.translateAll t.qid (s.vfOf t.id) .rd ps
    match r.2 with
    | .error x => (r.1, .error (some { cause := 0x03, reason := x.1, addr1 := x.2 }))
    | .ok ks =>
      let keys := pieceBytes ks
      let dies := r.1.routeOf t (.load .n128 false) keys
      if keys.any isRemote then (r.1, .error (some { cause := 0x0D, addr1 := va }))
      else match r.1.gate dies with
        | .dead d => (r.1, .error (some { cause := 0x0C, addr1 := va, die := some d }))
        | .stall =>
          let late := (match t.stallAt with | some c => decide (c + 28000 ≤ s.clock.cycle) | none => false)
          (r.1, .error (if late then some { cause := 0x0C, addr1 := va, die := r.1.duskOn dies } else none))
        | .go =>
          if keys.any fun k => r.1.bytePoisoned t k then (r.1, .error (some { cause := 0x0B, addr1 := va }))
          else
            let l1 := r.1.l1Access t.id.gid t.pc .none s.clock.cycle (wordsOf16 keys)
            let s1 := (l1.1.imageAll t keys).fillBlock t l1.2.fills
            (s1.observe t.id (s1.freshOf t keys), .ok (leNat (keys.map fun k => s1.loadByte t false k)))

/-- Every access that a thread has issued has taken effect, as an engine's issue asks (R82). -/
def State.accessesDone (s : State) (t : ThreadId) : Bool :=
  s.ops.all fun o => !(decide (o.th = t) && (match OpKind.cls o.kind with | .ld | .st | .at_ => true | _ => false)) ||
    s.tookEffect o.id

/-- Entries appended to a spawn queue and not complete. -/
def State.spawnHeld (s : State) (p : Nat) : Nat := (s.chain (spawnChain p)).tail - (s.chain (spawnChain p)).done

/-- SPAWN's result in one thread: the pair, and the thread goes on. -/
def State.spawnAnswer (t : Thread) (d count code : Nat) (s : State) : State :=
  s.modThread t.id fun x => (x.passHeld 2).setPair d (BitVec.ofNat 64 (count % 2 ^ 32 * 2 ^ 32 + code))

/-- No earlier lane of the partition's SPAWNs waits for its result: entries are appended in order. -/
def State.spawnFirst (s : State) (t : Thread) (due : Nat) : Bool :=
  s.threads.all fun u => match u.wait with
    | .spawn _ _ _ _ d => u.park.isSome || decide (s.partOf u.id ≠ s.partOf t.id) || decide (u.id = t.id) ||
        decide (due < d) || (decide (due = d) && ThreadId.before t.id u.id)
    | _ => true

/-- SPAWN_RESULT (R234). A marker has no kernel descriptor, so the test of its KDESC, which is zero, is not made (log entry
72). -/
def execSpawnResult (tid : ThreadId) (s : State) : Out :=
  .next (match s.thread? tid with
    | none => s
    | some t =>
      match t.wait with
      | .spawn d e c off due =>
        if t.park.isSome ∨ s.clock.cycle < due ∨ ¬ s.spawnFirst t due ∨ ¬ s.accessesDone tid then s
        else
          let r := s.readSpawn t e off
          match r.2 with
          | .error none => s.modThread tid fun x => { x with stallAt := some (x.stallAt.getD s.clock.cycle) }
          | .error (some i) =>
            (r.1.modThread tid fun x => { x with wait := .none, stallAt := none }).raise
              [{ th := tid, info := { i with addr0 := t.pc }, resume := t.pc }] none
          | .ok raw =>
            let p := s.partOf tid
            if ¬ enOk (s.part p) raw ∨ (enKind raw = 0 ∧ (enKdesc raw < c.base ∨ c.base + c.extent ≤ enKdesc raw)) then
              r.1.spawnAnswer t d 0 3
            else if 4096 ≤ s.spawnHeld p then r.1.spawnAnswer t d 0 7
            else
              let gp := ((s.group? tid.gid).map Group.prio).getD 0
              let raw' := putBits (putBits raw 48 16 (s.reqtagOf tid)) 16 3
                (if enKind raw = 0 then Nat.min (enPrio raw) gp else enPrio raw)
              let s1 := r.1.modChain (spawnChain p) fun x => { x with
                vf := s.vfOf tid, enable := true, tail := x.tail + 1,
                queue := x.queue ++ [(e.base + off, raw', cPermBit e capW, s.vfOf tid)] }
              s1.spawnAnswer t d ((s.chain (spawnChain p)).tail + 1) 0
      | _ => s)

/-! ## QSTAT and PRIO (R235) -/

/-- The share of a launch on each core, in 16-byte words (R230). -/
def Grid.share (g : Grid) : Nat := g.l1share * 4096

/-- Λ: the leases of a launch's ACTIVE groups on a core. -/
def State.lambda (s : State) (g : Grid) (c : CoreId) : Nat :=
  ((s.groups.filter fun x => decide (x.id.grid = g.id) && decide (x.core = c) && decide (x.act = .active)).map fun x =>
    Nat.min (Group.lease x) g.share).foldl (· + ·) 0

/-- The value that QSTAT reads. -/
def State.qstat (s : State) (t : Thread) (sel : Nat) : Nat :=
  let p := s.partOf t.id
  let inQuad := s.groups.filter fun g => decide (Group.qid g = t.qid)
  match sel with
  | 0 => 4096 - s.spawnHeld p
  | 1 => (s.chain (spawnChain p)).done
  | 2 => ((s.group? t.id.gid).map Group.prio).getD 0
  | 3 => (inQuad.filter fun g => decide (g.act = .active)).length
  | 4 => (inQuad.filter fun g => decide (g.act ≠ .saved)).length
  | 5 => 2048 - s.usedRows s.groupRows t.qid Group.holdsRows 0 64
  | 6 => match s.gridOf t.id with
    | some g => wrap 32 ((g.share : Int) - (s.lambda g t.core : Int))
    | none => 0
  | _ => (s.groups.filter fun g => decide (g.id.grid = t.id.grid) && (decide (g.act = .swapped) || decide (g.act = .saved))).length

/-- QSTAT (R235). -/
def execQstat (d sel : Nat) (s : State) : Out := .next (s.lanesOk fun t => t.dst d (BitVec.ofNat 32 (s.qstat t sel)))

/-- PRIO (R235): the entry's PRIO is the ceiling. -/
def execPrio (p : Nat) (s : State) : Out :=
  .next (s.bundleGroups.foldl (fun st g => st.modGroup g fun x =>
    { x with prio := Nat.min p (((s.grid? g.grid).map Grid.prio).getD 7) }) s.retireAll)

/-! ## Activation (R229 to R232) -/

/-- A group waits for activation: eligible, not being stopped, its function enabled. -/
def State.eligible (s : State) (g : Group) : Bool :=
  (decide (g.act = .waiting) || decide (g.act = .held)) && (match s.team? g.id.tmid with
    | some t => !t.stopping
    | none => false) && !g.fetchHeld

/-- The rows that a waiting group takes when it becomes ACTIVE (R230). -/
def State.charge (s : State) (g : Group) : Nat :=
  (if g.started then s.valueRegs g else ((s.grid? g.id.grid).map fun x => x.desc.regs).getD 0) + 8

/-- A saved team's scratchpad has room on its core again (R216). -/
def State.spadRoom (s : State) (tm : TeamId) : Bool :=
  match s.team? tm with
  | none => false
  | some t =>
    if ¬ t.saved then true
    else match s.grid? tm.grid with
      | none => false
      | some g =>
        let p := s.part g.part
        let mine := (s.residents t.core).filter fun x => decide (((s.grid? x.id.grid).map Grid.part).getD 0 = g.part)
        let used := (mine.map fun x => spadSteps (((s.grid? x.id.grid).map fun y => y.desc.spad).getD 0)).foldl (· + ·) 0
        decide (used + spadSteps g.desc.spad + g.l1share ≤ 6 * (p.quadsOn t.core).length) &&
          decide (mine.length < 4 * (p.quadsOn t.core).length) &&
          mine.all fun x => x.tiles.all fun m => decide (m ∉ t.tiles)

/-- The rows test of R230; rows of the quadrant go to a refill first (R165). -/
def State.rowsTest (s : State) (g : Group) : Bool :=
  decide (g.act = .held) || (decide (s.charge g ≤ s.freeRows (Group.qid g) g.id.grid g.laneBase g.width) &&
    !(s.refilling (Group.qid g)) && s.spadRoom g.id.tmid)

/-- Lease words of a launch's groups on a core that ended in this cycle: free from the next on (R239). -/
def State.leaseFreed (s : State) (g : Grid) (c : CoreId) : Nat :=
  (((s.core c).freed.filter fun e => decide (e.1 = g.id) && decide (e.2.1 = s.clock.cycle)).map fun e => e.2.2).foldl (· + ·) 0

/-- The lease test of R230. -/
def State.leaseTest (s : State) (g : Group) : Bool :=
  match s.grid? g.id.grid with
  | none => false
  | some x => decide (s.lambda x g.core + s.leaseFreed x g.core + Nat.min (Group.lease g) x.share ≤ x.share)

/-- Eligible groups are tested in descending priority, then in ascending eligibility time (R230). -/
def Group.first (a b : Group) : Bool :=
  decide (b.prio < a.prio) || (decide (a.prio = b.prio) && decide (a.eligSince < b.eligSince))

/-- The oldest urgent group of a core: urgent groups are served in order of eligibility time (R232). -/
def State.urgentOn (s : State) (c : CoreId) : Option Group :=
  (s.groups.filter fun g => decide (g.core = c) && g.urgent && s.eligible g).foldl (fun m g => match m with
    | none => some g
    | some x => if g.eligSince < x.eligSince then some g else m) none

/-! ## What a save keeps of a team (R216, R237, R279, R303) -/

def State.teamGroups (s : State) (t : TeamId) : List Group := s.groups.filter fun g => decide (g.id.tmid = t)

def State.teamPart (s : State) (t : Team) : Nat := ((s.grid? t.id.grid).map Grid.part).getD 0
/-- The block of a copy. -/
def Cmd.copyBlk (c : Cmd) : Option (Bool × List Word) :=
  match c.kind with
  | .cpy b _ _ _ => some (false, b)
  | .cpyr b _ _ _ _ => some (true, b)
  | _ => none

/-- A copy or CRED that has moved no byte and is not held: a CPYR that has not left, a CRED that has read nothing. -/
def Cmd.unmoved (c : Cmd) : Bool :=
  !c.isMatrix && c.contrib.isNone && (c.kind.isCpyr || (decide (c.moved = 0) && c.ahead.isEmpty && c.taken.isEmpty)) &&
    (decide (c.st = .queued) || decide (c.st = .running))

/-- The recorded copy of a team drains tile m. -/
def State.drainsTile (s : State) (t : TeamId) (m : Nat) : Bool :=
  s.cmds.any fun c => decide (c.th.tmid = t) && c.unmoved && (match c.copyBlk with
    | some b => blkDrain b.2 && decide (blkSM b.2 = m)
    | none => false)

/-- A team's tile entries as they are saved: DRAINING is READY where its copy is recorded for reissue (R303). -/
def State.tilesToSave (s : State) (t : Team) : List (Nat × DWord) :=
  if t.saved then t.savedTiles
  else t.tiles.map fun m =>
    let e := s.tile t.core m
    (m, if tState e = 3 ∧ s.drainsTile t.id m then tSt e 2 else e)

/-- Copies in flight that write tile m of a team on a core: its own, and transfers that the tile has accepted there (R285). -/
def State.copiesOf (s : State) (t : TeamId) (c : CoreId) (m : Nat) : Nat :=
  (s.root.inbound.filter fun e => e.inFlight && decide (e.owner = some t) && decide (e.x.die = c.die) && decide (e.x.core = c.core) &&
    decide (e.x.tile = m)).length +
  (s.cmds.filter fun c => decide (c.th.tmid = t) && decide (c.st ≠ .decide) && (match c.copyBlk with
    | some b => !b.1 && blkDT b.2 && decide (blkDM b.2 = m)
    | none => false)).length

/-- The saved tile entry under the team's new slot; the copy that is reissued drains it again. -/
def State.tileBack (s : State) (t : TeamId) (slot m : Nat) (e : DWord) : DWord :=
  tMake (if tState e = 2 ∧ s.drainsTile t m then 3 else tState e) (tRW e) slot (tExpect e) (tArrived e) (tSize e) (tBase e)

/-- The quadrants of a team's groups. -/
def State.teamQuads (s : State) (t : Team) : List Nat := ((s.teamGroups t.id).map Group.quad).eraseDups

/-- A team as it is saved: its tiles; and, where a command stopped it (R237), its quadrants with the codebook and the fusion
mode, which a team whose groups are all swapped out leaves where they are (R216). -/
def State.stow (s : State) (t : Team) : Team :=
  let p := s.teamPart t
  let t1 := { t with stopping := false, saveStall := none, saved := true, savedTiles := s.tilesToSave t }
  if t.stopped.isNone then t1
  else { t1 with
    savedQuads := (s.teamQuads t).map fun q => (q, s.quad (quadOn t.core q)),
    savedBook := (s.core t.core).codebook.filter fun e => decide (e.1 / 256 = p),
    savedFuse := tget 0 (s.core t.core).fuse p }

/-- The team is saved: its recorded copies wait, and its tiles are free. -/
def State.stowTeam (t : Team) (s : State) : State :=
  let s1 := s.setCmds (s.cmds.map fun c => if c.th.tmid = t.id ∧ c.unmoved then
    { c with st := .queued, stalls := [], moved := 0, ahead := [], taken := [] } else c)
  (if t.saved then s1 else t.tiles.foldl (fun st m => (st.setTile t.core m 0).modCore t.core fun x =>
    { x with tileCopies := tput 0 x.tileCopies m 0 }) s1).modTeam t.id fun _ => s.stow t

/-- The teams on a core that have brought back what this one left too: stopped by one command, on one core (R253). -/
def State.backWith (s : State) (t : Team) (c : CoreId) : List Team :=
  s.teams.filter fun u => decide (u.id ≠ t.id) && !u.saved && decide (u.core = c) && decide (u.stopped = t.stopped)

/-- The state of a quadrant of a core, or a partition's codebook and fusion mode there, is back already. -/
def State.quadBack (s : State) (t : Team) (c : CoreId) (q : Nat) : Bool :=
  (s.backWith t c).any fun u => decide (q ∈ s.teamQuads u)
def State.bookBack (s : State) (t : Team) (c : CoreId) : Bool :=
  (s.backWith t c).any fun u => decide (s.teamPart u = s.teamPart t)

/-- The tiles, quadrants, codebook and fusion mode of a saved team on a core, under a slot. -/
def State.unstow (t : Team) (c : CoreId) (slot : Nat) (s : State) : State :=
  let p := s.teamPart t
  let s1 := s.modTeam t.id fun x => { x with
    core := c, slot := slot, saved := false, stopping := false, replace := false, savedTiles := [], savedQuads := [],
    savedBook := [], savedFuse := 0, saveHeld := false }
  let s2 := t.savedTiles.foldl (fun st e => (st.setTile c e.1 (st.tileBack t.id slot e.1 e.2)).modCore c fun x =>
    { x with tileCopies := tput 0 x.tileCopies e.1 (st.copiesOf t.id c e.1) }) s1
  let s3 := t.savedQuads.foldl (fun st e => if s.quadBack t c e.1 then st else st.modQuad (quadOn c e.1) fun q => { q with
    tiles := e.2.tiles, latch := e.2.latch, issuedFmt := e.2.issuedFmt, env := e.2.env, eof := e.2.eof, mism := e.2.mism,
    tmms := e.2.tmms }) s2
  (if t.stopped.isNone ∨ s.bookBack t c then s3
    else s3.modCore c fun x => { x with
      codebook := t.savedBook.foldl (fun m e => tput 0 m e.1 e.2) (x.codebook.filter fun e => decide (e.1 / 256 ≠ p)),
      fuse := tput 0 x.fuse p t.savedFuse }).fitL1 c p

/-- What the dies between a team's core and its partition's save area do to the traffic of a save (R237). -/
def State.saveGate (s : State) (t : Team) : Gate := s.gate (route t.core.die (homeDie (s.part (s.teamPart t)).saveBase))

/-- A team whose groups are all swapped out is restored on its core (R216). -/
def State.unsaveTeam (tm : TeamId) (s : State) : State :=
  match s.team? tm with
  | none => s
  | some t => if t.saved then s.unstow t t.core (s.freeSlot t.core) else s

/-- A group that passes both tests, with no urgent group of its core before it (R230, R232). A HELD group returns here only
when it is urgent; else at the end of a window (R231). -/
def State.passes (s : State) (g : Group) : Bool :=
  s.eligible g && (decide (g.act = .waiting) || g.urgent) && s.rowsTest g && s.leaseTest g &&
    (!g.started || decide (g.act = .held) || decide (((s.team? g.id.tmid).map s.saveGate).getD .go = .go)) &&
    (match s.urgentOn g.core with
      | some u => decide (g.eligSince ≤ u.eligSince)
      | none => true)

/-- The group is the next of its core to be activated. -/
def State.nextActive (s : State) (g : Group) : Bool :=
  s.passes g && s.groups.all fun x => !(decide (x.core = g.core) && decide (x.id ≠ g.id) && s.passes x && x.first g)

/-- GROUP_ACTIVATION (R230). -/
def execGroupActivation (gid : GroupId) (s : State) : Out :=
  .next (match s.group? gid with
    | none => s
    | some g => if s.nextActive g then (s.unsaveTeam gid.tmid).activate gid else s)

/-- The group that R231 and R232 take first: lowest priority, then most recently activated; of those activated in one cycle
the first in the model's order, as the spec gives no tie (log entry 72). -/
def takeFirst (gs : List Group) : Option Group :=
  gs.foldl (fun m g => match m with
    | none => some g
    | some x => if g.prio < x.prio ∨ (g.prio = x.prio ∧ x.actSince < g.actSince) then some g else m) none

def State.isCoop (s : State) (g : Group) : Bool := ((s.grid? g.id.grid).map Grid.coop).getD false

/-- Moves an ACTIVE group to HELD; its eligibility starts (R229). -/
def State.holdGroup (gid : GroupId) (s : State) : State :=
  s.modGroup gid fun g => { g with act := .held, eligSince := s.clock.cycle }

/-- Holds groups of the launch on the core until the lease test of an urgent group holds (R232). -/
def State.leaseRoom (g : Group) : Nat → State → State
  | 0, s => s
  | n + 1, s =>
    if s.leaseTest g then s
    else match takeFirst (s.groups.filter fun x => decide (x.id.grid = g.id.grid) && decide (x.core = g.core) &&
        decide (x.act = .active) && decide (x.id ≠ g.id) && !(s.isCoop x) && !x.urgent) with
      | none => s
      | some v => State.leaseRoom g n (s.holdGroup v.id)

/-- The next group that is swapped out for an urgent group whose rows test fails (R232). -/
def State.rowsVictim (s : State) (g : Group) : Option Group :=
  if s.rowsTest g then none
  else takeFirst (s.groups.filter fun x => decide (Group.qid x = Group.qid g) && decide (x.id ≠ g.id) &&
    (decide (x.act = .active) || decide (x.act = .held)) && !(s.isCoop x) && !x.urgent)

/-- GROUP_URGENT (R232): 40 µs after a group became eligible. Groups of its launch are held until its lease test holds, once it
is the oldest urgent group of its core; the swaps for its rows test are GROUP_SWAPs. -/
def execGroupUrgent (gid : GroupId) (s : State) : Out :=
  .next (match s.group? gid with
    | none => s
    | some g =>
      if s.eligible g ∧ g.eligSince + 56000 ≤ s.clock.cycle ∧ (¬ g.urgent ∨ ¬ s.leaseTest g) then
        let s1 := s.modGroup gid fun x => { x with urgent := true }
        if (s1.urgentOn g.core).map Group.id = some gid then State.leaseRoom g s.groups.length s1 else s1
      else s)

/-! ## Lease windows (R210, R211, R231) -/

/-- The words that a group touched in the window, over every residence of a block. -/
def State.windowWords (s : State) (g : Group) : Nat :=
  g.winWords + (((s.core g.core).blocks.flatMap Block.winTouched).filter fun e => decide (e.1 = g.id)).foldl
    (fun n e => n + popcount e.2) 0

/-- Groups in the order of R230. -/
def insFirst (g : Group) : List Group → List Group
  | [] => [g]
  | x :: r => if x.first g then x :: insFirst g r else g :: x :: r

/-- What the window's end does to one launch on one core (R231). -/
def State.windowActs (s0 : State) (gid : Nat) (c : CoreId) (s : State) : State :=
  let here (st : State) : List Group := st.groups.filter fun g => decide (g.id.grid = gid) && decide (g.core = c)
  let act := (here s0).filter fun g => decide (g.act = .active)
  let limit := (s0.part (((s0.grid? gid).map Grid.part).getD 0)).threshold
  if act.any fun g => decide (limit < g.lostloc) then
    if act.length < 2 then s
    else match takeFirst (act.filter fun g => !(s0.isCoop g)) with
      | none => s
      | some v => s.holdGroup v.id
  else (((here s0).filter fun g => decide (g.act = .held)).foldr insFirst []).foldl (fun st g =>
    match st.group? g.id with
    | some x =>
      let first : Bool := match st.urgentOn c with
        | some u => decide (x.eligSince ≤ u.eligSince)
        | none => true
      if st.eligible x ∧ st.leaseTest x ∧ first then st.activate g.id else st
    | none => st) s

/-- LEASE_WINDOW_END (R210, R211, R231): every 4,096 cycles. A group that holds no footprint keeps its measured lease
(R216). -/
def execLeaseWindowEnd (s : State) : Out :=
  .next (if s.clock.cycle < 4096 * (s.clock.windows + 1) then s
    else
      let s1 : State := { s with
        clock := { s.clock with windows := s.clock.windows + 1 },
        groups := s.groups.map fun g => { g with
          measured := if Group.holdsRows g then Nat.max 1 (Nat.min 98304 (s.windowWords g)) else g.measured,
          winWords := 0, lostPrev := g.lostloc, lostloc := 0 },
        cores := s.cores.map fun c => (c.1, { c.2 with blocks := c.2.blocks.map fun b => { b with winTouched := [] } }) }
      let s2 := s.groups.foldl (fun st g => if g.lostloc = 0 then st else st.countEv 0x24 (QuadId.idx (Group.qid g)) g.lostloc) s1
      (s.groups.map fun g => (g.id.grid, g.core)).eraseDups.foldl (fun st x => s.windowActs x.1 x.2 st) s2)

/-! ## Swaps (R165, R206, R216, R232) -/

/-- A load or returning atomic of the group is outstanding. -/
def State.loadsOut (s : State) (want : ThreadId → Bool) : Bool :=
  s.ops.any fun o => want o.th && (match o.kind with
    | .load _ _ | .loadFrag => true
    | .atomic _ _ _ _ _ => o.dst.isSome
    | _ => false) && o.failed.isNone

/-- Materialises the load recipes of some threads: the state, and whether all are done. A fault parks its thread, unless it
is parked already, and the save waits till the recipe has become a value (R163, R166; log entry 39). -/
def State.matLoads : List ThreadId → State → State × Bool
  | [], s => (s, true)
  | t :: r, s =>
    match s.thread? t, s.group? t.gid with
    | some th, some g =>
      let v := s.materialiseAll t (th.loadRecipes g)
      match v.2 with
      | .wait w => (v.1.modThread t fun x => { x with stallAt := (x.holdFor w s.clock.cycle).stallAt }, false)
      | .fault i =>
        ((State.matLoads r (if th.park.isSome then s
          else v.1.raise [{ th := t, info := { i with addr0 := th.pc }, resume := th.pc }] none)).1, false)
      | .go => State.matLoads r (v.1.modThread t fun x => { x with stallAt := none })
    | _, _ => State.matLoads r s

/-- The slot is held for regeneration and materialisation (R162). -/
def State.chargeWork (q : QuadId) (n : Nat) (s : State) : State :=
  if n = 0 then s
  else s.modQuad q fun y => { y with slotUntil := Nat.max y.slotUntil (s.clock.cycle + n), regenUntil := s.clock.cycle + n }

/-- Materialises before a save, in the cycles that it takes (R162): the save goes on once they have passed. -/
def State.matSave (q : QuadId) (ts : List ThreadId) (s : State) : State × Bool :=
  let r := State.matLoads ts { s with issue := { s.issue with work := [] } }
  let n := r.1.workCycles
  let s1 : State := { r.1 with issue := s.issue }
  if n = 0 then (s1, r.2 && s1.threads.all fun t => decide (t.id ∉ ts) || !(s1.materialising t))
  else ((s1.mapThreads fun t => if t.id ∈ ts then { t with nextAt := Nat.max t.nextAt (s.clock.cycle + n) } else t).chargeWork q n,
    false)

/-- The images in the overflow area of a core fill it (R206): 16 bytes each (log entry 18). -/
def State.ovFull (s : State) (c : CoreId) : Bool :=
  decide ((s.core c).ovSize ≤ 16 * ((s.core c).images.filterMap Image.slot).length)

/-- The youngest group of a list. -/
def youngest (gs : List Group) : Option Group :=
  gs.foldl (fun m g => match m with
    | none => some g
    | some x => if x.actSince < g.actSince then some g else m) none

/-- The group to swap for a full overflow area. -/
def State.ovVictim (s : State) (c : CoreId) : Option Group :=
  let held := ((s.core c).images.filter fun i => i.slot.isSome).flatMap fun i => i.holders.map Prod.fst
  youngest (s.groups.filter fun g => decide (g.core = c) && !(s.isCoop g) && Group.holdsRows g &&
    held.any fun t => decide (t.gid = g.id))

/-- A refill finds too few free rows (R165): those of a waiting thread, an acquire or a save alike. -/
def State.refillStuck (s : State) (g : Group) : Bool :=
  !(s.isCoop g) && decide (s.freeRows (Group.qid g) g.id.grid g.laneBase g.width < s.refillLack g)

/-- The group to swap for a reserve. -/
def State.refillVictim (s : State) (g : Group) : Option Group :=
  youngest (s.groups.filter fun x => decide (Group.qid x = Group.qid g) && decide (x.id ≠ g.id) && !(s.isCoop x) && Group.holdsRows x)

/-- One of the four triggers names the group (R216). -/
def State.swapDue (s : State) (g : Group) : Bool :=
  Group.holdsRows g && (g.fetchHeld ||
    (s.groups.any fun u => u.urgent && s.eligible u && decide ((s.urgentOn u.core).map Group.id = some u.id) && (match s.rowsVictim u with
      | some v => decide (v.id = g.id)
      | none => false)) ||
    (s.groups.any fun u => s.refillStuck u && (match s.refillVictim u with
      | some v => decide (v.id = g.id)
      | none => false)) ||
    (s.ovFull g.core && (match s.ovVictim g.core with
      | some v => decide (v.id = g.id)
      | none => false)))

/-- A team all of whose groups are swapped out is saved as pre-emption saves one, and its SRAM is free; its quadrants keep
what they hold (R216). -/
def State.saveIdleTeam (tm : TeamId) (s : State) : State :=
  match s.team? tm with
  | none => s
  | some t =>
    if ¬ t.saved ∧ (s.groups.filter fun g => decide (g.id.tmid = tm)).all (fun g =>
        decide (g.act = .swapped) || (decide (g.act = .waiting) && g.started)) then
      s.stowTeam { t with stopped := none }
    else s

/-- Frees the footprint of a group that has been saved. -/
def State.freeGroup (g : Group) (act : Act) (s : State) : State :=
  ((s.dropLocality g).dropHolder ((s.groupThreads g.id).map Thread.id)).modGroup g.id fun x =>
    { x with act := act, reserve := 0, eligSince := s.clock.cycle, urgent := false }

/-- The traffic of a save faults: the context stays resident and stopped, and the supervisor receives the record (R19,
R237). -/
def State.holdSave (t : Team) (die : Nat) (s : State) : State :=
  let g := s.grid? t.id.grid
  (s.modTeam t.id fun x => { x with saveHeld := true, saveStall := none }).waitRecord t.core.die
    { q := .part (s.teamPart t),
      words := recordWords { cause := 0x0C, kind := 1 } ((g.map Grid.reqtag).getD 0) ((g.map Grid.tenant).getD 0) t.id.grid
        t.id.team 0 0 die (DieState.code (s.die die).st) t.core.core 0 }

/-- What the traffic of a team's save does while it cannot go: it stalls, and faults after 20 µs in Dusk or in Dawn or
Midnight. -/
def State.saveWaits (t : Team) (s : State) : State :=
  if t.saveHeld then s
  else match s.saveGate t with
    | .go => s
    | .dead d => s.holdSave t d
    | .stall => match t.saveStall with
      | none => s.modTeam t.id fun x => { x with saveStall := some s.clock.cycle }
      | some c => if c + 28000 ≤ s.clock.cycle then
          s.holdSave t ((s.duskOn (route t.core.die (homeDie (s.part (s.teamPart t)).saveBase))).getD t.core.die)
        else s

/-- The traffic of a swap goes again. -/
def State.saveGoes (t : Team) (s : State) : State :=
  if t.stopping then s else s.modTeam t.id fun x => { x with saveStall := none, saveHeld := false }

/-- A group whose swap is under way stops: it is HELD, unless a fetch fault has stopped it (R230). -/
def State.stopGroup (g : Group) (s : State) : State :=
  if g.act = .active ∧ ¬ g.fetchHeld ∧ ¬ s.isCoop g then s.holdGroup g.id else s

/-- GROUP_SWAP (R216): the group stops, its loads complete, its load recipes become values in the cycles that this takes
(R162), and its footprint is free. -/
def execGroupSwap (gid : GroupId) (s : State) : Out :=
  .next (match s.group? gid, s.team? gid.tmid with
    | some g, some t =>
      if ¬ s.swapDue g then s
      else if s.loadsOut fun t => decide (t.gid = gid) then s.stopGroup g
      else if s.saveGate t ≠ .go then (s.stopGroup g).saveWaits t
      else
        let s0 := (s.stopGroup g).saveGoes t
        let r := s0.matSave (Group.qid g) ((s.groupThreads gid).map Thread.id)
        if r.2 then (r.1.freeGroup g (if g.fetchHeld then .swapped else .waiting)).saveIdleTeam gid.tmid else r.1
    | _, _ => s)

/-- RESERVE_REFILL (R165): the waiting threads go on once the reserve is full and the rows that they need are free. -/
def execReserveRefill (gid : GroupId) (s : State) : Out :=
  .next (match s.group? gid with
    | none => s
    | some g =>
      if ¬ Group.holdsRows g then s
      else
        let s1 := s.refill gid
        if ((s1.group? gid).map Group.reserve).getD 0 < 8 then s1
        else
          let free := s1.freeRows (Group.qid g) gid.grid g.laneBase g.width + (s1.ownRows g - s1.groupRows { g with reserve := 8 })
          s1.mapThreads fun t => if t.id.gid = gid then (match t.wait with
            | .refill n => if n ≤ free then t.wake s.clock.cycle else t
            | _ => t) else t)

/-! ## The watchdog (R236) -/

/-- HANG_WATCHDOG_EXPIRY: the group's count of cycles is kept by the clock. -/
def execHangWatchdogExpiry (gid : GroupId) (s : State) : Out :=
  .next (match s.group? gid with
    | none => s
    | some g =>
      let ts := (s.groupThreads gid).filter fun t => t.park.isNone
      if g.hang < (s.part (s.partOf { grid := gid.grid, team := 0, group := 0, tid := 0 })).hangLimit ∨ ts.isEmpty then s
      else
        let low := (ts.map Thread.standsAt).foldl Nat.min (2 ^ 57)
        let why := if s.ovFull g.core ∧ (s.ovVictim g.core).isNone ∧ ts.any (fun t => decide (t.wait = .none)) then 5 else 0
        (s.modGroup gid fun x => { x with hang := 0, remote := 0 }).raise (ts.map fun t =>
          { th := t.id, info := { cause := 0x11, reason := why, addr0 := low }, resume := t.pc }) none)

/-! ## SLEEP and YIELD (R140) -/

/-- A thread is saved: its waits stand still till its group is restored (R140, R152). -/
def State.isSaved (s : State) (t : ThreadId) : Bool := ((s.group? t.gid).map fun g => decide (g.act = .saved)).getD false

/-- SLEEP_EXPIRY: 16 × n cycles after the SLEEP. -/
def execSleepExpiry (tid : ThreadId) (s : State) : Out :=
  .next (if s.isSaved tid then s else s.modThread tid (Thread.wakeIf (fun w => match w with
    | .sleep c => decide (c ≤ s.clock.cycle)
    | _ => false) s.clock.cycle))

/-- YIELD_RELEASE: 8 cycles after the YIELD, or after a bundle of the quadrant without its group (R140): the issue of such a
bundle brings the end of the wait forward. -/
def execYieldRelease (tid : ThreadId) (s : State) : Out :=
  .next (if s.isSaved tid then s else s.modThread tid (Thread.wakeIf (fun w => match w with
    | .yield c => decide (c ≤ s.clock.cycle)
    | _ => false) s.clock.cycle))

end Sys2Proof.Machine
end

