-- ==== Sys2Proof/Machine/Pick.lean ====
section
/-! DEFINITION. Fetching an instruction (R38, R40), readiness (R60), the picker (R61 to R63, R233), lane migration (R64),
what precedes an instruction's effect (R40, R155, R161 to R165, R344, R360), and the counts of each cycle (R236, R353 to
R355). -/

namespace Sys2Proof.Machine
open Host

/-! ## Fetch (R40 steps 1 to 3) -/

/-- The words at a program counter, the absent ones 0; or the reason and the address of the first that fails. -/
def State.fetch (q : QuadId) (vf since pc : Nat) (s : State) : State × Except (Nat × Nat) (Nat × Nat × Nat) :=
  let more (at_ : Nat) (st : State) : State × Except (Nat × Nat) Nat :=
    let a := (pc + at_) % 2 ^ 57
    let r := st.fetchWord q vf since a
    (r.1, match r.2 with | .ok w => .ok w | .error e => .error (e, a))
  let r0 := more 0 s
  match r0.2 with
  | .error e => (r0.1, .error e)
  | .ok w0 =>
    if fLen w0 = 0 ∨ fLen w0 = 3 then (r0.1, .ok (w0, 0, 0))
    else
      let r1 := more 4 r0.1
      match r1.2 with
      | .error e => (r1.1, .error e)
      | .ok w1 =>
        if fLen w0 = 1 then (r1.1, .ok (w0, w1, 0))
        else
          let r2 := more 8 r1.1
          match r2.2 with
          | .error e => (r2.1, .error e)
          | .ok w2 => (r2.1, .ok (w0, w1, w2))

/-- A fetch for a thread: from the instructions of its grid, no older than its start (R41). -/
def State.fetchFor (t : Thread) (s : State) : State × Except (Nat × Nat) (Nat × Nat × Nat) :=
  s.fetch t.qid (s.vfOf t.id) (((s.gridOf t.id).map Grid.since).getD 0) t.pc

/-- What stands at a thread's program counter: word 0, and the instruction where it decodes. -/
structure Peek where
  w0 : Nat
  instr : Option Instr
deriving DecidableEq, Repr

def State.peek (s : State) (t : Thread) : Option Peek :=
  match (s.fetchFor t).2 with
  | .error _ => none
  | .ok w => some { w0 := w.1, instr := (match decodeWords w.1 w.2.1 w.2.2 with | .ok i => some i | .error _ => none) }

/-- Where threads stand that fetch the same. -/
def Thread.spot (t : Thread) : QuadId × Nat × Nat := (t.qid, t.id.grid, t.pc)

/-- One thread for each place. -/
def onePer (seen : List (QuadId × Nat × Nat)) : List Thread → List Thread
  | [] => []
  | t :: r => if t.spot ∈ seen then onePer seen r else t :: onePer (t.spot :: seen) r

/-- What stands at each program counter of some threads. -/
def State.peeks (s : State) (ts : List Thread) : List ((QuadId × Nat × Nat) × Option Peek) :=
  (onePer [] ts).map fun t => (t.spot, s.peek t)

/-! ## Readiness (R60) -/

/-- A die's store of waiting records is full (R343). -/
def State.storeFull (s : State) (d : Nat) : Bool :=
  decide ((if d < 4 then 1024 else 256) ≤ (s.die d).waiting.length)

/-- The conditions that do not depend on the thread's next instruction. -/
def State.basicReady (s : State) (t : Thread) : Bool :=
  t.park.isNone && decide (t.wait = .none) && decide (t.nextAt ≤ s.clock.cycle) && decide (t.moveUntil ≤ s.clock.cycle) &&
    t.stepOwed.isNone &&
    (match s.group? t.id.gid with | some g => decide (g.act = .active) && !g.fetchHeld | none => false) &&
    (match s.team? t.id.tmid with | some m => !m.stopping && !m.saved | none => false)

/-- A result or predicate is available. -/
def Thread.free (t : Thread) (now k : Nat) : Bool := decide (tget 0 t.busy k ≤ now)

/-- The most issues of a class that a group may have outstanding (R191). -/
def countLimit : CountClass → Nat
  | .nl | .ns => 62
  | .nc | .nt => 14

/-- The group of a lane holds as many issues as it may, and the lane stands in none of them (R184, R191). -/
def State.countFull (s : State) (t : Thread) (i : Instr) : Bool :=
  match countOf i, s.group? t.id.gid with
  | some c, some g => t.counted.isNone && decide (countLimit c ≤ g.countOf c)
  | _, _ => false

/-- The matrix queue that an instruction would enter is full (R261). -/
def State.queueFull (s : State) (t : Thread) : Bool :=
  decide (16 ≤ (s.queueOf t.core (s.partOf t.id) (s.fuseAtIssue t.core (s.partOf t.id)) t.quad).length)

def isMatrixInstr : Instr → Bool
  | .wld _ _ _ | .wlds _ _ | .tmm _ | .tzero _ | .trd _ _ _ _ _ | .twr _ _ _ | .tepi _ | .tfuse _ | .cbld _ _
  | .tstat _ _ _ => true
  | _ => false

/-- Earlier operations that an engine issue waits for: releases (R76), and those of its FENCEs (R81). -/
def State.issueHeld (s : State) (t : Thread) : Bool :=
  s.relPending t.id || t.fences.any fun f => f.1.iss && !(f.2.2.all s.tookEffect)

/-- The fragment registers that a matrix command captures from every live thread of its group (R260). -/
def State.fragRegs (s : State) (l : Thread) (i : Instr) : List Nat :=
  let upTo (b n : Nat) : List Nat := (List.range n).map fun k => b + k
  match i with
  | .wld ty _ f => upTo (regNo l.wb f) (weightRegs ty)
  | .cbld f _ => upTo (regNo l.wb f) 4
  | .wlds t f =>
    match (s.latchTarget l t).bind fun q => (s.quad (quadOn l.core q)).issuedFmt with
    | some ty => upTo (regNo l.wb f) (kwOf ty / 128)
    | none => []
  | .tmm p =>
    let b := l.regsFrom (regNo l.wb p) 8
    let n := if fuseVert (s.fuseAtIssue l.core (s.partOf l.id)) l.quad then 2 else 1
    match afmtOf (blk b 0 / 2 ^ 19 % 32) with
    | some a => if 16 ≤ blk b 0 / 2 ^ 24 then upTo (blk b 0 / 2 ^ 24) (n * (64 + scaleRegs a)) else []
    | none => []
  | _ => []

/-- The capability registers that an instruction names: in its words, or in the block that it reads (R174, R200). -/
def Thread.capsNamed (t : Thread) (i : Instr) : List Nat :=
  let epi (p : Nat) : List Nat := [blk (t.regsFrom (regNo t.wb p) 8) 2 / 2 ^ 28] ++
    (if (blk (t.regsFrom (regNo t.wb p) 8) 2).testBit 11 then [blk (t.regsFrom (regNo t.wb p) 8) 2 / 2 ^ 24 % 16] else [])
  let copy (remote : Bool) (p : Nat) : List Nat :=
    let b := t.regsFrom (regNo t.wb p) 8
    (if blkST b then [] else [blk b 0 / 2 ^ 28]) ++ (if blkDT b ∧ ¬ remote then [] else [blk b 0 / 2 ^ 24 % 16]) ++
      [blk b 0 / 2 ^ 20 % 16] ++ (if remote then [blk b 7 / 2 ^ 28] else [])
  match i with
  | .tmm p => if (blk (t.regsFrom (regNo t.wb p) 8) 0).testBit 16 then epi p else []
  | .tepi p => epi p
  | .cpy _ p => copy false p
  | .cpyr _ p => copy true p
  | .cred _ p => [credSk (t.regsFrom (regNo t.wb p) 8), credDk (t.regsFrom (regNo t.wb p) 8)]
  | _ => capNames i

/-- The tiles and slots that an instruction names (R302), in its words or in the block that it reads. -/
def Thread.tilesNamed (t : Thread) (i : Instr) : List Nat :=
  let b (p : Nat) : List Word := t.regsFrom (regNo t.wb p) 8
  let slot (p : Nat) : List Nat := ((blkGy (b p)).map fun n => 600 + n).toList
  let copy (dst : Bool) (p : Nat) : List Nat := (if blkST (b p) then [512 + blkSM (b p)] else []) ++
    (if dst && blkDT (b p) then [512 + blkDM (b p)] else []) ++ slot p
  match i with
  | .cpy _ p => copy true p
  | .cpyr _ p => copy false p
  | .tmm p | .tepi p | .cred _ p => slot p
  | _ => tileNames i

/-- No write of a capability register that the instruction names is pending (R174). -/
def State.capsReady (s : State) (t : Thread) (i : Instr) : Bool :=
  match s.team? t.id.tmid with
  | some m => m.capWrites.isEmpty || (t.capsNamed i).all fun k => m.capWrites.all fun w => decide (w.1 ≠ k)
  | none => true

/-- The registers whose values an instruction of the thread takes. -/
def State.sources (s : State) (t : Thread) (i : Instr) : List Nat :=
  instrReads t.wb i ++ (match i with | .tmm _ | .wlds _ _ => s.fragRegs t i | _ => [])

/-- The conditions that the next instruction sets, cross-lane participation apart. -/
def State.opReady (s : State) (t : Thread) (i : Instr) : Bool :=
  let now := s.clock.cycle
  ((s.sources t i).all fun r => t.free now r && !(s.outstanding t.id r)) &&
    ((predReads i).all fun q => t.free now (256 + q)) &&
    ((t.tilesNamed i).all fun k => t.free now k) && s.capsReady t i &&
    ((instrWrites t.wb i).all fun r => !(s.captured t.id.gid r)) && !(s.countFull t i) &&
    (!(isMatrixInstr i) || !(s.queueFull t)) && (!(isIssue i) || !(s.issueHeld t)) &&
    (match s.group? t.id.gid with
      | some x => (match i with
        | .ld _ _ _ _ _ _ | .ldf _ _ _ _ _ => !(s.ovFull x.core) || (s.ovVictim x.core).isSome
        | _ => true)
      | none => true)

/-- Every participant of a cross-lane instruction stands at it, ready (R62, R133). A bundle has one window base (R61), so
they wait until their window bases agree (log entry 62). -/
def State.joined (s : State) (t : Thread) (i : Instr) : Bool :=
  match xlaneMask i with
  | none => true
  | some j => (s.participants j t.id).all fun u =>
      decide (u.pc = t.pc) && decide (u.wb = t.wb) && s.basicReady u && s.opReady u i

/-- A ready thread with what stands at its program counter. -/
structure Cand where
  th : Thread
  at_ : Option Peek
deriving DecidableEq, Repr

/-- A thread that is ready with what stands at its program counter; one whose words do not decode is ready to fault. -/
def State.cand? (s : State) (p : Option Peek) (t : Thread) : Option Cand :=
  match p.bind Peek.instr with
  | none => some { th := t, at_ := p }
  | some i => if s.opReady t i && s.joined t i then some { th := t, at_ := p } else none

/-- The ready threads among some. -/
def State.candsOf (s : State) (ts0 : List Thread) : List Cand :=
  let ts := ts0.filter s.basicReady
  let ps := s.peeks ts
  ts.filterMap fun t => s.cand? (((ps.find? fun p => decide (p.1 = t.spot)).map Prod.snd).getD none) t

/-- The ready threads of a quadrant. -/
def State.cands (s : State) (q : QuadId) : List Cand := s.candsOf (s.threads.filter fun t => decide (t.qid = q))

/-! ## The seed (R233) and the bundle (R61, R62) -/

/-- The cycle since which a candidate is ready: its age (R60). -/
def Cand.since (now : Nat) (c : Cand) : Nat := if c.th.ready then c.th.readySince else now

def Cand.cls (c : Cand) : Nat := (c.at_.map fun p => engineClass p.w0).getD 0

/-- Of equal ages the lower GIDX comes first (R61, R240); then the lower TEAMID and the lower grid (log entry 62). -/
def ThreadId.lower (a b : ThreadId) : Bool :=
  decide (a.group < b.group) || (decide (a.group = b.group) && (decide (a.team < b.team) ||
    (decide (a.team = b.team) && (decide (a.grid < b.grid) || (decide (a.grid = b.grid) && decide (a.tid < b.tid))))))

/-- Older first; remaining ties to the lower home lane (R233). -/
def Cand.older (now : Nat) (a b : Cand) : Bool :=
  decide (a.since now < b.since now) || (decide (a.since now = b.since now) && (decide (a.th.lane < b.th.lane) ||
    (decide (a.th.lane = b.th.lane) && ThreadId.lower a.th.id b.th.id)))

/-- The candidate that comes first by a test. -/
def firstBy (lt : Cand → Cand → Bool) (cs : List Cand) : Option Cand :=
  cs.foldl (fun m c => match m with
    | none => some c
    | some x => if lt c x then some c else m) none

/-- Activation order of groups. -/
def actBefore (a b : Nat × GroupId) : Bool :=
  decide (a.1 < b.1) || (decide (a.1 = b.1) && (decide (a.2.grid < b.2.grid) ||
    (decide (a.2.grid = b.2.grid) && (decide (a.2.team < b.2.team) ||
      (decide (a.2.team = b.2.team) && decide (a.2.group < b.2.group))))))

def Group.actKey (g : Group) : Nat × GroupId := (g.actSince, g.id)

def firstGroup (gs : List Group) : Option Group :=
  gs.foldl (fun m g => match m with
    | none => some g
    | some x => if actBefore g.actKey x.actKey then some g else m) none

/-- Round-robin: the next group after the one that seeded the previous bundle, which may have ended since. -/
def State.nextGroup (s : State) (q : QuadId) (cs : List Cand) : Option Group :=
  let gs := (cs.map fun c => c.th.id.gid).eraseDups.filterMap s.group?
  match (s.quad q).lastSeed with
  | none => firstGroup gs
  | some l =>
    let k := ((s.group? l.2).map Group.actKey).getD l
    match firstGroup (gs.filter fun g => actBefore k g.actKey) with
    | some g => some g
    | none => firstGroup gs

/-- The picker's mode in a cycle: one that is written takes effect in the next (R233). -/
def Part.modeAt (p : Part) (now : Nat) : Nat :=
  match p.schedOld with
  | some o => if o.1 = now then o.2 else p.schedMode
  | none => p.schedMode

/-- A group's ready threads have waited 56 cycles since it last issued (R233). -/
def State.starved (s : State) (cs : List Cand) (gid : GroupId) : Bool :=
  (match s.group? gid with
    | some g => decide (g.lastIssue = 0) || decide (g.lastIssue + 55 ≤ s.clock.cycle)
    | none => false) &&
    cs.any fun c => decide (c.th.id.gid = gid) && decide (c.since s.clock.cycle + 56 ≤ s.clock.cycle)

/-- The seed among the ready threads of a quadrant. -/
def State.seed (s : State) (q : QuadId) (cs0 : List Cand) : Option Cand :=
  let x := s.quad q
  let now := s.clock.cycle
  let cs := if now < x.sfUntil then cs0.filter fun c => decide (c.cls ≠ 1) else cs0
  let hungry := (cs.map fun c => c.th.id.gid).eraseDups.filter (s.starved cs)
  match firstBy (Cand.older now) (cs.filter fun c => decide (c.th.id.gid ∈ hungry)) with
  | some c => some c
  | none =>
    match (s.part ((cs.head?.map fun c => s.partOf c.th.id).getD 0)).modeAt now with
    | 0 => firstBy (fun a b =>
        let la := x.lastClass.getD a.cls 0
        let lb := x.lastClass.getD b.cls 0
        decide (la < lb) || (decide (la = lb) && a.older now b)) cs
    | 2 => (s.nextGroup q cs).bind fun g => firstBy (Cand.older now) (cs.filter fun c => decide (c.th.id.gid = g.id))
    | _ => firstBy (Cand.older now) cs

/-- Which of two candidates on one home lane a bundle takes: the older, then the lower GIDX. -/
def Cand.takes (now : Nat) (a b : Cand) : Bool :=
  decide (a.since now < b.since now) || (decide (a.since now = b.since now) && ThreadId.lower a.th.id b.th.id)

/-- The bundle of a seed: every ready thread of its grid at its program counter and window base, one for each home lane. It
takes them all, so where R61 and the mode of R233 take a younger thread of a group at another program counter than its
oldest, the promise of R70 on the oldest gives way (log entry 63). -/
def bundleOf (now : Nat) (seed : Cand) (cs : List Cand) : List ThreadId :=
  let own := match seed.at_.bind Peek.instr with | some i => groupSeeded i | none => false
  let same := cs.filter fun c => decide (c.th.id.grid = seed.th.id.grid) && decide (c.th.pc = seed.th.pc) &&
    decide (c.th.wb = seed.th.wb) && (!own || decide (c.th.id.gid = seed.th.id.gid))
  (same.filter fun c => same.all fun d => decide (d.th.lane ≠ c.th.lane) || decide (d.th.id = c.th.id) || c.takes now d).map
    fun c => c.th.id

/-! ## Before the effect: poison, regeneration, materialisation -/

/-- A lane whose guard is false: it reads no source, has no effect (R28, R47) and so meets neither poison nor a recipe
(log entry 64). -/
def Thread.idleLane (t : Thread) : Instr → Bool
  | .br g _ | .jr g _ _ | .st g _ _ _ _ _ _ | .atom g _ _ _ _ _ _ _ _ => !(t.passes g)
  | _ => false

def Thread.laneReads (t : Thread) (i : Instr) : List Nat := if t.idleLane i then [] else instrReads t.wb i
def Thread.laneWrites (t : Thread) (i : Instr) : List Nat := if t.idleLane i then [] else instrWrites t.wb i

/-- The recipes that an instruction materialises in a lane before anything else (R155, R167). -/
def Thread.firstOf (i : Instr) (g : Group) (t : Thread) : List REntry :=
  match i with
  | .matz d => t.matzEntries g d
  | _ => t.before g (t.laneWrites i)

def isError {α β : Type} : Except α β → Bool
  | .error _ => true
  | .ok _ => false

/-- The instruction faults before any lane loop for the thread's team (R36): nothing precedes that fault. -/
def State.preFault (s : State) (t : Thread) : Instr → Bool
  | .ld _ _ _ k _ _ | .ldf _ _ k _ _ => isError (s.capCheck t k fun c => cPermBit c capR)
  | .st _ _ _ k _ _ _ | .stf _ k _ _ _ => isError (s.capCheck t k fun c => cPermBit c capW)
  | .atom _ _ _ sc k _ _ _ _ =>
    isError (s.capCheck t k fun c => cPermBit c capA && (!(cPermBit c capREM) || decide (sc = .domain)))
  | .cmaint op _ k _ _ => isError (s.capCheck t k (maintPerm op))
  | .lds _ _ m _ _ c | .sts _ m _ _ _ c => decide (c = 0) && (s.readyTile t.id.tmid m).isNone
  | .atoms _ m _ _ _ _ => (s.readyTile t.id.tmid m).isNone
  | .spawn _ k x _ => isError (s.spawnCaps t k x)
  | .trd _ _ _ m _ => !(s.reach t m)
  | .twr _ m _ => !(s.reach t m)
  | .capnar _ y _ _ _ => (match s.capOf t.id.tmid y with | some c => !(cPermBit c capNAR) | none => true)
  | _ => false

/-- The leader's operands take the derived capability out of its range (R177): before the lane loop, in which the other lanes
read theirs. -/
def Thread.narrowsOut (s : State) (l : Thread) : Instr → Bool
  | .capnar _ y a b _ => (match s.capOf l.id.tmid y with
    | some c => decide (c.extent < (l.srcPair a).toNat + (l.srcPair b).toNat)
    | none => false)
  | _ => false

/-- One thread reads registers, once some recipes of it have become values. A lane that faults has no effect. -/
def State.prepLane (rs : List Nat) (first : Group → Thread → List REntry) (tid : ThreadId) (s : State) : State × Prep :=
  match s.thread? tid, s.group? tid.gid with
  | some t, some g =>
    let m := s.materialiseAll tid (first g t)
    match m.2 with
    | .fault i => (State.undoMaterials tid s m.1, .fault i)
    | .wait w => (m.1, .wait w)
    | .go =>
      if rs.any fun r => decide (r ∈ ((m.1.thread? tid).getD t).poisoned) then
        (State.undoMaterials tid s m.1, .fault { cause := 0x0B })
      else
        let r := m.1.regenReads tid rs
        match r.2 with
        | .fault i => (State.undoMaterials tid s r.1, .fault i)
        | o => (r.1, o)
  | _, _ => (s, .go)

/-- The threads that go on, those that fault, and those that wait, so far. -/
structure Preps where
  st : State
  go : List ThreadId
  faults : List LaneFault
  waits : List (ThreadId × Wait)
deriving DecidableEq, Repr

/-- Adds the outcome of some threads that stand or fall together. -/
def Preps.add (p : Preps) (st : State) (ts : List ThreadId) (o : Prep) : Preps :=
  match o with
  | .go => { p with st := st, go := p.go ++ ts }
  | .fault i => { p with
      st := st, faults := p.faults ++ ts.map fun t => { th := t, info := st.atIssue i, resume := st.issue.pc } }
  | .wait w => { p with st := st, waits := p.waits ++ ts.map fun t => (t, w) }

/-- How an instruction's register reads are shared (R360). -/
inductive ActMode where
  | lanes | group | team | capture
deriving DecidableEq, Repr

def actMode : Instr → ActMode
  | .capnar _ _ _ _ _ => .team
  | .lease _ | .cpy _ _ | .cpyr _ _ | .cred _ _ | .wld _ _ _ | .wlds _ _ | .tmm _ | .tepi _ | .cbld _ _ | .tzero _
  | .tfuse _ => .group
  | .twr _ _ _ => .capture
  | _ => .lanes

/-- Regenerates captured registers in the suppliers of a group, each once: the first that fails. -/
def State.prepFrags (rs : List Nat) : List ThreadId → State → State × Prep
  | [], s => (s, .go)
  | t :: r, s =>
    match s.thread? t with
    | none => State.prepFrags rs r s
    | some u =>
      if rs.any fun x => decide (x ∈ u.poisoned) then (s, .fault { cause := 0x0B })
      else
        let v := s.regenReads t rs
        match v.2 with
        | .go => State.prepFrags rs r v.1
        | o => (v.1, o)

/-- A group's act by its leader. -/
def Preps.groupAct (i : Instr) (ts : List ThreadId) (p : Preps) : Preps :=
  match ts with
  | [] => p
  | l :: _ =>
    match p.st.thread? l with
    | none => p
    | some t =>
      let r := p.st.prepLane (instrReads t.wb i) (Thread.firstOf i) l
      match r.2 with
      | .go =>
        let rs := r.1.fragRegs ((r.1.thread? l).getD t) i
        let v := if rs.isEmpty then (r.1, Prep.go) else State.prepFrags rs ((r.1.groupThreads l.gid).map Thread.id) r.1
        match v.2 with
        | .fault f => p.add (State.undoMaterials l p.st v.1) ts (.fault f)
        | o => p.add v.1 ts o
      | o => p.add r.1 ts o

/-- Each lane for itself. A hint has no effect in a lane where it would fault (R195). -/
def Preps.lane (i : Instr) (t : ThreadId) (p : Preps) : Preps :=
  match p.st.thread? t with
  | none => p
  | some x =>
    if p.st.preFault x i then p.add p.st [t] .go
    else
      let r := p.st.prepLane (x.laneReads i) (Thread.firstOf i) t
      match i, r.2 with
      | .pref _ _ _, .fault _ => p.add r.1 [t] .go
      | _, o => p.add r.1 [t] o

/-- A team's act by its leader; the other lanes compare their own operands. One record stands for the team (R360). -/
def Preps.teamAct (s : State) (i : Instr) (ts : List ThreadId) (p : Preps) : Preps :=
  match ts with
  | [] => p
  | l :: r =>
    match p.st.thread? l with
    | none => p
    | some t =>
      if p.st.preFault t i then p.add p.st ts .go
      else
        let v := p.st.prepLane (instrReads t.wb i) (fun _ _ => []) l
        match v.2 with
        | .fault f => p.add v.1 ts (.fault { f with team := true })
        | .wait w => p.add v.1 ts (.wait w)
        | .go => if Thread.narrowsOut s ((v.1.thread? l).getD t) i then p.add v.1 ts .go
          else r.foldl (fun q x => Preps.lane i x q) (p.add v.1 [l] .go)

/-- A group whose threads all supply the act: they stand or fall together. -/
def Preps.captureAct (i : Instr) (ts : List ThreadId) (p : Preps) : Preps :=
  let q := ts.foldl (fun x t => Preps.lane i t x) { p with go := [], faults := [], waits := [] }
  match q.faults, q.waits with
  | [], [] => { q with go := p.go ++ q.go, faults := p.faults, waits := p.waits }
  | [], w :: _ => { p with st := q.st, waits := p.waits ++ ts.map fun t => (t, w.2) }
  | f :: _, _ => p.add (ts.foldl (fun st t => State.undoMaterials t p.st st) q.st) ts (.fault (if f.info.cause = 0x0A then { f.info with info := f.th.tid } else f.info))

/-- Registers that a lane turns from a recipe into a value by writing them whole, and for which its group has no row yet. -/
def State.newRegs (s : State) (i : Instr) (t : ThreadId) : List Nat :=
  match s.thread? t with
  | some x => (x.laneWrites i).filter fun r => x.isRecipe r && !(s.holdsValue t.gid r)
  | none => []

/-- The rows that a group's writes take one after the other from the reserve, the reserve refilled after each: how many
must be free beside a full reserve, where they are not (R155, R165). -/
def State.rowsLack (s : State) (i : Instr) (gid : GroupId) (go : List ThreadId) : Option Nat :=
  match s.group? gid with
  | none => none
  | some g =>
    let n := ((go.filter fun t => decide (t.gid = gid)).flatMap (s.newRegs i)).eraseDups.length
    let free := s.freeRows (Group.qid g) gid.grid g.laneBase g.width + (s.ownRows g - s.groupRows g)
    if n = 0 ∨ (g.reserve = 8 ∧ n ≤ free + 1) then none else some (n - 1)

/-- Lanes that need rows which are not free wait for the refill. -/
def Preps.rows (i : Instr) (p : Preps) (gid : GroupId) : Preps :=
  match p.st.rowsLack i gid p.go with
  | none => p
  | some n =>
    let held := p.go.filter fun t => decide (t.gid = gid) && (decide (actMode i ≠ .lanes) || !(p.st.newRegs i t).isEmpty)
    { p with go := p.go.filter fun t => decide (t ∉ held), waits := p.waits ++ held.map fun t => (t, .refill n) }

/-- The bundle's threads before the effect of `i`, in the order of R63. -/
def State.prepAll (i : Instr) (s : State) : Preps :=
  let ts := s.bundleThreads.map Thread.id
  let p0 : Preps := { st := s, go := [], faults := [], waits := [] }
  let p := match actMode i with
    | .lanes => ts.foldl (fun p t => Preps.lane i t p) p0
    | .group => s.bundleGroups.foldl (fun p g => Preps.groupAct i (ts.filter fun t => decide (t.gid = g)) p) p0
    | .team => s.bundleTeams.foldl (fun p m => Preps.teamAct s i (ts.filter fun t => decide (t.tmid = m)) p) p0
    | .capture => s.bundleGroups.foldl (fun p g => Preps.captureAct i (ts.filter fun t => decide (t.gid = g)) p) p0
  s.bundleGroups.foldl (Preps.rows i) p

/-- The threads that still issue: in a cross-lane instruction, those whose participants all do (R62, R137). -/
def State.stillJoined (s : State) (i : Instr) (go : List ThreadId) : List ThreadId :=
  match xlaneMask i with
  | none => go
  | some j => go.filter fun t => (s.participants j t).all fun u => decide (u.id ∈ go)

/-! ## Issuing (R40, R61) -/

/-- Step 7 of R40: every register lies below the launch's count. -/
def State.regsOk (s : State) (t : Thread) (i : Instr) : Bool :=
  (instrReads t.wb i ++ instrWrites t.wb i ++ instrNames t.wb i).all fun r => decide (r < s.regsOf t.id)

/-- The state after the issue slot is taken: the quadrant's and the bundle's timing, and slices (R157). A result that g0
discards is outstanding for no reader (R46). -/
def State.charges (i : Instr) (q : QuadId) (w0 work : Nat) (s : State) : State :=
  let now := s.clock.cycle
  let x := timing i
  let cls := engineClass w0
  let s1 := s.modQuad q fun y => { y with
    slotUntil := now + work + x.slot, regenUntil := if work = 0 then y.regenUntil else now + work,
    sfUntil := if x.sf = 0 then y.sfUntil else now + work + x.sf,
    lastClass := (List.range 5).map fun k => if k = cls then now + 1 else y.lastClass.getD k 0 }
  let late (t : Thread) : List (Nat × Nat) :=
    if x.lat = 0 then []
    else (((instrWrites t.wb i).filter fun r => decide (r ≠ 0)) ++ (predWrites i).map fun p => 256 + p).map fun r => (r, now + work + x.lat)
  let tiles := (tileChanges i).map fun k => (k, now + 4)
  let teams := s.bundleTeams
  s1.mapThreads fun t =>
    let t1 := if tiles.isEmpty ∨ t.id.tmid ∉ teams then t
      else { t with busy := tiles.foldl (fun m e => tput 0 m e.1 e.2) t.busy }
    if t.id ∈ s.issue.bundle then
      { t1 with
        busy := (late t).foldl (fun m e => tput 0 m e.1 e.2) (t1.busy.filter fun e => decide (now < e.2)),
        nextAt := Nat.max (now + work + 1) (if holdAfter i = 0 then 0 else now + work + holdAfter i),
        ready := false,
        collUntil := (match i with
          | .red _ _ _ _ | .scan _ _ _ _ _ => now + work + x.lat
          | _ => t.collUntil),
        slice := (match t.slice with
          | some r => if r.left = 0 ∨ ¬ t.redo.isEmpty then some r else some (s.track t i r)
          | none => none),
        stepOwed := if ((s.group? t.id.gid).map Group.step).getD false then some s.issue.pc else none }
    else t1

/-- Takes a decoded instruction to the issue slot. -/
def State.issueInstr (i : Instr) (q : QuadId) (w0 : Nat) (s : State) : State :=
  match s.bundleThreads with
  | [] => s
  | t :: _ =>
    if ¬ s.regsOk t i then s.faultAll { cause := 0x12 }
    else
      let p := s.prepAll i
      let n := p.st.workCycles
      let go := p.st.stillJoined i p.go
      let s1 := p.waits.foldl (fun st w => st.modThread w.1 (Thread.holdFor w.2 s.clock.cycle)) p.st
      let s2 := p.faults.foldl (fun st f => match st.thread? f.th with
        | some u => (st.faultAgain u).modThread f.th Thread.endSlice
        | none => st) s1
      let s3 := s2.raise p.faults none
      if go.isEmpty then s3.chargeWork q n
      else
        let s4 : State := { s3 with issue := { s3.issue with slot := some i, bundle := go } }
        (s4.charges i q w0 n).bump 1

/-- A bundle of a quadrant issues: YIELDs of the other groups there end in the next cycle (R140, R240). -/
def State.endYields (q : QuadId) (gs : List GroupId) (s : State) : State :=
  let sooner (w : Wait) : Wait := match w with
    | .yield c => .yield (Nat.min c (s.clock.cycle + 1))
    | _ => w
  s.mapThreads fun t => if t.qid = q ∧ t.id.gid ∉ gs ∧ ¬ s.isSaved t.id then
    { t with wait := sooner t.wait, redo := t.redo.map fun r => { r with wait := sooner r.wait } } else t

/-- Issues the bundle of a seed: fetch and decode, then the instruction, or what stops it. -/
def State.issueBundle (q : QuadId) (c : Cand) (ts : List ThreadId) (s : State) : State :=
  let f := s.fetchFor c.th
  let gs := (ts.map ThreadId.gid).eraseDups
  let seed := (s.group? c.th.id.gid).map Group.actKey
  let set (w0 : Nat) (st : State) : State :=
    ({ st with
      issue := { slot := none, bundle := ts, pc := c.th.pc, word := w0, len := fLen w0, num := s.clock.fresh, work := [] },
      groups := st.groups.map fun g => if g.id ∈ gs then { g with
        lastIssue := s.clock.cycle + 1,
        wideAt := if ts.length < 16 then g.wideAt else s.clock.cycle + 1 } else g } : State).modQuad q fun x =>
          { x with lastSeed := seed }
  match f.2 with
  | .error e =>
    let s1 := ((set 0 f.1).endYields q gs).faultAll { cause := 0x02, reason := e.1, addr1 := e.2 }
    gs.foldl (fun st g => st.modGroup g fun x => { x with fetchHeld := true }) s1
  | .ok w =>
    let t := (set w.1 f.1).endYields q gs
    match decodeWords w.1 w.2.1 w.2.2 with
    | .error _ => t.faultAll { cause := 0x01 }
    | .ok i => t.issueInstr i q w.1

/-- A bundle of matrix commands of several groups, each of which enters one in the queue, holds no more groups than the queue
has room for: the seed's, then the first in the order of R63; the others cannot issue (R261). -/
def State.fitQueue (s : State) (c : Cand) (ts : List ThreadId) : List ThreadId :=
  match c.at_.bind Peek.instr with
  | none => ts
  | some i =>
    if !(isMatrixInstr i) then ts
    else
      let room := 16 - (s.queueOf c.th.core (s.partOf c.th.id) (s.fuseAtIssue c.th.core (s.partOf c.th.id)) c.th.quad).length
      let before (a b : GroupId) : Bool := decide (a.team < b.team) || (decide (a.team = b.team) && decide (a.group < b.group))
      let own := c.th.id.gid
      let others := (ts.map ThreadId.gid).eraseDups.filter fun g => decide (g ≠ own)
      ts.filter fun t => decide (t.gid = own) || decide ((others.filter fun g => before g t.gid).length + 1 < room)

/-- The picker of one quadrant in one cycle. -/
def State.pick (q : QuadId) (s : State) : State :=
  if s.clock.cycle < (s.quad q).slotUntil then s
  else
    let cs := s.cands q
    match s.seed q cs with
    | none => s
    | some c => s.issueBundle q c (s.fitQueue c (bundleOf s.clock.cycle c cs))

/-! ## Lane migration (R64) -/

/-- A save of the thread is under way and has recipes of it still to materialise (R166). -/
def State.toSave (s : State) (t : Thread) : Bool :=
  match s.group? t.id.gid, s.team? t.id.tmid with
  | some g, some m => (m.stopping || s.swapDue g) && !(t.loadRecipes g).isEmpty
  | _, _ => false

/-- A thread that is never moved: parked, in a cross-lane wait, or materialising a recipe (R64, R170). -/
def State.fixed (s : State) (t : Thread) : Bool :=
  t.park.isSome || t.stallAt.isSome || s.materialising t || s.toSave t || decide (s.clock.cycle < t.moveUntil) ||
    (match t.wait with
      | .refill _ | .regen _ => true
      | .phase _ => ((s.group? t.id.gid).map fun g => !(t.loadRecipes g).isEmpty).getD false
      | .none => (((s.peek t).bind Peek.instr).bind xlaneMask).isSome
      | _ => false)

/-- LANE_MIGRATION: the hardware's choice of a thread and a lane, where R64 allows it; 16 + L cycles. -/
def execLaneMigration (tid : ThreadId) (lane : Nat) (s : State) : Out :=
  .next (match s.thread? tid, s.group? tid.gid with
    | some t, some g =>
      let now := s.clock.cycle
      let busy : Bool := match (s.quad t.qid).migrating with | some c => decide (now < c) | none => false
      if 64 ≤ lane ∨ now < g.wideAt + 256 ∨ g.lastIssue ≤ g.wideAt ∨ 32 ≤ s.laneCount t.qid lane ∨ busy ∨
          ¬ Group.holdsRows g ∨ s.fixed t ∨ (s.groupThreads tid.gid).any (fun u => decide (u.lane = lane)) then s
      else
        let done := now + 16 + ((List.range (s.regsOf tid)).filter fun r => !(t.isRecipe r)).length
        let s1 := s.modThread tid fun x => { x with lane := lane, moveUntil := done }
        ((s1.modQuad t.qid fun q => { q with migrating := some done }).modGroup tid.gid
          fun x => { x with wideAt := done }).countEv 0x20 (QuadId.idx t.qid) 1
    | _, _ => s)

/-! ## The end of a cycle: the hang watchdog's count (R236), the raw events 0x01 and 0x10 to 0x18 (R353, R355), and the
derived events (R354) -/

/-- A count that a thread's WAIT constrains. -/
def waitsClass (nl ns nc nt : Nat) : CountClass → Bool
  | .nl => decide (nl ≠ 63)
  | .ns => decide (ns ≠ 63)
  | .nc => decide (nc ≠ 15)
  | .nt => decide (nt ≠ 15)

/-- The port of a remote operation or command is in recovery. -/
def State.recoveringTo (s : State) (dev : Nat) : Bool :=
  match s.portTo dev with
  | some p => (s.port p).st.recovering
  | none => false
def State.opRecovers (s : State) (o : Op) : Bool :=
  match (Space.keys o.space).head? with
  | some k => isRemote k && s.recoveringTo (remoteDev k)
  | none => false
def State.cmdRecovers (s : State) (c : Cmd) : Bool :=
  match c.kind with
  | .cpyr _ _ d _ _ => s.recoveringTo d.device
  | .cred b _ _ => (s.credOthers c b).any s.recoveringTo
  | _ => false

/-- A copy that fills tile m. -/
def Cmd.fillsTile (m : Nat) (c : Cmd) : Bool :=
  match c.copyBlk with
  | some b => blkDT b.2 && decide (blkDM b.2 = m)
  | none => false

/-- A wait of the thread is held by a remote operation whose port recovers (R236). -/
def State.remoteHeld (s : State) (t : Thread) : Bool :=
  match t.wait with
  | .counts nl ns nc nt => match s.group? t.id.gid with
    | some g => g.counts.any fun x => waitsClass nl ns nc nt x.cls &&
        (s.ops.any (fun o => decide (o.iss = x.iss) && s.opRecovers o) || s.cmds.any fun c => decide (c.id = x.iss) && s.cmdRecovers c)
    | none => false
  | .seq n _ => s.cmds.any fun c => decide (c.th.tmid = t.id.tmid) && decide (c.cw = some n) && s.cmdRecovers c
  | .tile m => (s.cmds.any fun c => decide (c.th.tmid = t.id.tmid) && c.fillsTile m && s.cmdRecovers c) ||
      s.root.inbound.any fun x => x.x.toTile && decide (x.x.die = t.core.die) && decide (x.x.core = t.core.core) &&
        decide (x.x.tile = m) && (s.port x.x.port).st.recovering
  | .none => s.ops.any fun o => decide (o.th = t.id) && o.dst.isSome && s.opRecovers o &&
      (match (s.peek t).bind Peek.instr, o.dst with
        | some i, some d => (instrReads t.wb i).any fun r => decide (d ≤ r) && decide (r < d + regCount o.size)
        | _, _ => false)
  | _ => false

/-- A command of the thread's team is held by a fault. -/
def Cmd.isHeld (c : Cmd) : Bool := match c.st with | .held _ _ => true | _ => false

/-- The thread waits on what a faulted operation holds: a count (R191), or the counter or tile of a held copy or collective
(R297). -/
def State.faultHeld (s : State) (t : Thread) : Bool :=
  match t.wait, s.group? t.id.gid with
  | .counts nl ns nc nt, some g => g.counts.any fun x => waitsClass nl ns nc nt x.cls &&
      (s.ops.any (fun o => decide (o.iss = x.iss) && o.failed.isSome) ||
       s.threads.any (fun u => u.park.isSome && (decide (u.counted = some x.iss) || u.zeroes.any fun z => decide (z.1 = x.iss))) ||
       s.cmds.any fun c => decide (c.id = x.iss) && c.isHeld)
  | .seq n _, _ => s.cmds.any fun c => decide (c.th.tmid = t.id.tmid) && decide (c.cw = some n) && c.isHeld
  | .tile m, _ => s.cmds.any fun c => decide (c.th.tmid = t.id.tmid) && c.fillsTile m && c.isHeld
  | _, _ => false

/-- Threads of a group, but one for each different wait on its counts. -/
def oneEach (seen : List Wait) : List Thread → List Thread
  | [] => []
  | t :: r => match t.wait with
    | .counts _ _ _ _ => if t.wait ∈ seen then oneEach seen r else t :: oneEach (t.wait :: seen) r
    | _ => t :: oneEach seen r

/-- What the cycle adds to a group's count, and to the cycles that it leaves out for remote operations, of which there are
at most 140,000,000 (R236). -/
def State.hangCycle (s : State) (g : Group) : Group :=
  let ts := s.groupThreads g.id
  if g.act = .active ∧ g.retireAt ≠ s.clock.cycle + 1 ∧ ts.any (fun t => t.park.isNone) ∧ ¬ s.storeFull g.core.die ∧
      ¬ (oneEach [] ts).any s.faultHeld then
    if g.remote < 140000000 ∧ (oneEach [] ts).any s.remoteHeld then { g with remote := g.remote + 1 }
    else { g with hang := g.hang + 1 }
  else g

/-- A register waits for the result of a load or an atomic. -/
def State.loadsTo (s : State) (t : Thread) (r : Nat) : Bool :=
  s.ops.any fun o => decide (o.th = t.id) && (match o.dst with
    | some d => decide (d ≤ r) && decide (r < d + regCount o.size) && s.underWay o
    | none => false)

/-- The class of the oldest unready thread's reason (R355): fetch 4, memory 5, engine-busy 6, dependence 7, and sync 8 for any
other wait, a group's full counts, room in the overflow area and the interval after an instruction among them. -/
def State.waitClass (s : State) (t : Thread) : Nat :=
  let now := s.clock.cycle
  match t.wait with
  | .counts nl ns nc nt => match s.group? t.id.gid with
    | some g => if g.countOf .nl > nl ∨ g.countOf .ns > ns then 5 else if g.countOf .nc > nc ∨ g.countOf .nt > nt then 6 else 5
    | none => 5
  | .capture _ => 6
  | .none => match (s.peek t).bind Peek.instr with
    | none => 4
    | some i =>
      if ((s.sources t i).any fun r => s.loadsTo t r) || !(s.capsReady t i) then 5
      else if (isMatrixInstr i && s.queueFull t) || ((instrWrites t.wb i).any fun r => s.captured t.id.gid r) ||
          (decide ((timing i).sf ≠ 0) && decide (now < (s.quad t.qid).sfUntil)) then 6
      else if ((s.sources t i).any fun r => !(t.free now r) || s.outstanding t.id r) ||
          (predReads i).any fun q => !(t.free now (256 + q)) then 7
      else 8
  | _ => 8

/-- The top-down class of a quadrant in the cycle that ends: pre-empt 0, retiring 1, footprint-throttled 2, idle 3,
fetch 4, memory 5, engine-busy 6, dependence 7, sync 8. -/
def State.topDown (s : State) (q : QuadId) : Nat :=
  let x := s.quad q
  let now := s.clock.cycle
  let gs := s.groups.filter fun g => decide (Group.qid g = q) && decide (g.act ≠ .saved) && decide (g.act ≠ .swapped)
  if gs.any fun g => ((s.team? g.id.tmid).map Team.stopping).getD false then 0
  else if now < x.regenUntil then 2
  else if now < x.slotUntil then 1
  else if gs.isEmpty then 3
  else if gs.all fun g => decide (g.act ≠ .active) then 2
  else
    let ts := (s.threads.filter fun t => decide (t.qid = q)).filter fun t =>
      match s.group? t.id.gid with | some g => decide (g.act = .active) | none => false
    match ts.foldl (fun (m : Option Thread) t => match m with
      | none => some t
      | some y => if t.readySince < y.readySince then some t else m) none with
    | none => 8
    | some t => if t.park.isSome then 8 else s.waitClass t

/-- Keys of the model's own bookkeeping in the table of counts: a raw count at the end of the last cycle as a partition has
noted it, whether a derived event's input occurred in it, and the length of its run. -/
def prevKey (p n idx : Nat) : Nat := 2 ^ 50 + p * 2 ^ 30 + evKey n idx
def edgeKey (p i idx : Nat) : Nat := 2 ^ 51 + derKey p i 0 idx
def runKey (p i idx : Nat) : Nat := 2 ^ 52 + derKey p i 0 idx

/-- The count of a raw event at a scope: a quadrant's index, or 1023 for the partition. -/
def State.rawAt (s : State) (p n idx : Nat) : Nat :=
  if n ∈ deviceEvents then s.evCount n 1023
  else if idx ≠ 1023 then s.evCount n idx
  else s.rawCount p none n
def State.prevAt (s : State) (p n idx : Nat) : Nat :=
  if n ∈ deviceEvents then tget 0 s.events (prevKey p n 1023)
  else if idx ≠ 1023 then tget 0 s.events (prevKey p n idx)
  else ((s.part p).quads.map fun q => tget 0 s.events (prevKey p n (QuadId.idx q))).foldl (· + ·) 0

/-- How often an input occurs in the cycle; `outs` are the outputs of the lower derived events. -/
def State.inputOf (s : State) (p idx : Nat) (outs : List (Nat × Nat)) : DerIn → Nat
  | .raw n => s.rawAt p n idx - s.prevAt p n idx
  | .derived i => tget 0 outs i

/-- Sets an entry of the table of counts. -/
def State.setEv (k v : Nat) (s : State) : State := { s with events := tput 0 s.events k v }

/-- The bin of a completed run. -/
def binOf (edges : List Nat) (n : Nat) : Nat := ((List.range 7).find? fun i => decide (n ≤ edges.getD i 0)).getD 7

/-- One derived event in one cycle at one scope: its output, and the state that EDGE and HIST keep. -/
def State.derive (p idx : Nat) (acc : State × List (Nat × Nat)) (e : Nat × Derived) : State × List (Nat × Nat) :=
  let a := acc.1.inputOf p idx acc.2 e.2.a
  let b := acc.1.inputOf p idx acc.2 e.2.b
  let was := tget 0 acc.1.events (edgeKey p e.1 idx)
  let len := tget 0 acc.1.events (runKey p e.1 idx)
  let out : Nat := match e.2.fn with
    | .and => if a ≠ 0 ∧ b ≠ 0 then 1 else 0
    | .or => if a ≠ 0 ∨ b ≠ 0 then 1 else 0
    | .andnot => if a ≠ 0 ∧ b = 0 then 1 else 0
    | .edge => if a ≠ 0 ∧ was = 0 then 1 else 0
    | .thresh n => if n ≤ a then 1 else 0
    | .hist _ => if a = 0 ∧ len ≠ 0 then 1 else 0
  let bin := match e.2.fn with | .hist es => binOf es len | _ => 0
  let s1 := (acc.1.setEv (edgeKey p e.1 idx) (if a = 0 then 0 else 1)).setEv (runKey p e.1 idx) (if a = 0 then 0 else len + 1)
  (if out = 0 then s1 else s1.count (derKey p e.1 bin idx) 1, acc.2 ++ [(e.1, out)])

/-- A partition notes the raw counts, from which its derived events count on (R354). -/
def State.notePrev (pid : Nat) (p : Part) (s : State) : State :=
  rawEvents.foldl (fun st n => ((if n ∈ deviceEvents then [1023] else p.quads.map QuadId.idx)).foldl
    (fun x idx => x.setEv (prevKey pid n idx) (x.evCount n idx)) st) s

/-- The derived events of a partition in one cycle, over each quadrant and over the partition. -/
def State.deriveAll (pid : Nat) (p : Part) (s : State) : State :=
  if p.derived.isEmpty then s
  else
    let s1 := (p.quads.map QuadId.idx ++ [1023]).foldl (fun st idx => (p.derived.foldl (State.derive pid idx) (st, [])).1) s
    s1.notePrev pid p

/-- Which threads are ready in the cycle that ends, and since when (R60). -/
def State.noteReady (s : State) : State :=
  let rd := (s.candsOf s.threads).map fun c => c.th.id
  s.mapThreads fun t =>
    if t.id ∈ rd then (if t.ready then t else { t with ready := true, readySince := s.clock.cycle })
    else if t.ready then { t with ready := false } else t

/-- One migration request: a compare-and-swap of the frame's entry, which is returned (R219). -/
def State.request (s : State) (r : Nat × Nat) : State :=
  match s.frameEntry (65536 * r.1) with
  | none => s
  | some f =>
    let e := s.dev64 f
    let s1 := s.report 0x30 e
    if e.testBit 63 then s1 else s1.devWriteN f 8 (putBits (putBits e 63 1 1) 42 21 r.2)

/-- Requests in ascending agent ID. -/
def insAgent (r : Nat × Nat) : List (Nat × Nat) → List (Nat × Nat)
  | [] => [r]
  | x :: l => if r.2 ≤ x.2 then r :: x :: l else x :: insAgent r l

/-- The migration requests of the cycle are performed. -/
def State.requests (s : State) : State :=
  if s.root.requests.isEmpty then s
  else ((s.root.requests.foldr insAgent []).foldl State.request s).modRoot fun r => { r with requests := [] }

/-- The cycle is charged to a class in each quadrant that a partition holds; elsewhere it is idle. -/
def State.chargeCycle (s : State) : State :=
  s.parts.foldl (fun st p => p.2.quads.foldl (fun x q =>
    if x.topDown q = 3 then x else x.countEv (0x10 + x.topDown q) (QuadId.idx q) 1) st) s

/-- The derived events count the cycle that has just ended. -/
def State.deriveCycle (s : State) : State :=
  let c := s.clock
  let s1 : State := { s with clock := { c with cycle := c.cycle + 1 } }
  { (s1.parts.foldl (fun st p => st.deriveAll p.1 p.2) s1) with clock := c }

/-- The end of a cycle. -/
def State.newCycle (s : State) : State :=
  let s2 := s.chargeCycle.chargeBounds.deriveCycle.noteReady.requests
  { s2 with
    clock := { s2.clock with cycle := s2.clock.cycle + 1, turn := 0 },
    groups := s2.groups.map s2.hangCycle }

/-- The next quadrant, from the one whose turn it is, that holds a thread which may be ready. -/
def State.nextQuad (s : State) : Option QuadId :=
  (s.threads.filter fun t => decide (s.clock.turn ≤ QuadId.idx t.qid) && s.basicReady t &&
    decide ((s.quad t.qid).slotUntil ≤ s.clock.cycle)).foldl (fun m t => match m with
      | none => some t.qid
      | some q => if QuadId.idx t.qid < QuadId.idx q then some t.qid else m) none

/-- PICK_BUNDLE (R60 to R64, R233): the picker of the quadrant whose turn it is forms a bundle, which issues in the same
step; where no quadrant is left, the cycle ends. -/
def execPickBundle (s : State) : Out :=
  .next (match s.nextQuad with
    | none => s.newCycle
    | some q =>
      let s1 := s.pick q
      { s1 with clock := { s1.clock with turn := QuadId.idx q + 1 } })

end Sys2Proof.Machine
end

