-- ==== Sys2Proof/Machine/Effect.lean ====
section
/-! DEFINITION. The events of accesses that have issued: load results (R184, R215), stores and atomics (R74, R80, R182,
R187), faults of sub-groups (R19, R214, R219) and of remote accesses (R361), releases and acquires (R76 to R78, R90),
CMAINT (R194), capability writes (R174), evictions (R207, R208), and competing migrations (R219). -/

namespace Sys2Proof.Machine
open Host

/-! ## When an access may take effect -/

def Space.remote (sp : Space) : Bool := ((Space.keys sp).head?.map isRemote).getD false

/-- Nothing of the access is stalled, what it waits for has taken effect, and its time has come. -/
def State.opDue (s : State) (o : Op) : Bool :=
  s.depsDone o && decide (o.due ≤ s.clock.cycle) && o.stall.isNone && o.failed.isNone

/-- Two accesses reach a byte in common. -/
def Op.meets (e o : Op) : Bool :=
  match e.space, o.space with
  | .spad t a, .spad t' b => decide (t = t') && decide (b < a + e.size) && decide (a < b + o.size)
  | x, y => Space.overlaps x y

/-- Accesses in ascending order of their threads (R63). -/
def insOp (o : Op) : List Op → List Op
  | [] => [o]
  | x :: l => if ThreadId.before x.th o.th then x :: insOp o l else o :: x :: l

/-- Those of some accesses that reach, directly or through others of them, a byte of those taken so far. -/
def blockFrom : Nat → List Op → List Op → List Op
  | 0, got, _ => got
  | n + 1, got, rest =>
    let new := rest.filter fun e => got.any e.meets
    if new.isEmpty then got else blockFrom n (got ++ new) (rest.filter fun e => !(got.any e.meets))

/-- The lanes of an access's issue that enter the order of its bytes with it, as one block, in the order of R63 (R182). -/
def State.blockOf (s : State) (o : Op) : List Op :=
  let l := s.ops.filter fun e => decide (e.num = o.num) && decide (e.id ≠ o.id) && e.answer.isNone && e.failed.isNone
  (blockFrom l.length [o] l).foldr insOp []

/-- The dies between an access's own and those of some bytes. -/
def Op.farDies (s : State) (o : Op) (ks : List Nat) : List Nat := (ks.flatMap fun a => route o.core.die (s.keyDie a)).eraseDups

/-- The bytes of a core, as a test accepts them, that have still to reach the device point. -/
def State.undelivered (s : State) (c : CoreId) (want : Nat → Bool) : List Nat :=
  ((s.core c).writes.filter fun w => w.pub.isNone && w.engine.isNone && !(isRemote w.addr) && want w.addr).map fun w => w.addr

/-- The bytes that a release or a CMAINT takes to the device point: the core's writes, and those that stand published in
the L2, of this core or observed by the thread (R76), or within the range (R194). -/
def State.carried (s : State) (o : Op) : List Nat :=
  let dirty := (s.die o.core.die).l2.flatMap L2Line.dirty
  let seen := ((s.thread? o.th).map Thread.observed).getD []
  match o.kind with
  | .rel .device | .rel .domain | .relacq .device false | .relacq .domain false =>
    s.undelivered o.core (fun _ => true) ++
      (dirty.filter fun e => decide (CoreId.idx o.core ∈ e.cores) || decide (e.addr ∈ seen)).map Dirty.addr
  | .cmaint op lv bs =>
    if lv < 2 ∨ (lv = 2 ∧ op = .clean) then []
    else
      let ks := pieceBytes bs
      s.undelivered o.core (fun a => decide (a ∈ ks)) ++ (dirty.filter fun e => decide (e.addr ∈ ks)).map Dirty.addr
  | _ => []

/-- The dies on the route of an atomic that starts after its issue, of a release or of a CMAINT (R90). -/
def State.lateRoute (s : State) (o : Op) : List Nat :=
  match o.kind with
  | .atomic _ _ .cluster _ _ => if o.deps.isEmpty then [] else [o.core.die]
  | .atomic _ _ .device _ _ | .atomic _ _ .domain _ _ => if o.deps.isEmpty then [] else Op.farDies s o (Space.keys o.space)
  | .cmaint _ lv bs =>
    Op.farDies s o (s.carried o ++ if lv < 3 then [] else (pieceBytes bs).filter fun k => !(isRemote k))
  | _ => Op.farDies s o (s.carried o)

/-- A write, an atomic, or a release or CMAINT with the bytes that it carries, waits at a locked frame (R219). -/
def State.waitsLock (s : State) (o : Op) : Bool :=
  ((match o.kind with
    | .store | .atomic _ _ _ _ _ => Space.keys o.space
    | _ => s.carried o).any fun k => !(isRemote k) && s.frameLocked k)

/-- Bytes of a load that the old frame would serve: no image of the thread's phase has them, nor the L2 for its scope. -/
def State.readsHome (s : State) (o : Op) (k : Nat) : Bool :=
  match s.thread? o.th with
  | none => false
  | some t => ((s.core t.core).imageOf t k).isNone && s.l2Misses t.core.die t.acqScope t.acqAt (k / 128)

/-- An access whose frame has been moved since it was translated, and that reaches the old frame (R219). -/
def State.hitsMoved (s : State) (o : Op) : Bool :=
  match o.kind with
  | .store | .atomic _ _ _ _ _ => (Space.keys o.space).any fun k => !(isRemote k) && s.frameMoved k
  | .load _ _ | .loadFrag => (Space.keys o.space).any fun k => !(isRemote k) && s.frameMoved k && s.readsHome o k
  | _ => false

/-- A store or atomic of a block may perform now. -/
def State.mayPerform (s : State) (o : Op) : Bool :=
  s.opDue o && !(s.waitsLock o) && decide (s.gate (s.lateRoute o) = .go)

/-! ## Completing an access -/

/-- The access leaves its count and is gone (R15). -/
def State.endOp (o : Op) (s : State) : State := (s.dropOp o.id).leaveCount o.th.gid o.iss

/-- The words that an access of a size leaves in its destination (R183, R185). -/
def opWords (o : Op) (bs : List Byte) : List Word :=
  match o.kind with
  | .load sz _ => loadWords sz bs
  | .atomic _ dbl _ _ _ => if dbl then loadWords .n64 bs else loadWords .n32 bs
  | _ => (List.range 64).map fun i => BitVec.ofNat 32 (leNat ((bs.drop (4 * i)).take 4))

/-- A load result written to its destination. A slice's last load leaves its value Backed (R155). -/
def Thread.deliverLoad (o : Op) (bs : List Byte) (now : Nat) (t : Thread) : Thread :=
  match o.dst with
  | none => t
  | some d =>
    let ws := opWords o bs
    let rs := (List.range ws.length).map fun i => d + i
    let kept := t.forms.filter fun f => f.2.backed && decide (f.1 ∈ rs)
    let t1 := t.setRegs d ws
    { t1 with forms := kept.foldl (fun m f => tput RForm.value m f.1 f.2) t1.forms,
              busy := rs.foldl (fun m r => tput 0 m r now) t1.busy }

def State.finishLoad (o : Op) (bs : List Byte) (s : State) : State :=
  (s.modThread o.th (Thread.deliverLoad o bs s.clock.cycle)).endOp o

/-! ## Faults of accesses in flight (R19, R214, R215, R219) -/

/-- The thread may park for an access that has issued: it is not parked, and not in a wait that ends soon by itself. The
spec does not say when a thread parks that is parked already, or that waits for a status, for a SPAWN's answer or in Dusk: in
this model an access in flight of such a thread faults once the thread may park, and till then it waits, in Dusk beyond
20 µs too (R19; log entry 71). -/
def State.mayPark (s : State) (t : ThreadId) : Bool :=
  match s.thread? t with
  | none => true
  | some x => x.park.isNone && (match x.wait with
      | .dusk _ | .fault _ _ _ _ _ _ | .status _ | .spawn _ _ _ _ _ => false
      | _ => true)

/-- An access of a class that WAIT counts (R184). -/
def OpKind.counted : OpKind → Bool
  | .load _ _ | .loadFrag | .store | .atomic _ _ _ _ _ => true
  | _ => false

/-- The registers that an access returns a value to. -/
def Op.dests (o : Op) : List Nat :=
  match o.dst with
  | some d => (List.range (regCount o.size)).map fun i => d + i
  | none => []

/-- An access of the thread has faulted: its destination holds no value of a recipe, and the slice of which it was a member,
since it issued after the SLICE, ends (R157). -/
def Thread.dropMember (o : Op) (t : Thread) : Thread :=
  { t with
    forms := t.forms.filter fun f => f.2.recipe || decide (f.1 ∉ o.dests),
    slice := match t.slice with
      | some r => if r.num < o.id then none else some r
      | none => none }

/-- The thread stands at the instruction of its access again, and will then go on from where it stood. -/
def Thread.standAt (o : Op) (counted : Option Nat) (t : Thread) : Thread :=
  (t.redoAt o.id o.addr0 o.wb counted).dropMember o

/-- The thread stands at a PHASE in which it waits: that has not retired. -/
def Thread.standPhase (o : Op) (t : Thread) : Thread :=
  { t with pc := o.addr0, wb := o.wb, wait := .none, retired := t.retired - 1, counted := none, stepOwed := none }

/-- One access in flight faults. It keeps its place in the order of the thread's accesses till the thread executes it
again (R82, R214), and a first fault keeps its count (R184). -/
def State.failOp (cause : Nat) (o : Op) (s : State) : State :=
  match s.thread? o.th with
  | none => s.endOp o
  | some t =>
    if t.wait = .phase o.id then (s.dropOp o.id).modThread o.th (Thread.standPhase o)
    else
      let again := decide (o.num ≠ o.iss)
      let s1 := if again then s.leaveCount o.th.gid o.iss else s
      (s1.modOp o.id fun x => { x with failed := some cause, stall := none }).modThread o.th
        (Thread.standAt o (if again || !(OpKind.counted o.kind) then none else some o.iss))

/-- Accesses in flight that fault together: their threads park at the instruction. -/
def State.failOps (os : List Op) (info : Op → RecInfo) (die : Option Nat) (s : State) : State :=
  let mine := os.filter fun o => s.mayPark o.th
  (mine.foldl (fun st o => st.failOp (info o).cause o) s).raise
    (mine.map fun o => { th := o.th, info := { info o with addr0 := o.addr0 }, resume := o.addr0 }) die

/-- The accesses of an issue that a test names. -/
def State.matesOf (s : State) (o : Op) (p : Op → Bool) : List Op := s.ops.filter fun e => decide (e.num = o.num) && p e

/-- A load, or an atomic that returns a value, would consume poison at the level that it reads (R215). -/
def State.consumesPoison (s : State) (o : Op) : Bool :=
  let keys := (Space.keys o.space).filter fun k => !(isRemote k)
  o.answer.isNone && o.failed.isNone && ((match o.space with
    | .spad t off => o.dst.isSome && s.spadPoisoned t off o.size
    | _ => false) || match o.kind, s.thread? o.th with
    | .load _ _, some t | .loadFrag, some t => keys.any fun k => s.bytePoisoned t k
    | .atomic _ _ .team _ _, some t => o.dst.isSome && keys.any fun k => s.bytePoisoned t k
    | .atomic _ _ .cluster _ _, _ => o.dst.isSome && keys.any fun k => s.l2Poisoned o.core.die (k / 128)
    | .atomic _ _ _ _ _, _ => o.dst.isSome && keys.any fun k => decide (k / 128 ∈ s.poison)
    | _, _ => false)

/-- Accesses of an issue whose frame has been moved park together with reason 4; a thread that cannot park yet keeps all
waiting. -/
def State.failMoved (o : Op) (s : State) : State :=
  s.failOps (s.matesOf o fun e => s.opDue e && e.answer.isNone && s.hitsMoved e) (fun e => { cause := 0x03, reason := 4, addr1 := e.vaddr }) none

/-- Those that would consume poison park together. -/
def State.failPoison (o : Op) (s : State) : State :=
  s.failOps (s.matesOf o fun e => s.opDue e && s.consumesPoison e) (fun e => { cause := 0x0B, addr1 := e.vaddr }) none

/-! ## LOAD_RESULT_ARRIVAL -/

/-- Remote bytes are given to images as whole 16-byte words: the words that a response carries. -/
def answerCells (word : Nat) (keys : List Nat) (bs : List Byte) : List Host.Cell :=
  ((List.zip keys bs).filter fun e => decide (e.1 / 16 = word)).foldl (fun m e => Memory.write m e.1 e.2) []

/-- The 16-byte words of a remote load, as its request asks for them. -/
def wordKeys (keys : List Nat) : List Nat := (wordsOf16 keys).flatMap fun w => (List.range 16).map fun i => 16 * w + i

/-- A load's value arrives; the words of the blocks that it allocated come with it (R202). -/
def State.loadArrives (o : Op) (t : Thread) (s : State) : State :=
  match o.space with
  | .spad tm off => match s.team? tm with
    | some x => s.finishLoad o (Memory.readN x.spad off o.size)
    | none => s
  | .none => s
  | .mem ps =>
    let keys := pieceBytes ps
    let s1 := match o.answer with
      | some b => (wordsOf16 keys).foldl (fun (st : State) w => st.image t w (wordMask keys w) (some (answerCells w (wordKeys keys) b))) s
      | none => (s.imageAll t keys).fillBlock t o.fills
    let pst := match o.kind with | .load _ p => p | _ => o.pst
    (s1.observe t.id (s1.freshOf t keys)).finishLoad o (keys.map fun k => s1.loadByte t pst k)

/-- LOAD_RESULT_ARRIVAL (R184, R209, R215). -/
def execLoadResultArrival (n : Nat) (s : State) : Out :=
  .next (match s.op? n with
    | none => s
    | some o =>
      if ¬ s.opDue o then s
      else match o.kind with
        | .load _ _ | .loadFrag =>
          if Space.remote o.space ∧ o.answer.isNone then s
          else if s.hitsMoved o then (if s.mayPark o.th then s.failMoved o else s)
          else if s.consumesPoison o then (if s.mayPark o.th then s.failPoison o else s)
          else match s.thread? o.th with
            | some t => s.loadArrives o t
            | none => s.endOp o
        | .atomic _ _ _ _ _ => match o.answer, o.dst with
          | some bs, some _ => s.finishLoad o bs
          | _, _ => s
        | _ => s)

/-! ## STORE_PERFORM -/

/-- One store performs. A store to another device stays counted until its packets are acknowledged; it stands behind those
that performed before it, in whose order packets leave (R182, R188). -/
def State.storeDo (s : State) (o : Op) : State :=
  match o.space with
  | .spad tm off => (s.modTeam tm fun x => { x with spad := Memory.writeN x.spad off o.data }).endOp o
  | .none => s
  | .mem ps =>
    let s1 := s.coreWrite o.core (List.zip (pieceBytes ps) o.data)
    if Space.remote o.space then s1.setOps ((s1.ops.filter fun e => decide (e.id ≠ o.id)) ++ [{ o with answer := some [] }])
    else s1.endOp o

/-- STORE_PERFORM (R74, R182, R184, R188, R219): core writes, or bytes of a scratchpad, of the lanes that reach one byte. -/
def execStorePerform (n : Nat) (s : State) : Out :=
  .next (match s.op? n with
    | none => s
    | some o =>
      let b := s.blockOf o
      if o.kind ≠ .store ∨ o.answer.isSome ∨ ¬ b.all s.mayPerform then s
      else match b.find? s.hitsMoved with
        | some e => if s.mayPark e.th then s.failMoved e else s
        | none => b.foldl State.storeDo s)

/-! ## ATOMIC_PERFORM -/

/-- A byte at the core point (R73): the latest core write, the newest image filled since it was published, or what
lies below. -/
def State.teamByte (s : State) (c : CoreId) (a : Nat) : Byte :=
  let x := s.core c
  let img := (x.images.filter fun i => decide (i.word = a / 16)).foldl (fun (m : Option Image) i => match m with
    | none => some i
    | some j => if j.fill ≤ i.fill then some i else m) none
  match (x.writes.filter fun w => decide (w.addr = a)).getLast?, img with
  | some w, some i => match w.pub with
    | none => w.val
    | some p => if i.fill ≤ p then w.val else Memory.read i.bytes a
  | some w, none => match w.pub with
    | none => w.val
    | some _ => s.readL2 c.die a
  | none, some i => Memory.read i.bytes a
  | none, none => s.readL2 c.die a

/-- The old bytes of an atomic at its point. -/
def State.atomRead (s : State) (o : Op) (sc : AtomScope) : List Byte :=
  match o.space with
  | .spad tm off => ((s.team? tm).map fun x => Memory.readN x.spad off o.size).getD []
  | .none => []
  | .mem ps => (pieceBytes ps).map fun a => match sc with
    | .team => s.teamByte o.core a
    | .cluster => s.readL2 o.core.die a
    | _ => Memory.read s.mem a

/-- A byte becomes present at the device point. -/
def State.pointWrite (a : Nat) (b : Byte) (s : State) : State := (s.setMem (Memory.write s.mem a b)).touchCached (a / 128)

/-- Writes the new bytes of an atomic at its point, and nowhere else: what narrower points hold stays until releases and
fills reconcile them (R80). -/
def State.atomWrite (o : Op) (sc : AtomScope) (bs : List Byte) (s : State) : State :=
  match o.space with
  | .spad tm off => s.modTeam tm fun x => { x with spad := Memory.writeN x.spad off bs }
  | .none => s
  | .mem ps =>
    let es := List.zip (pieceBytes ps) bs
    match sc with
    | .team => s.coreWrite o.core es
    | .cluster => (es.foldl (fun st e => st.writeL2 o.core.die e.1 e.2 (CoreId.idx o.core)) s).observe o.th (es.map Prod.fst)
    | _ => es.foldl (fun st e => st.pointWrite e.1 e.2) s

/-- The bytes of an atomic whose writes are not yet at the device point, as it reads them (R76). -/
def State.atomFresh (s : State) (o : Op) (sc : AtomScope) : List Nat :=
  (Space.keys o.space).filter fun a => match sc with
    | .team => (s.l2Dirty o.core.die a).isSome ||
        (s.core o.core).images.any fun i => decide (i.word = a / 16) && decide (a ∈ i.fresh)
    | .cluster => (s.l2Dirty o.core.die a).isSome
    | _ => false

/-- The thread's atomic beyond the core, whose bytes its next release brings to the narrower points (R76, R80). -/
def State.bypassed (o : Op) (sc : AtomScope) (s : State) : State :=
  match sc with
  | .team => s
  | _ => s.modThread o.th fun t => { t with bypass :=
      (t.bypass.filter fun e => decide (e.1 ∉ Space.keys o.space)) ++ (Space.keys o.space).map fun k => (k, decide (sc ≠ .cluster)) }

/-- The words of the blocks that an access at team scope allocated are read from below (R202). -/
def State.atomFill (o : Op) (s : State) : State :=
  match s.thread? o.th with
  | some t => s.fillBlock t o.fills
  | none => s

/-- An atomic performs: its read and write are one. -/
def State.atomDo (o : Op) (op : AtomOp) (dbl : Bool) (sc : AtomScope) (sv cv : Nat) (s0 : State) : State :=
  let s := s0.atomFill o
  let old := s.atomRead o sc
  let new := natLE o.size (atomNew op dbl (leNat old) sv cv)
  let s0 := (s.observe o.th (s.atomFresh o sc)).bypassed o sc
  let s1 := if op = .ld then s0 else s0.atomWrite o sc new
  if o.dst.isSome then s1.modOp o.id fun x => { x with answer := some old, due := s.clock.cycle } else s1.endOp o

/-- One atomic of a block. -/
def State.atomStep (s : State) (o : Op) : State :=
  match o.kind with
  | .atomic op dbl sc sv cv => s.atomDo o op dbl sc sv cv
  | _ => s

/-- ATOMIC_PERFORM (R80, R182, R187, R190, R215, R219): the lanes that reach one byte, one after the other. -/
def execAtomicPerform (n : Nat) (s : State) : Out :=
  .next (match s.op? n with
    | none => s
    | some o =>
      match o.kind with
      | .atomic _ _ _ _ _ =>
        let b := s.blockOf o
        if o.answer.isSome ∨ Space.remote o.space ∨ ¬ b.all s.mayPerform then s
        else match b.find? s.hitsMoved, b.find? s.consumesPoison with
          | some e, _ => if s.mayPark e.th then s.failMoved e else s
          | none, some e => if s.mayPark e.th then s.failPoison e else s
          | none, none => b.foldl State.atomStep s
      | _ => s)

/-! ## Sub-groups that fault -/

/-- The faults that lanes of an issue are held with. -/
def State.heldFaults (s : State) (iss : Nat) : List (LaneFault × Nat) :=
  s.threads.filterMap fun t => match t.wait with
    | .fault n cause reason addr under aux => if n = iss ∧ t.park.isNone then
        some ({ th := t.id, info := { cause := cause, reason := reason, under := under, addr0 := t.pc, addr1 := addr }, resume := t.pc }, aux)
      else none
    | _ => none

/-- Accesses of an issue in flight that meet a die in Dawn or Midnight (R19, R90): with the die. -/
def State.deadOps (s : State) (iss : Nat) : List (Op × Nat) :=
  s.ops.filterMap fun o =>
    if o.num = iss ∧ s.depsDone o ∧ o.failed.isNone ∧ o.answer.isNone ∧ s.mayPark o.th then
      (match s.gate (s.lateRoute o) with | .dead d => some (o, d) | _ => none)
    else none

/-- DATA_FAULT_PARK (R19, R90, R213, R214): the lanes of one issue that failed translation or met die state park, with
one record for each group and cause. -/
def execDataFaultPark (iss : Nat) (s : State) : Out :=
  let hs := s.heldFaults iss
  let s0 := hs.foldl (fun st h => st.modThread h.1.th Thread.endSlice) s
  let s1 := (hs.map Prod.snd).eraseDups.foldl (fun st d =>
    st.raise ((hs.filter fun h => decide (h.2 = d)).map Prod.fst)
      (if hs.any fun h => decide (h.2 = d) && decide (h.1.info.cause = 0x0C) then some d else none)) s0
  let ds := s1.deadOps iss
  .next ((ds.map Prod.snd).eraseDups.foldl (fun st d =>
    st.failOps ((ds.filter fun e => decide (e.2 = d)).map Prod.fst) (fun e => { cause := 0x0C, addr1 := e.vaddr }) (some d)) s1)

/-- The route of an access whose start is stalled in Dusk. -/
def State.stallRoute (s : State) (o : Op) : List Nat :=
  match s.thread? o.th with
  | some t => if t.wait = .dusk o.id then s.routeOf t o.kind (Space.keys o.space) else s.lateRoute o
  | none => s.lateRoute o

/-- An access that has been stalled in Dusk for 20 µs. -/
def State.duskLate (s : State) (o : Op) : Bool :=
  (match o.stall with | some c => decide (c + 28000 ≤ s.clock.cycle) | none => false) && decide (s.gate (s.stallRoute o) = .stall)

/-- An access at which its thread is held in Dusk faults: the thread stands there already. One that executed again keeps
its place and drops its count (R184, R214). -/
def State.failHeld (s : State) (o : Op) : State :=
  let again := decide (o.num ≠ o.iss)
  let s1 := if again then s.leaveCount o.th.gid o.iss else s
  (if (s.thread? o.th).any fun t => t.redo.any fun r => decide (r.op = o.id) then
      s1.modOp o.id fun x => { x with failed := some 0x0C, stall := none }
    else s1.dropOp o.id).modThread o.th fun t => { t.endSlice with counted := if again then none else t.counted }

/-- DUSK_STALL_TIMEOUT (R18, R19, R90): cause 0x0C, naming the die in Dusk. A thread held at the access parks there. -/
def execDuskStallTimeout (n : Nat) (s : State) : Out :=
  .next (match s.op? n with
    | none => s
    | some o =>
      if ¬ s.duskLate o then s
      else
        let os := s.matesOf o s.duskLate
        let held := os.filter fun e => match s.thread? e.th with
          | some t => t.park.isNone && decide (t.wait = .dusk e.id)
          | none => false
        let die := s.duskOn (s.stallRoute o)
        let s1 := held.foldl State.failHeld s
        let s2 := s1.raise (held.map fun e =>
          { th := e.th, info := { cause := 0x0C, addr0 := e.addr0, addr1 := e.vaddr }, resume := e.addr0 }) die
        s2.failOps (os.filter fun e => held.all fun h => decide (h.id ≠ e.id)) (fun e => { cause := 0x0C, addr1 := e.vaddr }) die)

/-! ## Remote failures (R320, R361) -/

/-- The access fails as remote: its port is down, or has been in recovery for 100 ms of its waiting. -/
def State.remoteFails (s : State) (o : Op) : Bool :=
  Space.remote o.space && s.mayPark o.th && (o.answer.isNone || decide (o.kind = .store)) &&
    (match s.portTo (remoteDev ((Space.keys o.space).headD 0)) with
      | none => true
      | some p => match (s.port p).st with
        | .down => true
        | x => x.recovering && (match o.stall with | some c => decide (c + 140000000 ≤ s.clock.cycle) | none => false))

/-- The destination of a remote access may refuse it for its tenant (R17, R188): it has been sent, and is not complete. The
spec names no packet that says so; the event is the refusal's arrival (log entry 65). -/
def State.refusable (s : State) (o : Op) : Bool :=
  Space.remote o.space && o.sent && s.mayPark o.th && o.failed.isNone && (o.answer.isNone || decide (o.kind = .store))

/-- What resumption writes to a thread whose remote access failed: zeroes to the destination. -/
def Thread.oweZeroes (o : Op) (t : Thread) : Thread :=
  { t with zeroes := t.zeroes ++ [match o.dst with | some d => (o.iss, d, regCount o.size) | none => (o.iss, 0, 0)] }

/-- The packets of an access that failed never leave again. -/
def State.unsend (o : Op) (s : State) : State :=
  s.voidPackets o.marks

/-- REMOTE_ACCESS_FAILURE (R361): the failed lanes' threads park at their next instruction boundary; the access stays
counted until they resume. -/
def execRemoteAccessFailure (n : Nat) (s : State) : Out :=
  .next (match s.op? n with
    | none => s
    | some o =>
      if ¬ s.remoteFails o ∧ ¬ s.refusable o then s
      else
        let os := s.matesOf o fun e => if s.remoteFails o then s.remoteFails e else s.refusable e && decide (remoteDev ((Space.keys e.space).headD 0) = remoteDev ((Space.keys o.space).headD 0))
        let s1 := os.foldl (fun st e => match st.thread? e.th with
          | none => (st.unsend e).endOp e
          | some _ => ((st.unsend e).dropOp e.id).modThread e.th fun t => (t.oweZeroes e).dropMember e) s
        s1.raise (os.filterMap fun e => (s.thread? e.th).map fun t =>
          { th := e.th, info := { cause := 0x0D, addr0 := e.addr0, addr1 := e.vaddr }, resume := t.pc }) none)

/-! ## Releases and acquires (R76 to R78) -/

/-- The release that the thread's next completion is: the oldest whose earlier operations have taken effect. -/
def State.relOf (s : State) (t : ThreadId) : Option Op :=
  s.ops.find? fun o => decide (o.th = t) && s.opDue o && (match o.kind with
    | .rel _ => true
    | .relacq _ false => true
    | _ => false)

def OpKind.scope : OpKind → Scope
  | .rel sc | .acq sc | .relacq sc _ => sc
  | _ => .thread

/-- PHASE_REL_COMPLETE (R76, R78, R80, R90): the writes are present, those of the thread's atomics at the narrower points too;
at domain scope once the packets it carries have been acknowledged (R188). -/
def execPhaseRelComplete (t : ThreadId) (s : State) : Out :=
  .next (match s.relOf t with
    | none => s
    | some o =>
      if s.gate (s.lateRoute o) ≠ .go ∨ s.waitsLock o ∨ (o.kind.scope = .domain ∧ (¬ o.sent ∨ o.marks.any s.unackedAt)) then s
      else
        let sc := o.kind.scope
        let s0 := s.release o.core sc (((s.thread? t).map Thread.observed).getD [])
        let s1 := (s0.reconcile o.core (((s.thread? t).map Thread.bypass).getD [])).modThread t fun x => { x with bypass := [] }
        let s2 := if sc = .device ∨ sc = .domain then s1.modThread t fun x => { x with observed := [] } else s1
        match o.kind with
        | .rel _ => s2.dropOp o.id
        | _ => s2.modOp o.id fun x => { x with kind := .relacq sc true, due := s.clock.cycle + 1 })

/-- PHASE_ACQ_COMPLETE (R72, R77, R166): load recipes become values in the phase that ends; then the new one begins. -/
def execPhaseAcqComplete (tid : ThreadId) (s : State) : Out :=
  .next (match (s.ops.find? fun o => decide (o.th = tid) && s.opDue o && (match o.kind with
      | .acq _ => true
      | .relacq _ true => true
      | _ => false)), s.thread? tid, s.group? tid.gid with
    | some o, some t, some g =>
      if t.park.isSome then s
      else
        let s0 := { s with issue := { s.issue with work := [] } }
        let r := s0.materialiseAll tid (t.loadRecipes g)
        let s1 := r.1.chargeWork t.qid r.1.workCycles
        let ready := s.clock.cycle + r.1.workCycles + 2
        match r.2 with
        | .wait w => s1.modThread tid fun x => { x with stallAt := (x.holdFor w s.clock.cycle).stallAt }
        | .fault i => ((s1.dropOp o.id).modThread tid (Thread.standPhase o)).raise
            [{ th := tid, info := { i with addr0 := o.addr0 }, resume := o.addr0 }] none
        | .go => ((s1.dropOp o.id).newPhase tid o.kind.scope).modThread tid
            (fun x => { x.wakeIf (fun w => decide (w = .phase o.id)) ready with stallAt := none })
    | some o, none, _ => s.dropOp o.id
    | _, _, _ => s)

/-! ## CMAINT (R194) -/

/-- Evicts the blocks of a core that hold words of some bytes. -/
def State.evictRange (c : CoreId) (keys : List Nat) (s : State) : State :=
  let ws := wordsOf16 keys
  ((s.core c).blocks.filter fun b => ws.any fun w => b.covers (w / 8) (w % 8)).foldl (fun st b => st.evictBlock c b) s

/-- The effect of a CMAINT on some bytes: written bytes go down, copies leave. Bytes of another device have copies in the L1
alone, and what was written to them has left in packets (R188). -/
def State.maintain (op : MaintOp) (lv : Nat) (c : CoreId) (keys : List Nat) (s : State) : State :=
  let here (a : Nat) : Bool := decide (a ∈ keys)
  let local_ := keys.filter fun k => !(isRemote k)
  let s1 := if lv < 2 then s else s.publish c .cluster fun w => here w.addr
  let s2 := if lv < 3 then s1 else s1.pushL2 c.die fun e => here e.addr
  if op = .clean then s2
  else
    let s3 := (s2.publish c .cluster fun w => here w.addr).evictRange c keys
    let s4 := if lv < 2 then s3 else (s3.pushL2 c.die fun e => here e.addr).dropL2 c.die local_
    if lv < 3 then s4 else ((local_.map fun k => k / 128).eraseDups).foldl (fun st n => st.dropCached n) s4

/-- CMAINT_COMPLETE (R194). -/
def execCmaintComplete (n : Nat) (s : State) : Out :=
  .next (match s.op? n with
    | none => s
    | some o =>
      match o.kind with
      | .cmaint op lv bs =>
        if ¬ s.mayPerform o then s else (s.maintain op lv o.core (pieceBytes bs)).dropOp n
      | _ => s)

/-! ## Capability writes and evictions -/

/-- CAP_WRITE_EFFECT (R174, R197): the CAPLDs of a team whose table reads have completed. -/
def execCapWriteEffect (t : TeamId) (s : State) : Out :=
  .next (match s.team? t with
    | none => s
    | some x =>
      let due := x.capWrites.filter fun w => decide (w.2.2 ≤ s.clock.cycle)
      s.modTeam t fun y =>
        { due.foldl (fun z w => Team.setCap w.1 w.2.1 z) y with
          capWrites := x.capWrites.filter fun w => decide (s.clock.cycle < w.2.2) })

/-- L1_EVICTION (R202, R203, R206, R207): the block that holds an address leaves a core's L1. -/
def execL1Eviction (d c addr : Nat) (s : State) : Out :=
  let core : CoreId := { die := d, core := c }
  .next (match (s.core core).blocks.find? fun b => b.covers (addr / 128) (addr / 16 % 8) with
    | none => s
    | some b => s.evictBlock core b)

/-- L2_EVICTION (R208): the line that holds an address leaves a die's L2. -/
def execL2Eviction (d addr : Nat) (s : State) : Out :=
  .next (match (s.die d).line? (addr / 128) with
    | none => s
    | some l => s.evictL2 d l)

/-! ## Migrations (R217, R219) -/

def feLock (e : Nat) : Bool := e.testBit 63
def feOwner (e : Nat) : Nat := bitsAt e 42 21

/-- MIGRATION_REQUEST (R219): it arrives; the requests of a cycle are performed at its end, in ascending agent ID. -/
def execMigrationRequest (frame agent : Nat) (s : State) : Out :=
  .next (s.modRoot fun r => { r with requests := r.requests ++ [(frame, agent)] })

/-- An access that a locked or moved frame faults. A PHASE does not fault there, as it faults under R90 and R166 alone (R193):
its release waits for the lock. -/
def OpKind.parksAtFrame : OpKind → Bool
  | .rel _ | .relacq _ _ => false
  | _ => true

/-- Writes that wait at a frame. -/
def State.waitingAt (s : State) (frame : Nat) : List Op :=
  s.ops.filter fun o => o.kind.parksAtFrame && s.waitsLock o && s.depsDone o && decide (o.due ≤ s.clock.cycle) &&
    (Space.keys o.space ++ s.carried o).any fun k => decide (k / 65536 = frame)

/-- MIGRATION_MOVE_COMPLETE (R219): MOVED, DEST and LOCK = 0 in one update; the writes that still wait park with
reason 4. -/
def execMigrationMoveComplete (frame agent dest : Nat) (s : State) : Out :=
  .next (match s.frameEntry (65536 * frame) with
    | none => s
    | some f =>
      let e := s.dev64 f
      if ¬ feLock e ∨ feOwner e ≠ agent then s
      else
        let os := s.waitingAt frame
        let s1 := s.devWriteN f 8 (putBits (putBits (putBits e 63 1 0) 41 1 1) 0 31 dest)
        (os.map fun o => o.num).eraseDups.foldl (fun st i =>
          st.failOps (os.filter fun o => decide (o.num = i)) (fun o => { cause := 0x03, reason := 4, addr1 := o.vaddr }) none) s1)

/-- MIGRATION_WRITE_TIMEOUT (R219): reason 3 after 100 µs. -/
def execMigrationWriteTimeout (n : Nat) (s : State) : Out :=
  let late (st : State) (o : Op) : Bool := o.kind.parksAtFrame && st.waitsLock o && st.mayPark o.th &&
    (match o.stall with | some c => decide (c + 140000 ≤ st.clock.cycle) | none => false)
  .next (match s.op? n with
    | none => s
    | some o =>
      if late s o then s.failOps (s.matesOf o (late s)) (fun e => { cause := 0x03, reason := 3, addr1 := e.vaddr }) none
      else s)

end Sys2Proof.Machine
end

