-- ==== Sys2Proof/Machine/Preempt.lean ====
section
/-! DEFINITION. Pre-emption and restore (R170, R199, R237, R279, R303, R310, R314), partitions and virtual functions (R238),
and replay (R350 to R352). -/

namespace Sys2Proof.Machine
open Host

/-! ## Stopping teams (R237 step 1) -/

/-- Every group of the team is SAVED. -/
def State.teamOut (s : State) (t : Team) : Bool := (s.teamGroups t.id).all fun g => decide (g.act = .saved)

/-- The teams that a test names stop at their next instruction boundaries; a save whose traffic faulted is tried anew. -/
def State.stopTeams (replace fast : Bool) (want : Team → Bool) (s : State) : State :=
  { s with teams := s.teams.map fun t => if want t && !(s.teamOut t) then
      { t with stopping := true, fast := fast, stopped := some (s.clock.tick, t.core), saveStall := none, saveHeld := false,
               replace := t.replace || replace } else t }

def State.teamVf (s : State) (t : Team) : Nat := ((s.grid? t.id.grid).map Grid.vf).getD 0

/-- PREEMPT_COMMAND (R237). In fast mode others may be restored while the teams are saved. -/
def execPreemptCommand (x : PreemptTarget) (fast : Bool) (s : State) : Out :=
  let hit (t : Team) : Bool := match x with
    | .grid g => decide (t.id.grid = g)
    | .vf v => decide (s.teamVf t = v)
    | .partition p => decide (s.teamPart t = p)
  let s1 := s.stopTeams false fast hit
  .next { s1 with grids := s1.grids.map fun g =>
    if s1.teams.any fun t => decide (t.id.grid = g.id) && t.stopping && hit t then { g with paused := true } else g }

/-! ## Saving (R237 steps 2 to 5) -/

/-- Nothing that must end before a team is saved is under way: loads and returning atomics, results of issued
instructions, RED and SCAN (R137), materialisations (R170), captures and decisions, begun matrix commands in its quadrants (R253), draining
entries, copies that have moved a byte. -/
def State.teamQuiet (s : State) (t : Team) : Bool :=
  let quads := (s.teamGroups t.id).map Group.qid
  !(s.loadsOut fun x => decide (x.tmid = t.id)) &&
  ((s.teamThreads t.id).all fun x => (x.busy.all fun e => decide (e.2 ≤ s.clock.cycle)) &&
    decide (x.collUntil ≤ s.clock.cycle) && !(s.materialising x) && decide (x.moveUntil ≤ s.clock.cycle) && (x.park.isSome || (match x.wait with
      | .fault _ _ _ _ _ _ | .capture _ | .status _ | .dusk _ | .spawn _ _ _ _ _ => false
      | _ => true))) &&
  s.cmds.all fun c =>
    (decide (c.th.tmid ≠ t.id) && !(decide (Cmd.qid c ∈ quads) && c.isMatrix && ((s.team? c.th.tmid).map Team.stopping).getD false)) ||
    (match c.st with
      | .capture | .decide | .draining => false
      | .running => c.unmoved
      | .copyOut | .copyWait => (List.range 4).all fun i => match (s.epiAt (quadOn c.core c.target) i).st with
        | .held _ _ => true
        | _ => false
      | _ => true)

/-- A wait as it is saved: the rest of a SLEEP; a YIELD is over, and an instruction that waits for its registers' recipes
issues anew. -/
def Wait.toSave (now : Nat) : Wait → Wait
  | .sleep c => .sleep (c - now)
  | .yield _ | .refill _ | .regen _ => .none
  | w => w

/-- A wait as it returns. -/
def Wait.restored (now : Nat) : Wait → Wait
  | .sleep c => .sleep (now + c)
  | w => w

def Thread.mapWaits (f : Wait → Wait) (t : Thread) : Thread :=
  { t with wait := f t.wait, redo := t.redo.map fun e => { e with wait := f e.wait } }

/-- Materialises what a team's save needs, group by group. -/
def State.matTeam (t : Team) (s : State) : State × Bool :=
  (s.teamGroups t.id).foldl (fun (acc : State × Bool) g =>
    let r := acc.1.matSave (Group.qid g) ((acc.1.groupThreads g.id).map Thread.id)
    (r.1, acc.2 && r.2)) (s, true)

/-- Saves a quiet team: its groups are SAVED and its place is free. A load recipe that needs the reserve, or faults, and the
cycles of materialisation leave it for a later step. -/
def State.saveTeam (t0 : Team) (s : State) : State :=
  let tm := t0.id
  let r := s.matTeam t0
  match r.1.team? tm with
  | none => s
  | some t =>
    if ¬ r.2 then r.1
    else
      let s1 := (r.1.teamGroups tm).foldl (fun st g => if Group.holdsRows g then st.freeGroup g .saved
        else st.modGroup g.id fun x => { x with act := .saved, urgent := false }) r.1
      let s2 := s1.mapThreads fun x => if x.id.tmid = tm then
        { x.mapWaits (Wait.toSave s.clock.cycle) with busy := [], regen := [], stallAt := none, ready := false } else x
      s2.stowTeam t

/-- A stopping team is saved once it is quiet and the traffic of its save can go. -/
def State.saveStep (s : State) (t : Team) : State :=
  if t.saveHeld ∨ ¬ s.teamQuiet t then s
  else if s.saveGate t = .go then s.saveTeam t else s.saveWaits t

/-- Saves the stopping teams. -/
def State.saveStopped (s : State) : State :=
  (s.teams.filter Team.stopping).foldl (fun st t => match st.team? t.id with
    | some u => st.saveStep u
    | none => st) s

/-! ## Restoring (R237) -/

/-- Places for the groups of a team on a core, each on its QUAD. -/
def State.placeFixed (s : State) (g : Grid) (c : CoreId) : List Group → List (Nat × Nat) → Option (List (Nat × Nat))
  | [], acc => some acc
  | x :: r, acc => match State.placeGroups s g c [x.quad] 1 acc with
    | none => none
    | some a => State.placeFixed s g c r a

/-- A command of a restored team: a held epilogue stays where its entry is. -/
def Cmd.moveTo (c : Cmd) (dest : CoreId) (now : Nat) : Cmd :=
  if c.isMatrix then (match c.st with | .held _ _ => c | _ => { c with core := dest })
  else { c with core := dest, due := now }

/-- A team leaves a core for another: what its threads have written and observed goes to the device point, where they
read it (R79, R82), and accesses of theirs still in flight perform from the new core. -/
def State.moveTeam (t : Team) (dest : CoreId) (s : State) : State :=
  if t.core = dest then s
  else
    let seen := (s.teamThreads t.id).flatMap Thread.observed
    let s1 := s.release t.core .device seen
    { s1 with ops := s1.ops.map fun o => if o.th.tmid = t.id then { o with core := dest } else o }

/-- Puts a team on a core at the places of its groups. -/
def State.unsaveAt (t : Team) (c : CoreId) (gs : List (Group × Nat × Nat)) (s : State) : State :=
  let now := s.clock.cycle
  let base (g : GroupId) : Nat := ((gs.find? fun x => decide (x.1.id = g)).map fun x => x.2.2).getD 0
  let s1 := ((s.moveTeam t c).unstow t c (s.freeSlot c)).modTeam t.id fun x =>
    { x with tbars := x.tbars.map fun b => { b with arrivedAt := b.arrivedAt.map fun _ => now } }
  let s2 := s1.setCmds (s1.cmds.map fun y => if y.th.tmid = t.id then y.moveTo c now else y)
  let s3 := s2.mapThreads fun x => if x.id.tmid = t.id then
    { x.mapWaits (Wait.restored now) with core := c, lane := base x.id.gid + x.id.tid, nextAt := now } else x
  let s4 := { s3 with groups := s3.groups.map fun g => if g.id.tmid = t.id then
      { g with core := c, laneBase := base g.id, act := .waiting, eligSince := now } else g }
  (gs.map fun x => x.1.id).foldl (fun st g => st.evalMasks g) s4

/-- Core c where a cluster moves so that core f comes to o. -/
def CoreId.shift (f o c : CoreId) : Option CoreId :=
  let r := o.core / 8 + c.core / 8
  let k := o.core % 8 + c.core % 8
  if f.core / 8 ≤ r ∧ r - f.core / 8 < 6 ∧ f.core % 8 ≤ k ∧ k - f.core % 8 < 8 then
    some { die := o.die, core := 8 * (r - f.core / 8) + (k - f.core % 8) }
  else none

/-- Restores some teams, the first at core o; none where one does not fit. -/
def State.restoreAt (g : Grid) (f o : CoreId) : List Team → State → Option State
  | [], s => some s
  | t :: r, s =>
    match CoreId.shift f o t.core with
    | none => none
    | some c =>
      if ¬ s.roomOn g c ∨ s.gate (route c.die (homeDie (s.part g.part).saveBase)) ≠ .go then none
      else
        let gs := s.teamGroups t.id
        match s.placeFixed g c gs [] with
        | none => none
        | some ps => State.restoreAt g f o r (s.unsaveAt t c (List.zip gs ps))

/-- Restores the teams of one cluster where the fewest teams are resident (R227). -/
def State.restoreCluster (g : Grid) (ts : List Team) (s : State) : Option State :=
  match ts with
  | [] => some s
  | t :: _ =>
    let load (o : CoreId) : Nat := (ts.map fun x => ((CoreId.shift t.core o x.core).map fun c => (s.residents c).length).getD 0).foldl Nat.max 0
    (coresAll.foldl (fun (m : Option (Nat × State)) o =>
      match m, State.restoreAt g t.core o ts s with
      | some x, some s1 => if load o < x.1 then some (load o, s1) else m
      | none, some s1 => some (load o, s1)
      | _, none => m) none).map Prod.snd

/-- The clusters that are restored together with a team: its own, or every one of a cooperative grid. -/
def State.clustersOf (s : State) (g : Grid) (t : Team) : List (List Team) :=
  let mine := s.teams.filter fun x => decide (x.id.grid = g.id)
  let ids := if g.coop then (mine.map fun x => x.id.team / g.desc.tpc).eraseDups else [t.id.team / g.desc.tpc]
  ids.map fun i => mine.filter fun x => decide (x.id.team / g.desc.tpc = i)

/-- Restores clusters, all or none. -/
def State.restoreAll (g : Grid) : List (List Team) → State → Option State
  | [], s => if g.coop then (if s.coopFits g then some s else none) else some s
  | c :: r, s => (s.restoreCluster g c).bind fun s1 => State.restoreAll g r s1

/-- What a core's team leaves there can go to the device point now. -/
def State.canLeave (s : State) (c : CoreId) : Bool :=
  (s.undelivered c fun _ => true).all fun a => !(s.frameLocked a) && decide (s.gate (route c.die (homeDie a)) = .go)

/-- A team of a partition is being saved outside fast mode: its place is not free yet. -/
def State.savingSlow (s : State) (p : Nat) : Bool :=
  s.teams.any fun t => t.stopping && !t.fast && !t.saveHeld && decide (s.teamPart t = p)

/-- The team may be restored now. -/
def State.restorable (s : State) (t : Team) (g : Grid) : Bool :=
  s.vfOn g.vf && t.saved && !(s.savingSlow g.part) && s.canLeave t.core &&
    (s.clustersOf g t).all fun c => c.all fun x => s.teamOut x && x.saved

/-- The half of the register file that a FAST grid is restored into: its own, or the opposite one where another FAST grid
holds its own and no team of it is resident (R227, R237). -/
def State.halfBack (s : State) (g : Grid) : Nat :=
  let resident (x : Nat) : Bool := s.teams.any fun t => decide (t.id.grid = x) && !t.saved
  if g.fast ∧ ¬ resident g.id ∧ s.grids.any (fun x => decide (x.part = g.part) && x.fast && decide (x.id ≠ g.id) &&
      decide (x.half = g.half) && resident x.id) then 1 - g.half else g.half

/-- PREEMPT_RESTORE (R237, R238, R303, R310): with the cluster, or the cooperative grid, that it belongs to; the groups of a
cooperative grid take their rows after any refill under way (R165). -/
def execPreemptRestore (tm : TeamId) (s : State) : Out :=
  .next (match s.team? tm, s.grid? tm.grid with
    | some t, some g0 =>
      if ¬ s.restorable t g0 ∨ (g0.coop ∧ s.partRefilling g0.part) then s
      else
        let g := { g0 with half := s.halfBack g0 }
        match State.restoreAll g (s.clustersOf g t) (s.modGrid g.id fun x => { x with half := g.half }) with
        | none => s
        | some s1 =>
          let s2 := s1.modGrid g.id fun x => { x with paused := false }
          if g.coop then (s2.groups.filter fun x => decide (x.id.grid = g.id)).foldl (fun st x => st.activate x.id) s2 else s2
    | _, _ => s)

/-! ## Partitions (R238) -/

/-- A refusal with a status is reported to the supervisor. -/
def State.refuseCmd (what : Nat) (s : State) : State := s.report 0x3F what

/-- Every team of a cooperative grid could be resident at once in a partition with some quadrants (R68). -/
def State.coopCould (s : State) (p : Nat) (qs : List QuadId) (g : Grid) : Bool :=
  let s1 : State := { s with
    teams := s.teams.filter fun t => decide (t.id.grid ≠ g.id),
    groups := s.groups.filter fun x => decide (x.id.grid ≠ g.id),
    threads := s.threads.filter fun x => decide (x.id.grid ≠ g.id) }
  (State.placeAll g (g.nteams / g.desc.tpc) ((s1.modPart p fun x => { x with quads := qs }).modGrid g.id
    fun x => { x with placed := 0 })).isSome

/-- The resident cooperative grids of a partition that would no longer fit. -/
def State.coopLost (s : State) (p : Nat) (qs : List QuadId) : List Nat :=
  (s.grids.filter fun g => decide (g.part = p) && g.coop && (s.teams.any fun t => decide (t.id.grid = g.id) && !t.saved) &&
    !(s.coopCould p qs g)).map Grid.id

/-- The quadrants leave the partition; teams with a group on one of them, their clusters, and the grids of `force`
are saved and placed again. -/
def State.shrink (p : Nat) (gone : List QuadId) (force : List Nat) (s : State) : State :=
  let touched (t : Team) : Bool := (s.teamGroups t.id).any fun g => decide (Group.qid g ∈ gone)
  let hit (t : Team) : Bool := decide (s.teamPart t = p) && (decide (t.id.grid ∈ force) ||
    (match s.grid? t.id.grid with
      | some g => (s.clustersOf g t).any fun c => c.any touched
      | none => false))
  (s.stopTeams true false hit).modPart p fun x => { x with quads := x.quads.filter fun q => decide (q ∉ gone) }

/-- PARTITION_SHRINK (R238): refused where a resident cooperative grid would no longer fit. -/
def execPartitionShrink (p : Nat) (gone : List QuadId) (s : State) : Out :=
  let qs := (s.part p).quads.filter fun q => decide (q ∉ gone)
  .next (if (s.coopLost p qs).isEmpty then s.shrink p gone [] else s.refuseCmd 1)

/-- PARTITION_SHRINK_FORCE (R238): such a grid is saved whole and restored once the partition can hold it. -/
def execPartitionShrinkForce (p : Nat) (gone : List QuadId) (s : State) : Out :=
  let qs := (s.part p).quads.filter fun q => decide (q ∉ gone)
  .next (s.shrink p gone (s.coopLost p qs))

/-! ## Virtual functions (R238) -/

/-- What a disable does to a copy or CRED; a bound runs from the cycle at which it starts and does not count the cycles of `lost` (R294), in 224ths of a nanosecond, 160 to a cycle. -/
def State.disableCmd (s : State) (c : Cmd) : State :=
  if c.isMatrix then s
  else if c.unmoved then s.cancelCopy c stDiscarded
  else match c.st with
    | .held _ _ => s.cancelCopy c stCancelled
    | .running => if c.at_ + c.lost + c.bound / 160 ≤ s.clock.cycle + 1260000 then s else s.cancelCopy c stCancelled
    | _ => s

/-- The copies and CREDs of functions that are being disabled. -/
def State.disableCmds (s : State) : State :=
  (s.cmds.filter fun c => (s.vf (s.vfOf c.th)).disabling).foldl State.disableCmd s

/-- VF_DISABLE (R238): the teams stop, the copies are cancelled; what follows once all is saved is settled then. -/
def execVfDisable (vs : List Nat) (s : State) : Out :=
  let s1 := vs.foldl (fun st v => st.modVf v fun x => { x with disabling := x.enabled }) s
  .next (s1.stopTeams true false fun t => decide (s.teamVf t ∈ vs)).disableCmds

/-- A chain, or a spawn queue, with entries of a function. -/
def State.chainOf (s : State) (v c : Nat) : Bool :=
  if c < 128 then decide ((s.chain c).vf = v) else (s.chain c).queue.any fun q => decide (q.2.2.2 = v)

/-- Reads the entries of a chain that are appended and not read yet, as far as they can be read. -/
def State.readAll (c : Nat) : Nat → State → State
  | 0, s => s
  | n + 1, s =>
    let s1 := s.readEntry c
    if (s1.chain c).read = (s.chain c).read then s else State.readAll c n s1

/-- No team of an entry's grid has been placed, or it has no grid yet (R223). -/
def State.unstarted (s : State) (e : Entry) : Bool :=
  match e.stage with
  | .waiting => true
  | .grid g => ((s.grid? g).map fun x => decide (x.placed = 0)).getD false
  | .completed _ => false

/-- Every unstarted entry of a function in a chain is written CANCELLED, and the chain is off. -/
def State.cancelChain (v c : Nat) (s0 : State) : State :=
  let s := if s0.chainOf v c then State.readAll c ((s0.chain c).tail - (s0.chain c).read + (s0.chain c).queue.length) s0 else s0
  let es := (s.chain c).entries.filter fun e => decide (s.entryVf c e = v) && s.unstarted e
  let gone := es.filterMap fun e => match e.stage with | .grid g => some g | _ => none
  let mine := decide (c < 128) && decide ((s.chain c).vf = v)
  ({ s with grids := s.grids.filter fun g => decide (g.id ∉ gone) }).modChain c fun x => { x with
    enable := x.enable && !mine, off := x.off || (mine && x.enable),
    entries := x.entries.map fun (e : Entry) => if es.any fun y => decide (y.num = e.num) then
        { e with stage := .completed 6 } else e }

/-- The function is disabled once every team of it is saved and no copy of it is under way. -/
def State.finishDisable (v : Nat) (s : State) : State :=
  if (s.vf v).disabling ∧ (s.teams.all fun t => decide (s.teamVf t ≠ v) || s.teamOut t) ∧
      (s.cmds.all fun c => c.isMatrix || decide (s.vfOf c.th ≠ v)) then
    (s.chains.map Prod.fst).foldl (fun st c => st.cancelChain v c) (s.modVf v fun x => { x with enabled := false, disabling := false })
  else s

/-- VF_ENABLE (R238): the chains that its disable turned off are walked again. -/
def execVfEnable (v : Nat) (s : State) : Out :=
  let s1 := s.modVf v fun x => { x with enabled := true, disabling := false }
  .next { s1 with chains := s1.chains.map fun c => (c.1,
    if c.2.vf = v ∧ c.2.off then { c.2 with enable := true, off := false } else c.2) }

/-! ## Count stops and replay (R350 to R352) -/

/-- Every thread of a group that is not parked parks after its last instruction, with cause 0x09 marked a count stop. -/
def State.parkStop (gid : GroupId) (s : State) : State :=
  s.raise (((s.groupThreads gid).filter fun t => t.park.isNone).map fun t =>
    { th := t.id, info := { cause := 0x09, kind := 4, addr0 := t.pc, aux0 := s.retiredOf gid }, resume := t.pc }) none

/-- COUNT_STOP (R352). -/
def execCountStop (gid : GroupId) (s : State) : Out :=
  .next (match (s.group? gid).bind Group.stopAt with
    | none => s
    | some n => if s.retiredOf gid < n then s
      else (s.parkStop gid).modGroup gid fun g => { g with stopAt := none })

/-! The memory of a partition is what the page tables of its functions map (R212). -/

/-- The entries of a table at an address that memory lists: index and value. -/
def State.tableEntries (s : State) (base n : Nat) : List (Nat × Nat) :=
  (((s.mem.filter fun c => decide (base ≤ c.1) && decide (c.1 < base + 8 * n)).map fun c => (c.1 - base) / 8).eraseDups).map
    fun i => (i, s.dev64 (base + 8 * i))

/-- The frames that a table and those below it map in this device: address and size. -/
def State.framesBelow (s : State) : Nat → Nat → Nat → List (Nat × Nat)
  | 0, _, _ => []
  | n + 1, level, base =>
    (s.tableEntries base ([32768, 8192, 256, 32].getD level 0)).flatMap fun e =>
      if ¬ e.2.testBit 0 ∨ e.2.testBit 7 then []
      else
        let at_ := bitsAt e.2 8 44 * 256
        if e.2.testBit 1 then [(at_, if level = 2 then 2097152 else 65536)] else State.framesBelow s n (level + 1) at_

/-- A byte is memory of a partition. -/
def State.ownedBy (s : State) (p : Nat) : Nat → Bool :=
  let fs := (s.vfs.filter fun v => decide (v.2.part = p)).flatMap fun v => s.framesBelow 4 0 v.2.root
  fun a => fs.any fun f => decide (f.1 ≤ a) && decide (a < f.1 + f.2)

/-- The work of a partition. -/
def State.snapshot (p : Nat) (s : State) : Saved :=
  let gs := (s.grids.filter fun g => decide (g.part = p)).map Grid.id
  let groups := s.groups.filter fun g => decide (g.id.grid ∈ gs)
  let qs := ((s.part p).quads ++ groups.map Group.qid).eraseDups
  let cs := (qs.map QuadId.cid).eraseDups
  { threads := s.threads.filter fun t => decide (t.id.grid ∈ gs), groups := groups,
    teams := s.teams.filter fun t => decide (t.id.grid ∈ gs), grids := s.grids.filter fun g => decide (g.part = p),
    cmds := s.cmds.filter fun c => decide (c.part = p), ops := s.ops.filter fun o => decide (o.part = p),
    quads := qs.map fun q => (QuadId.idx q, s.quad q), cores := cs.map fun c => (CoreId.idx c, s.core c),
    l2 := (List.range 4).map fun d => (d, (s.die d).l2),
    chains := s.chains.filter fun c => decide ((s.vf c.2.vf).part = p) }

/-- A chain as it was, under the supervisor's and the host's present settings. -/
def Chain.back (old now : Chain) : Chain :=
  { now with done := old.done, next := old.next, read := old.read, halted := old.halted, entries := old.entries, queue := old.queue }

/-- Puts the work of a partition back, with the lines of its own memory in the L2s. -/
def State.install (p : Nat) (x : Saved) (s : State) : State :=
  let gs := (s.grids.filter fun g => decide (g.part = p)).map Grid.id ++ x.grids.map Grid.id
  let s1 : State := { s with
    threads := (s.threads.filter fun t => decide (t.id.grid ∉ gs)) ++ x.threads,
    groups := (s.groups.filter fun t => decide (t.id.grid ∉ gs)) ++ x.groups,
    teams := (s.teams.filter fun t => decide (t.id.grid ∉ gs)) ++ x.teams,
    grids := (s.grids.filter fun g => decide (g.part ≠ p)) ++ x.grids,
    cmds := (s.cmds.filter fun c => decide (c.part ≠ p)) ++ x.cmds,
    ops := (s.ops.filter fun o => decide (o.part ≠ p)) ++ x.ops,
    quads := x.quads.foldl (fun m e => tput Quad.reset m e.1 e.2) s.quads,
    cores := x.cores.foldl (fun m e => tput Core.reset m e.1 e.2) s.cores }
  let own (l : L2Line) : Bool := s.ownedBy p (128 * l.line)
  x.chains.foldl (fun st e => st.modChain e.1 (Chain.back e.2))
    (x.l2.foldl (fun st e => st.modDie e.1 fun d => { d with l2 := (d.l2.filter fun l => !(own l)) ++ e.2.filter own }) s1)

/-- The count of a group in a snapshot (R350). -/
def Saved.retiredOf (x : Saved) (g : GroupId) : Nat :=
  ((x.groups.find? fun y => decide (y.id = g)).map Group.retiredEnded).getD 0 +
    ((x.threads.filter fun t => decide (t.id.gid = g)).map Thread.retired).foldl (· + ·) 0

/-- REPLAY_CHECKPOINT (R351): at the start of an interval the partition's grids are saved; the checkpoint is taken once
they are, and they are restored. -/
def execReplayCheckpoint (p : Nat) (s : State) : Out :=
  .next (match (s.part p).replay with
    | none => s
    | some r =>
      if s.clock.cycle < r.nextAt ∨ r.asked then s
      else (s.stopTeams true false fun t => decide (s.teamPart t = p)).modPart p fun x =>
        { x with replay := some { r with asked := true } })

/-- Takes a checkpoint that was asked for, once every team of the partition is saved. -/
def State.checkpoint (p : Nat) (s : State) : State :=
  match (s.part p).replay with
  | none => s
  | some r =>
    if r.asked ∧ s.teams.all (fun t => decide (s.teamPart t ≠ p) || s.teamOut t) then
      s.modPart p fun x => { x with replay := some { r with
        asked := false, ckpt := some (s.snapshot p), log := [], nextAt := s.clock.cycle + r.interval } }
    else s

/-- The bytes of memory that differ between two states, with their values in the first. -/
def memDiff (a b : List Host.Cell) : List (Nat × Byte) :=
  ((a ++ b).map Prod.fst).eraseDups.filterMap fun k =>
    if Memory.read a k = Memory.read b k then none else some (k, Memory.read a k)

/-- What the undo log of an interval takes: 64 bytes for each block first written (R351). -/
def Replay.used (r : Replay) : Nat :=
  64 * ((r.log.flatMap fun e => e.2.map fun b => b.1 / 64).eraseDups).length

/-- Records a step of a partition in replay mode; when the log would overflow the area, the next checkpoint is due. -/
def State.logStep (old : State) (p : Nat) (s : State) : State :=
  match (s.part p).replay with
  | none => s
  | some r =>
    if r.ckpt.isNone then s
    else
      let own := s.ownedBy p
      let r1 := { r with log := r.log ++ [(s.snapshot p, (memDiff old.mem s.mem).filter fun b => own b.1)] }
      s.modPart p fun x => { x with replay := some (if r.size < r1.used then { r1 with nextAt := s.clock.cycle } else r1) }

/-- The first recorded state in which the group's count reaches n: how many steps it is from the checkpoint. -/
def stopIndex (g : GroupId) (n : Nat) : List Saved → Nat → Option Nat
  | [], _ => none
  | x :: r, i => if n ≤ x.retiredOf g then some i else stopIndex g n r (i + 1)

/-- REPLAY_STOP (R352): memory and the partition's work are what they were at the named count; the group parks there. A
count beyond what is recorded becomes a count stop. -/
def execReplayStop (p : Nat) (gid : GroupId) (n : Nat) (s : State) : Out :=
  .next (match (s.part p).replay.bind fun r => r.ckpt.map fun c => (r, c) with
    | none => s
    | some (r, c) =>
      match stopIndex gid n (c :: r.log.map Prod.fst) 0 with
      | none => s.modGroup gid fun g => { g with stopAt := some n }
      | some i =>
        let undo := (r.log.drop i).reverse.flatMap Prod.snd
        let s1 := (s.setMem (undo.foldl (fun m e => Memory.write m e.1 e.2) s.mem)).install p
          ((c :: r.log.map Prod.fst).getD i c)
        (s1.modPart p fun x => { x with replay := some { r with log := r.log.take i } }).parkStop gid)

end Sys2Proof.Machine
end

