-- ==== Sys2Proof/Machine/Supervisor.lean ====
section
/-! DEFINITION. What supervisors do through their partition interfaces: resuming and killing (R66, R141, R214, R297, R361),
the step bit (R153), cached translations (R213), the sweeper and its queues (R217, R218), and the settings without an
event of their own (R216, R224, R233, R236, R238, R285, R311, R326, R328, R338, R343, R345, R351 to R354, R356). -/

namespace Sys2Proof.Machine
open Host

/-! ## Resuming (R141, R214, R216, R361) -/

/-- What a thread does with its redirection: it runs at the new pc, held in no wait any more; it will not return to a later
point, and its access is not made again (R141). -/
def Thread.redirect (pc : Option Nat) (t : Thread) : Thread :=
  match pc with
  | none => t
  | some _ => { t with redo := [], counted := none, wait := .none, stallAt := none, stepOwed := none, stepNow := none }

/-- Zeroes of failed remote accesses (R361). -/
def Thread.payZeroes (t : Thread) : Thread :=
  t.zeroes.foldl (fun x z => x.setRegs z.2.1 (List.replicate z.2.2 0)) { t with zeroes := [] }

/-- The issues whose counts a thread holds for accesses that it has still to execute again (R184). -/
def Thread.holdsCounts (t : Thread) : List Nat := t.counted.toList ++ t.redo.flatMap fun r => r.counted.toList

/-- Issues whose count a resumed thread leaves: failed remote accesses, and accesses it is redirected past. -/
def Thread.leaves (pc : Option Nat) (t : Thread) : List Nat :=
  t.zeroes.map Prod.fst ++ (if pc.isSome then t.holdsCounts else [])

/-- The accesses of a thread that failed and will not be made again leave the order of its accesses. -/
def State.forget (t : ThreadId) (s : State) : State :=
  s.setOps (s.ops.filter fun o => !(decide (o.th = t) && o.failed.isSome))

/-- One parked thread goes on. -/
def State.resumeThread (pc : Option Nat) (s : State) (t : Thread) : State :=
  let s1 := (t.leaves pc).foldl (fun st n => st.leaveCount t.id.gid n) s
  (if pc.isSome then s1.forget t.id else s1).modThread t.id fun x => (x.payZeroes.redirect pc).resumeAt pc

/-- A group whose fetch fault is resolved is eligible again (R216). -/
def State.freeFetch (gid : GroupId) (s : State) : State :=
  if (s.groupThreads gid).any fun t => match t.park with | some p => decide (p.cause = 0x02) | none => false then s
  else (s.modGroup gid fun g => if g.fetchHeld then
    { g with fetchHeld := false, act := if g.act = .swapped then .waiting else g.act, eligSince := s.clock.cycle } else g).evalMasks gid

/-- A held copy or collective is taken up again (R297, R314). -/
def State.resumeCmd (s : State) (c : Cmd) : State := if c.isMatrix then s else s.resumeCopy c

/-- FAULT_RESUME (R141, R214, R297, R314, R361): the parked threads of the mask go on; where none is parked, the held
copies and collectives that threads of the mask issued are taken up again. -/
def execFaultResume (gid : GroupId) (tids : Nat) (pc : Option Nat) (s : State) : Out :=
  let ts := (s.groupThreads gid).filter fun t => mbit tids t.id.tid && t.park.isSome
  .next (if ts.isEmpty then
      (s.cmds.filter fun c => decide (c.th.gid = gid) && mbit tids c.th.tid && (match c.st with | .held _ _ => true | _ => false)).foldl
        State.resumeCmd s
    else (ts.foldl (State.resumeThread pc) s).freeFetch gid)

/-! ## Killing (R66, R349) -/

/-- The epilogue entry of a command. -/
def State.entryOf (s : State) (c : Cmd) : Option (QuadId × Nat) :=
  let q := quadOn c.core c.target
  ((List.range 4).find? fun i => decide ((s.epiAt q i).cmd = c.id) && decide ((s.epiAt q i).st ≠ .free)).map fun i => (q, i)

/-- A command is purged: a copy or collective is cancelled, a matrix command that has not begun is discarded, an epilogue
entry is freed; a begun matrix command completes, without its epilogue (R349). -/
def State.purgeCmd (s : State) (c : Cmd) : State :=
  if ¬ c.isMatrix then (if c.st = .decide then s.dropCmd c.id else s.cancelCopy c stCancelled)
  else match c.st, s.entryOf c with
    | .running, _ => s.modCmd c.id fun x => match x.kind with
        | .tmm a kh za rows _ => { x with kind := .tmm a kh za rows none }
        | _ => x
    | _, some e => s.killEpi e.1 e.2
    | _, none => ((s.finishCmd c stCancelled).unowe c.id).mapThreads fun t =>
        t.wakeIf (fun w => decide (w = .capture c.id)) s.clock.cycle

/-- Threads are killed: they end as by EXIT, their engine operations are purged, and what they hold in counts leaves. -/
def State.killThreads (ts : List Thread) (s : State) : State :=
  let ids := ts.map Thread.id
  let s1 := (s.cmds.filter fun c => decide (c.th ∈ ids)).foldl State.purgeCmd s
  let s2 := ts.foldl (fun st t => ((t.leaves (some 0)).foldl (fun x n => x.leaveCount t.id.gid n) st).forget t.id) s1
  let s3 := s2.endThreads ids
  { s3 with grids := s3.grids.map fun g => if ids.any fun t => decide (t.grid = g.id) then { g with killed := true } else g }

/-- THREAD_KILL (R66). -/
def execThreadKill (t : ThreadId) (s : State) : Out :=
  .next (match s.thread? t with
    | none => s
    | some x => (s.killThreads [x]).freeFetch t.gid)

/-- STEP_BIT_WRITE (R153). -/
def execStepBitWrite (gid : GroupId) (on : Bool) (s : State) : Out := .next (s.modGroup gid fun g => { g with step := on })

/-! ## Cached translations (R213) -/

/-- A cached translation of a function that reaches into a range. -/
def TlbEntry.inRange (v base len : Nat) (e : TlbEntry) : Bool :=
  decide (e.vf = v) && decide (e.vpage * e.size < base + len) && decide (base < (e.vpage + 1) * e.size)

/-- TRANSLATION_INVALIDATE (R213): across the device. -/
def execTranslationInvalidate (v base len : Nat) (s : State) : Out :=
  let keep (l : List TlbEntry) : List TlbEntry := l.filter fun e => !(e.inRange v base len)
  .next { s with
    quads := s.quads.foldl (fun m e => tput Quad.reset m e.1 { e.2 with tlb := keep e.2.tlb }) s.quads,
    cores := s.cores.foldl (fun m e => tput Core.reset m e.1 { e.2 with tlb := keep e.2.tlb }) s.cores }

/-! ## The sweeper (R217, R218) -/

/-- The entry of a frame after a visit, and whether the frame is appended. -/
def sweepEntry (e age : Nat) (room : Bool) : Nat × Bool :=
  if e.testBit 39 then (putBits (putBits e 39 1 0) 31 8 0, false)
  else
    let a := Nat.min 255 (bitsAt e 31 8 + 1)
    let app := decide (age ≤ a) && !(e.testBit 40) && room
    (putBits (putBits e 31 8 a) 40 1 (if app ∨ e.testBit 40 then 1 else 0), app)

/-- SWEEPER_FRAME_VISIT (R217, R218): one frame homed on the die every 16 cycles, while the queue holds fewer entries than
the watermark. -/
def execSweeperFrameVisit (io : Nat) (s : State) : Out :=
  let d := 4 + io
  let x := s.die d
  .next (if s.root.frameTable = 0 ∨ s.clock.cycle < x.sweepAt ∨ x.watermark ≤ x.produced - x.consumed then s
    else
      let f := 2 * x.sweepPos + io
      let at_ := s.root.frameTable + 8 * f
      let r := sweepEntry (s.dev64 at_) x.coldAge (decide (x.coldBase ≠ 0))
      let s1 := if r.2 then s.devWriteN (x.coldBase + 8 * (x.produced % x.coldLen)) 8 (2 ^ 63 + f) else s
      (s1.devWriteN at_ 8 r.1).modDie d fun y => { y with
        produced := if r.2 then y.produced + 1 else y.produced,
        sweepPos := if Config.memBytes / 65536 ≤ f + 2 then 0 else y.sweepPos + 1, sweepAt := s.clock.cycle + 16 })

/-- COLD_QUEUE_CONSUMED_WRITE (R218): a write out of range is ignored. -/
def execColdQueueConsumedWrite (io n : Nat) (s : State) : Out :=
  .next (s.modDie (4 + io) fun x => if x.consumed ≤ n ∧ n ≤ x.produced then { x with consumed := n } else x)

/-- COLD_QUEUE_BASE_WRITE (R216, R218): the queue is empty again; the watermark stays at most the length. A length out of
range is refused. -/
def execColdQueueBaseWrite (io base len : Nat) (s : State) : Out :=
  .next (if len < 4096 ∨ 2 ^ 20 < len then s.refuseCmd 3
    else s.modDie (4 + io) fun x => { x with
      coldBase := base, coldLen := len, produced := 0, consumed := 0, watermark := Nat.min x.watermark len })

/-! ## Derived events and views (R353, R354) -/

/-- Input d of event i is of lower index. -/
def DerIn.below (i : Nat) : DerIn → Bool
  | .raw _ => true
  | .derived j => decide (j < i)

/-- DERIVED_EVENT_CONFIG (R354): refused where an input is a derived event of equal or higher index, or a threshold is out
of range. The event counts from here on, with no earlier cycle behind it. -/
def execDerivedEventConfig (p i : Nat) (d : Derived) (s : State) : Out :=
  let ok := DerIn.below i d.a && DerIn.below i d.b && (match d.fn with | .thresh n => decide (1 ≤ n ∧ n ≤ 64) | _ => true)
  let s1 := if (s.part p).derived.isEmpty then s.notePrev p (s.part p) else s
  let s2 := ((s.part p).quads.map QuadId.idx ++ [1023]).foldl (fun (st : State) x => (st.setEv (edgeKey p i x) 0).setEv (runKey p i x) 0) s1
  .next (if ok then s2.modPart p fun x => { x with derived := tins (tdel x.derived i) i d } else s.refuseCmd 2)

/-- The counts at which a view is cleared, for each quadrant or for the partition. -/
def State.viewNow (s : State) (p i : Nat) (v : View) : List (Nat × Nat) :=
  let qs : List QuadId := if v.quadrant then (s.part p).quads else [{ die := 0, core := 0, quad := 0 }]
  qs.map fun q => (viewKey i v q, (s.viewCount p q v).getD 0)

/-- The clearing points of a partition without those of view i. -/
def Part.dropBases (i : Nat) (x : Part) : List (Nat × Nat) := x.viewBase.filter fun e => decide (e.1 / 1024 ≠ i)

/-- The views that an assignment makes: a HIST event occupies eight consecutive ones, one for each bin (R354). -/
def Part.viewsOf (x : Part) (i : Nat) (v : View) : List (Nat × View) :=
  match v.ev with
  | .raw _ => [(i, v)]
  | .derived j => match (x.derived.find? fun e => decide (e.1 = j)).map (fun e => e.2.fn) with
    | some (DerFn.hist _) => (List.range 8).map fun b => (i + b, { v with bin := b })
    | _ => [(i, v)]

/-- A view is cleared, or assigned anew: it counts from here on (R353; log entry 11). -/
def State.rebase (p : Nat) (l : List (Nat × View)) (s : State) : State :=
  l.foldl (fun st e => st.modPart p fun x => { x with
    viewBase := (s.viewNow p e.1 e.2).foldl (fun m y => tput 0 m y.1 y.2) (x.dropBases e.1) }) s

/-- A view is assigned, or none is (R353). -/
def State.setView (p i : Nat) (v : Option View) (s : State) : Option State :=
  match v with
  | none => some (s.modPart p fun x => { x with views := tdel x.views i, viewBase := x.dropBases i })
  | some y =>
    let l := (s.part p).viewsOf i y
    if l.all fun e => decide (e.1 < 32) then
      some ((s.modPart p fun x => { x with views := l.foldl (fun m e => tins (tdel m e.1) e.1 e.2) x.views }).rebase p l)
    else none

/-! ## Settings -/

/-- What a setting does; none where a value is out of its range. A chain set anew with DONE not 0 reads entry DONE + 1 at
FIRST (DESIGN CHOICE, log entry 72). -/
def State.set (x : Setting) (s : State) : Option State :=
  let onPart (p : Nat) (ok : Bool) (f : Part → Part) : Option State := if p < 64 ∧ ok then some (s.modPart p f) else none
  let mib2 (a : Nat) : Bool := decide (a % 2097152 = 0)
  match x with
  | .partitionCreate p qs base =>
    onPart p (qs.all QuadId.wf && mib2 base && qs.all fun q => match s.partOfQuad q with | some x => decide (x = p) | none => true)
      (fun x => { x with quads := qs, saveBase := base }) |>.map fun st =>
        if (st.part p).derived.isEmpty then st else st.notePrev p (st.part p)
  | .vfCreate v tenant p root => if v < 64 ∧ p < 64 ∧ tenant < 65536 ∧ root % 262144 = 0 then
      some (s.modVf v fun x => { x with tenant := tenant, part := p, root := root }) else none
  | .chainSet c v first tail done compaddr notify enable => if c < 128 ∧ v < 64 ∧ compaddr % 4 = 0 ∧ done ≤ tail then
      some (s.modChain c fun x => { x with
        vf := v, first := first, tail := tail, done := done, compaddr := compaddr, notify := notify, enable := enable,
        next := first, read := done, halted := false, stalls := [], faulted := none, off := false, entries := [] }) else none
  | .overflowArea c base size => if CoreId.wf c ∧ mib2 base ∧ mib2 size ∧ 8388608 ≤ size ∧ size ≤ 1073741824 then
      some (s.modCore c fun x => { x with ovBase := base, ovSize := size }) else none
  | .saveArea p base => onPart p (mib2 base) fun x => { x with saveBase := base }
  | .lostlocThreshold p n => onPart p (decide (1 ≤ n ∧ n ≤ 4095)) fun x => { x with threshold := n }
  | .frameTable base => if mib2 base then some (s.modRoot fun r => { r with frameTable := base }) else none
  | .coldWatermark io n => if io < 2 ∧ 1 ≤ n ∧ n ≤ (s.die (4 + io)).coldLen then
      some (s.modDie (4 + io) fun x => { x with watermark := n }) else none
  | .coldAge io n => if io < 2 ∧ 1 ≤ n ∧ n ≤ 255 then some (s.modDie (4 + io) fun x => { x with coldAge := n }) else none
  | .schedMode p m => onPart p (decide (m < 3)) fun x => { x with schedMode := m, schedOld := some (s.clock.cycle, x.modeAt s.clock.cycle) }
  | .hangLimit p n => onPart p (decide (1048576 ≤ n ∧ n ≤ 1099511627776)) fun x => { x with hangLimit := n }
  | .collGroup p i g => onPart p (decide (i < 64 ∧ g.members.length ≤ 1024) && g.members.all fun m => decide (m.2 < 8))
      fun x => { x with colls := tins (tdel x.colls i) i g }
  | .bindingRange p lo hi =>
    let bs := (s.part p).bindings.filter fun b => decide (b.1 ≠ lo)
    onPart p (decide (hi ≤ lo) || decide (bs.length < 4 ∧ lo % 65536 = 0 ∧ hi % 65536 = 0 ∧ hi - lo ≤ 1073741824))
      fun x => { x with bindings := if hi ≤ lo then bs else bs ++ [(lo, hi)] }
  | .classWindow n t => if 2 ≤ n ∧ n ≤ 255 ∧ 84000000000 ≤ t ∧ t ≤ 3628800000000000 then
      some (s.modRoot fun r => { r with clsN := n, clsT := t }) else none
  | .rollInterval t => if 1400000000 ≤ t ∧ t ≤ 120960000000000 then some (s.modRoot fun r => { r with rollInterval := t }) else none
  | .recordNotify q a => match q with
    | .part p => onPart p true fun x => { x with queue := { x.queue with notify := a } }
    | .device => some (s.modRoot fun r => { r with queue := { r.queue with notify := a } })
  | .view p i v => if p < 64 ∧ i < 32 then s.setView p i v else none
  | .viewClear p i => if p < 64 ∧ i < 32 then
      some (s.rebase p (((s.part p).views.find? fun e => decide (e.1 = i)).toList)) else none
  | .countStop g n => some (s.modGroup g fun x => { x with stopAt := n })
  | .replayArea p base size interval =>
    onPart p (decide (interval = 0) || decide (1400000 ≤ interval ∧ interval ≤ 14000000000)) fun x => { x with
      replay := if interval = 0 then none
        else some { base := base, size := size, interval := interval, nextAt := s.clock.cycle, asked := false, ckpt := none, log := [] } }
  | .tileEntry d c m v => if d < 4 ∧ c < 48 ∧ m < 64 then some (s.setTile { die := d, core := c } m v) else none
  | .frameColdClear f => (s.frameEntry (65536 * f)).map fun a => s.devWriteN a 8 (putBits (s.dev64 a) 40 1 0)
  | .hostAttach agent v => if v < 64 then some { s with
      vfs := tput Vf.unset (s.vfs.map fun e => (e.1, { e.2 with agents := e.2.agents.filter fun a => decide (a ≠ agent) })) v
        { s.vf v with agents := ((s.vf v).agents.filter fun a => decide (a ≠ agent)) ++ [agent] } } else none
  | .codeObject p base descs => onPart p (decide (base % 65536 = 0)) fun x => { x with
      codes := x.codes.filter (fun e => decide (e.1 ∉ descs)) ++ descs.map fun d => (d, base) }

/-- SUPERVISOR_REGISTER_WRITE: a value out of range is refused. -/
def execSupervisorRegisterWrite (x : Setting) (s : State) : Out := .next ((s.set x).getD (s.refuseCmd 3))

end Sys2Proof.Machine
end

