-- ==== Sys2Proof/Machine/Links.lean ====
section
/-! DEFINITION. The fabric ports (R316 to R320): packets, acknowledgement and replay, port states, key rollover of ports and
die-to-die links (R319, R339), the domain table (R359) and route tags (R308). What the payload of a request holds is the
model's own (log entry 19). -/

namespace Sys2Proof.Machine
open Host

/-! ## Sending the accesses of R188 -/

def atomOps : List AtomOp := [.ld, .xchg, .cas, .add, .smin, .smax, .nmin, .nmax, .and, .or, .xor, .fadd]
def AtomOp.code (o : AtomOp) : Nat := (atomOps.findIdx? fun x => decide (x = o)).getD 0


/-- The data of consecutive pieces. -/
def pieceData : List (Nat × Nat) → List Byte → List (Nat × List Nat)
  | [], _ => []
  | p :: r, d => (p.1 % remoteBase, (d.take p.2).map BitVec.toNat) :: pieceData r (d.drop p.2)

/-- The packets of a remote access: type, address and payload. -/
def Op.packets (o : Op) : List (PktType × Nat × List Nat) :=
  match o.space with
  | .mem ps =>
    match o.kind with
    | .store => (pieceData ps o.data).map fun x => (.write, x.1, x.2)
    | .atomic op dbl _ sv cv => [(.atomic, (ps.headD (0, 0)).1 % remoteBase,
        [AtomOp.code op, if dbl then 1 else 0, if o.dst.isSome then 1 else 0] ++ bytesLE 8 sv ++ bytesLE 8 cv)]
    | .load _ _ | .loadFrag =>
      let ws := wordsOf16 (pieceBytes ps)
      [(.readReq, 16 * ws.headD 0 % remoteBase, ws.flatMap fun w => bytesLE 8 (16 * w % remoteBase))]
    | _ => []
  | _ => []

/-- The device that an access goes to. -/
def Op.dev (o : Op) : Nat := remoteDev ((Space.keys o.space).headD 0)

/-- Hands the packets of a remote access to its port. -/
def State.sendOp (o : Op) (s : State) : State :=
  match s.portTo o.dev with
  | none => s
  | some p =>
    let r := o.packets.foldl (fun (acc : State × List (Nat × Nat)) k =>
      (acc.1.send p o.dev k.1 o.reqtag o.tenant k.2.1 k.2.2, acc.2 ++ [(p, (acc.1.port p).sendSeq)])) (s, [])
    r.1.modOp o.id fun x => { x with sent := true, marks := r.2 }

/-! ## Receiving (R317, R319) -/

/-- The first packets of a list that fit into a number of flits. -/
def inWindow : Nat → List Packet → List Packet
  | _, [] => []
  | n, k :: r => if k.flits ≤ n then k :: inWindow (n - k.flits) r else []

/-- A port has a key, under which it has not sent 2^40 packets yet (R334, R336). -/
def Port.keyed (p : Port) : Bool := decide (p.tx.send ≠ 0) && decide (p.tx.count < 2 ^ 40)

/-- The packets that a port has sent and not seen acknowledged: at most 512 flits (R317). Later ones wait in the port, and so
does everything while it has no key. -/
def Port.onWire (p : Port) : List Packet := if p.keyed then inWindow 512 p.unacked else []

/-- Packets that have been sent and that an acknowledgement covers are no longer outstanding; where it covers one, the wait of
1 µs for the next begins (R317; log entry 26). -/
def Port.acked (now ack : Nat) (p : Port) : Port :=
  let left := p.onWire.filter fun k => !(decide ((ack + 65536 - k.seq) % 65536 < 32768))
  { p with unacked := left ++ p.unacked.drop p.onWire.length,
           sentAt := if left.length < p.onWire.length then now else p.sentAt }

/-- The receiver holds the key of a phase. -/
def Port.holdsKey (p : Port) (kph : Nat) : Bool := decide (p.rx.send ≠ 0) && (decide (kph = p.rx.send % 2) || p.rx.rolling)

/-- The key of a byte that a packet names, with what its translation sets: a physical address of this device, or a virtual
address of the function of its tenant, which the destination checks (R17, R188, R212). -/
def State.pktKey (tenant : Nat) (n : Need) (va : Nat) (s : State) : State × Option Nat :=
  if 2 ^ 58 ≤ va then (s, if va - 2 ^ 58 < Config.memBytes then some (va - 2 ^ 58) else none)
  else match s.vfByTenant tenant with
    | some v => s.hostTranslate v n va
    | none => (s, none)

/-- The addresses of the bytes that a request reads or writes. -/
def Packet.addrs (k : Packet) : List Nat :=
  match k.type with
  | .write => (List.range k.payload.length).map fun i => k.vaddr + i
  | .readReq => (List.range (k.payload.length / 8)).flatMap fun i =>
      (List.range 16).map fun j => numLE ((k.payload.drop (8 * i)).take 8) + j
  | .atomic => (List.range (if k.payload.getD 1 0 = 1 then 8 else 4)).map fun i => k.vaddr + i
  | _ => []

/-- Where the bytes of a packet lie, all or none. -/
def State.pktKeys (k : Packet) (s : State) : State × Option (List Nat) :=
  let n : Need := match k.type with | .readReq => .rd | _ => .wr
  (Packet.addrs k).foldl (fun (acc : State × Option (List Nat)) a => match acc.2 with
    | none => acc
    | some l =>
      let r := acc.1.pktKey k.tenant n a
      (r.1, r.2.map fun x => l ++ [x])) (s, some [])

/-- The receiver accepts the key marker: it schedules the retirement of the old key. -/
def KeyDir.mark (now : Nat) (k : KeyDir) : KeyDir :=
  if k.installed ∧ k.marker.isNone then { k with send := k.send + 1, marker := some now } else k

/-- The engine read that a response answers: its command, and the words that it asked for (R188). -/
def State.askedBy (s : State) (k : Packet) : Option (Cmd × List Nat) :=
  s.cmds.findSome? fun c => (c.asks.find? fun a => decide (a.1 = k.src) && decide (16 * a.2.headD 0 % remoteBase = k.vaddr)).map fun a => (c, a.2)

/-- The words that a command asked for have come. -/
def Cmd.take (ws : List Nat) (bs : List Nat) (c : Cmd) : Cmd :=
  { c with asks := c.asks.filter (fun a => decide (a.2 ≠ ws)),
           got := c.got ++ List.zip (ws.flatMap fun w => (List.range 16).map fun i => 16 * w + i) bs }

/-- The remote load or returning atomic that a response answers. -/
def State.answered (s : State) (k : Packet) : Option Op :=
  s.ops.find? fun o => o.sent && o.answer.isNone && o.dst.isSome && decide (o.dev = k.src) &&
    decide ((o.packets.head?.map fun x => x.2.1) = some k.vaddr)

/-- Writes bytes at the device point. -/
def State.pointWrites (ks : List Nat) (bs : List Byte) (s : State) : State :=
  (List.zip ks bs).foldl (fun st e => st.pointWrite e.1 e.2) s

/-- What an accepted packet does. One that fails the destination's tenant or address check, or that reaches a frame
that has been moved, does nothing, and its sender gets no answer (DESIGN CHOICE, log entry 65). -/
def State.pktDo (port : Nat) (k : Packet) (s0 : State) : State :=
  let respond (bs : List Nat) (st : State) : State := st.send port k.src .readResp k.reqtag k.tenant k.vaddr bs
  let r := s0.pktKeys k
  let s := r.1
  let keys := r.2.bind fun ks => if ks.any s.frameMoved then none else some ks
  match k.type, keys with
  | .write, some ks => s.pointWrites ks (k.payload.map (BitVec.ofNat 8))
  | .readReq, some ks => respond (ks.map fun a => (Memory.read s.mem a).toNat) s
  | .atomic, some ks =>
    let dbl := decide (k.payload.getD 1 0 = 1)
    let old := leNat (ks.map fun a => Memory.read s.mem a)
    let op := atomOps.getD (k.payload.getD 0 0) .ld
    let new := natLE ks.length (atomNew op dbl old (numLE ((k.payload.drop 3).take 8)) (numLE ((k.payload.drop 11).take 8)))
    let s1 := s.pointWrites ks new
    if k.payload.getD 2 0 = 1 then respond (bytesLE ks.length old) s1 else s1
  | .readResp, _ => match s.answered k with
    | some o => s.modOp o.id fun x => { x with answer := some (k.payload.map (BitVec.ofNat 8)), due := s.clock.cycle }
    | none => match s.askedBy k with
      | some a => s.modCmd a.1.id (Cmd.take a.2 k.payload)
      | none => s
  | .keyMarker, _ => s.modPort port fun p => { p with rx := p.rx.mark s.clock.cycle }
  | _, _ => s

/-- The packet can be served now: every die that it reaches is in Noon, and no frame that it writes is locked for another
agent than its sender (R18, R219). Until then it is not accepted, and its sender replays it (DESIGN CHOICE, log entry 66). -/
def State.pktServed (s : State) (port : Nat) (k : Packet) : Bool :=
  let ks := ((s.pktKeys k).2).getD []
  s.arriveOk (portDie port) (portDie port :: ks.map homeDie) &&
    (decide (k.type = .readReq) || ks.all fun a => !(s.lockedFor k.src a))

/-- PACKET_RECEIVE (R317, R319): a packet that fails its checks is dropped; an acknowledgement is taken; one in sequence is
accepted and acts; any other sequence number is discarded. -/
def execPacketReceive (port : Nat) (k : Packet) (s : State) : Out :=
  let p := s.port port
  .next (if ¬ p.st.up then s
    else if ¬ k.authOk ∨ ¬ p.holdsKey k.kph ∨ k.type = .reserved then s.modPort port fun x => { x with bad := x.bad + 1 }
    else
      let s1 := if k.ackv then s.modPort port (Port.acked s.clock.cycle k.ack) else s
      if k.type = .ackOnly ∨ k.seq ≠ p.recvSeq ∨ ¬ s.pktServed port k then s1
      else
        (s1.modPort port fun x => { x with
          recvSeq := (x.recvSeq + 1) % 65536, bad := 0, ackDue := some (x.ackDue.getD (s.clock.cycle + 350)) }).pktDo port k)

/-- The acknowledgement-only packet of a port (TYPE 4): it takes no place in the sequence. -/
def Port.ackPacket (p : Port) : Packet :=
  { dest := 0, src := Config.devid.toNat, seq := p.sendSeq, ack := (p.recvSeq + 65535) % 65536, ackv := true, kph := p.tx.send % 2,
    type := .ackOnly, reqtag := 0, authOk := true, flits := flitsOf 1, tenant := 0, vaddr := 0, payload := [0] }

/-- ACK_ONLY_SEND (R317): 250 ns after an acceptance without a packet in the reverse direction. -/
def execAckOnlySend (port : Nat) (s : State) : Out :=
  let p := s.port port
  .next (match p.ackDue with
    | some c => if p.st.up ∧ c ≤ s.clock.cycle then
        s.modPort port fun x => { x with ackDue := none, ackOut := some x.ackPacket, tx := { x.tx with count := x.tx.count + 1 } }
      else s
    | none => s)

/-! ## Replay and port states (R317, R318) -/

/-- The packets of a port as they are sent from now on: under its present key, with its present acknowledgement. -/
def Port.resent (p : Port) : List Packet :=
  p.unacked.map fun k => { k with kph := p.tx.send % 2, ack := (p.recvSeq + 65535) % 65536, ackv := true }

/-- The sender replays from the oldest unacknowledged packet; each packet sent again acknowledges too, and counts under its
key. -/
def State.replayPort (port : Nat) (s : State) : State :=
  if (s.port port).onWire.isEmpty then s
  else (s.modPort port fun x => { x with
    replays := x.replays + 1, sentAt := s.clock.cycle, ackDue := none, tx := { x.tx with count := x.tx.count + x.onWire.length },
    unacked := x.resent }).countEv 0x25 1023 1

/-- REPLAY_TIMEOUT (R317): 1 µs without an acknowledgement. -/
def execReplayTimeout (port : Nat) (s : State) : Out :=
  let p := s.port port
  .next (if p.st.up ∧ p.sentAt + 1400 ≤ s.clock.cycle then s.replayPort port else s)

def loLanes (m : Nat) : Nat := m % 256
def hiLanes (m : Nat) : Nat := m / 256 % 256

/-- PORT_LANE_FAILURE (R318): the lanes of a mask fail. -/
def execPortLaneFailure (port lanes : Nat) (s : State) : Out :=
  let now := s.clock.cycle
  let f := Nat.lor (s.port port).failed lanes
  let after (st : PortState) : PortState :=
    match st with
    | .up16 =>
      if loLanes lanes ≠ 0 ∧ hiLanes lanes ≠ 0 then .retrain 16 now
      else if loLanes lanes ≠ 0 then .degrading 1 now
      else if hiLanes lanes ≠ 0 then .degrading 0 now else st
    | .degrading h _ => if (if h = 0 then loLanes lanes else hiLanes lanes) ≠ 0 then .retrain 16 now else st
    | .up8 h => if (if h = 0 then loLanes lanes else hiLanes lanes) ≠ 0 then .retrain 8 now else st
    | _ => st
  .next (s.modPort port fun p => { p with st := after p.st, failed := f })

/-- PORT_DEGRADE_COMPLETE (R318). -/
def execPortDegradeComplete (port : Nat) (s : State) : Out :=
  .next (match (s.port port).st with
    | .degrading h _ => (s.modPort port fun p => { p with st := .up8 h }).replayPort port
    | _ => s)

/-- PORT_RETRAIN_COMPLETE (R318): the lanes of a mask train; the port comes up at the widest width that they allow, and no
wider than before. -/
def execPortRetrainComplete (port trained : Nat) (s : State) : Out :=
  let s1 := s.modPort port fun p => { p with failed := 65535 - trained % 65536 }
  .next (match (s.port port).st with
    | .retrain w _ =>
      let st : Option PortState :=
        if loLanes trained = 255 ∧ hiLanes trained = 255 ∧ w = 16 then some .up16
        else if loLanes trained = 255 then some (.up8 0)
        else if hiLanes trained = 255 then some (.up8 1) else none
      match st with
      | some x => (s1.modPort port fun p => { p with st := x }).replayPort port
      | none => s1
    | _ => s1)

/-- PORT_RETRAIN_TIMEOUT (R318): 100 ms since entry; the waiting operations then fail (R320). -/
def execPortRetrainTimeout (port : Nat) (s : State) : Out :=
  .next (match (s.port port).st with
    | .retrain _ c => if c + 140000000 ≤ s.clock.cycle then s.modPort port fun p => { p with st := .down } else s
    | _ => s)

/-- PORT_WIDEN_COMMAND (R318): with all 16 lanes trained. -/
def execPortWidenCommand (port : Nat) (s : State) : Out :=
  .next (match (s.port port).st with
    | .up8 _ => if (s.port port).failed = 0 then s.modPort port fun p => { p with st := .up16 } else s
    | _ => s)

/-- PORT_RETRAIN_COMMAND (R318). -/
def execPortRetrainCommand (port : Nat) (s : State) : Out :=
  .next (match (s.port port).st with
    | .down => s.modPort port fun p => { p with st := .retrain 16 s.clock.cycle }
    | _ => s)

/-! ## Keys (R319, R336, R339) -/

/-- A link that the ROLL has still to roll. -/
def State.unrolled (s : State) (l : Nat) : Bool :=
  s.root.rolling && (s.link l).keyed && decide (l ∉ s.root.rolled) && decide ((s.link l).dirA.send = (s.link l).epoch)

/-- A link that the present turn rolls: one of its dies is in Dusk, rolling. -/
def State.rollsNow (s : State) (l : Nat) : Bool :=
  let e := linkEnds.getD l (0, 0)
  let turn (d : Nat) : Bool := decide ((s.die d).st = .dusk) && decide ((s.die d).cause = .rolling)
  s.unrolled l && (turn e.1 || turn e.2)

/-- The receiver installs the next key. -/
def KeyDir.install (k : KeyDir) : KeyDir := if k.rolling then k else { k with installed := true }

/-- KEY_INSTALL (R319, R336, R339). A port gets its first key when its partner's session is there. For a later one the event
comes twice: the port's receiver installs the key (step 1), its sender still under the old; and once the partner has
acknowledged its own installation the sender switches and sends the marker (step 2; log entry 45). A die-to-die link has both
directions here. -/
def execKeyInstall (l : LinkRef) (s : State) : Out :=
  .next (match l with
    | .port p =>
      let x := s.port p
      if x.tx.send = 0 then s.modPort p fun y => { y with
        tx := KeyDir.at_ 1, rx := KeyDir.at_ 1, unacked := y.unacked.map fun k => { k with kph := 1 }, sentAt := s.clock.cycle }
      else if x.tx.installed then
        (s.modPort p fun y => { y with tx := KeyDir.at_ (y.tx.send + 1), unacked := ({ y with tx := KeyDir.at_ (y.tx.send + 1) } : Port).resent }).send
          p 0 .keyMarker 0 0 0 [0]
      else if x.rx.rolling then s
      else s.modPort p fun y => { y with rx := y.rx.install, tx := { y.tx with installed := true } }
    | .die n =>
      if s.rollsNow n then
        s.modLink n fun x => { x with dirA := x.dirA.install, dirB := x.dirB.install }
      else s)

/-- KEY_MARKER_RECEIVE (R319, R339): the sender of each direction has switched. -/
def execKeyMarkerReceive (l : LinkRef) (s : State) : Out :=
  .next (match l with
    | .port p => s.modPort p fun x => { x with rx := x.rx.mark s.clock.cycle }
    | .die n => s.modLink n fun x => { x with dirA := x.dirA.mark s.clock.cycle, dirB := x.dirB.mark s.clock.cycle })

/-- The old key of a direction is retired a window after its marker. -/
def KeyDir.retire (now window : Nat) (k : KeyDir) : KeyDir :=
  match k.marker with
  | some c => if c + window ≤ now then { k with installed := false, marker := none } else k
  | none => k

/-- KEY_RETIRE (R319, R339): 1.2 µs after the marker on a port, 250 ns on a die-to-die link. -/
def execKeyRetire (l : LinkRef) (s : State) : Out :=
  let now := s.clock.cycle
  .next (match l with
    | .port p => s.modPort p fun x => { x with rx := x.rx.retire now 1680 }
    | .die n =>
      let x := s.link n
      let a := x.dirA.retire now 350
      let b := x.dirB.retire now 350
      let s1 := s.modLink n fun y => { y with dirA := a, dirB := b, epoch := if a.rolling || b.rolling then y.epoch else a.send }
      if (x.dirA.rolling || x.dirB.rolling) && !(a.rolling || b.rolling) then
        s1.modRoot fun r => { r with rolled := r.rolled ++ [n] } else s1)

/-! ## The domain table and route tags -/

/-- An admitted remote operation to a device is incomplete. -/
def State.remoteOpen (s : State) (dev : Nat) : Bool :=
  (s.ops.any fun o => Space.remote o.space && decide (o.dev = dev)) ||
    s.cmds.any fun c => decide (c.st ≠ .decide) && (match c.kind with
      | .cpyr _ _ d _ _ => decide (d.device = dev)
      | .cred b _ _ => decide (dev ∈ s.credOthers c b)
      | _ => false)

/-- DOMAIN_TABLE_WRITE (R359). -/
def execDomainTableWrite (dev : Nat) (e : Option DomainEntry) (s : State) : Out :=
  let held := s.domain.any fun x => decide (x.1 = dev)
  let ok : Bool := match e with
    | none => true
    | some x => decide (x.dev = dev) && decide (x.port < 18) && decide (dev ≠ Config.devid.toNat) &&
        (held || decide (s.domain.length < 1023))
  .next (if ¬ ok ∨ (held ∧ s.remoteOpen dev) then s.refuseCmd 4
    else { s with domain := (match e with | some x => tins (tdel s.domain dev) dev x | none => tdel s.domain dev) })

/-- An instance of a route tag is in progress in a partition. -/
def State.tagBusy (s : State) (p tag : Nat) : Bool :=
  (s.teams.any fun t => decide (s.teamPart t = p) && (t.tbar? tag).isSome) ||
    (s.threads.any fun t => decide (s.partOf t.id = p) && (match t.wait with
      | .tbarArrive x _ | .tbar x _ => decide (x = tag)
      | _ => false)) ||
    s.cmds.any fun c => decide (c.part = p) && (match c.kind with
      | .cred b _ _ => decide (c.st ≠ .decide) && decide (s.credTagOf c b = some tag)
      | _ => false)

/-- The key under which a written mode of a tag waits to take effect. -/
def tagPending (tag : Nat) : Nat := 8 + tag

/-- A written mode takes effect once no instance of the tag is in progress (R308). -/
def State.applyTag (p tag : Nat) (s : State) : State :=
  match tget 0 (s.part p).tags (tagPending tag) with
  | 0 => s
  | m + 1 => if s.tagBusy p tag then s
    else s.modPart p fun x => { x with tags := tput 0 (tdel x.tags (tagPending tag)) tag m }

/-- ROUTE_TAG_MODE_WRITE (R308). -/
def execRouteTagModeWrite (p tag mode : Nat) (s : State) : Out :=
  .next ((s.modPart p fun x => { x with tags := tput 0 x.tags (tagPending tag) (mode + 1) }).applyTag p tag)

end Sys2Proof.Machine
end

