-- ==== Sys2Proof/Machine/RootDies.lean ====
section
/-! DEFINITION. The package root and the dies (R333 to R339, R357): power, attestation, die states, link keys, ROLL, RESET,
QUARANTINE and ATTEST. -/

namespace Sys2Proof.Machine
open Host

/-! ## Records of dies (R342, R345) -/

/-- A die record (KIND 3): the event, and what AUX0 names. -/
def State.dieRecord (d ev aux : Nat) (s : State) : State :=
  s.waitRecord d (deviceRecord (s.die d).st d 0 0 0 { cause := 0, kind := 3, reason := ev, info := ev, aux0 := aux })

/-! ## Power (R333, R337, R357) -/

/-- Nothing of the package survives but the agenda and the clock; every key epoch starts again. -/
def State.unpowered (power : Bool) (s : State) : State :=
  let now := s.clock.cycle
  { State.reset with
    agenda := s.agenda, clock := s.clock,
    dies := (List.range 6).foldl (fun m d => tput Die.reset m d { Die.reset with since := now, scrubStart := now }) [],
    root := { Root.reset with power := power, lastRoll := now, poweredAt := now } }

/-- POWER_ON (R337). -/
def execPowerOn (s : State) : Out := .next (if s.root.power then s else s.unpowered true)

/-- PACKAGE_POWER_OFF (R337). -/
def execPackagePowerOff (s : State) : Out := .next (s.unpowered false)

/-- A junction has reached 110 °C. -/
def State.tooHot (s : State) : Bool := s.dies.any fun d => match d.2.temp with
  | some t => decide (110000 ≤ t)
  | none => false

/-- THERMAL_POWER_REMOVAL (R357). -/
def execThermalPowerRemoval (s : State) : Out := .next (if s.tooHot then s.unpowered false else s)

/-! ## Attestation and link keys (R334 to R337) -/

/-- A link is keyed at its next epoch. -/
def Link.key (x : Link) : Link :=
  { x with keyed := true, epoch := x.epoch + 1, dirA := KeyDir.at_ (x.epoch + 1), dirB := KeyDir.at_ (x.epoch + 1) }

/-- The other end of a link. -/
def linkOther (l d : Nat) : Nat := let e := linkEnds.getD l (0, 0); if e.1 = d then e.2 else e.1

/-- Keys the links of a die whose other end is attested. -/
def State.keyLinks (d : Nat) (s : State) : State :=
  (dieLinks d).foldl (fun st l =>
    let o := st.die (linkOther l d)
    if o.attested ∧ o.st ≠ .dawn ∧ o.st ≠ .midnight ∧ ¬ (st.link l).keyed then st.modLink l Link.key else st) s

/-- An attested die in Dawn goes to Noon: IO0 by itself, another once its link to IO0 can be keyed. -/
def State.promote (d : Nat) (s : State) : State :=
  let x := s.die d
  let io0 := s.die 4
  if x.st = .dawn ∧ x.attested ∧ (d = 4 ∨ (io0.attested ∧ (io0.st = .noon ∨ io0.st = .dusk))) then
    let s1 := s.modDie d fun y => { y with st := .noon, cause := .none, since := s.clock.cycle }
    (s1.keyLinks d).dieRecord d 1 0
  else s

/-- The link keys of a die are destroyed at both ends. A link that is down stays so until it recovers (R337). -/
def State.unkey (d : Nat) (s : State) : State :=
  (dieLinks d).foldl (fun st l => st.modLink l fun x =>
    { x with keyed := false, dirA := { x.dirA with installed := false, marker := none },
             dirB := { x.dirB with installed := false, marker := none } }) s

/-! ## Root commands, one at a time (R338) -/

/-- The codes of the commands that take more than one step. -/
def rootRoll : Nat := 1
def rootReset (d : Nat) : Nat := 16 + d
def rootAttest (d : Nat) : Nat := 32 + d

/-- A compute die holds resident teams, or teams that are being saved. -/
def State.dieHolds (s : State) (d : Nat) : Bool := s.teams.any fun t => decide (t.core.die = d) && !t.saved

/-- Chains of IO1's front end that are enabled. -/
def State.io1Enabled (s : State) : Bool := s.chains.any fun c => decide (64 ≤ c.1 ∧ c.1 < 128) && c.2.enable

/-- RESET and QUARANTINE are refused for a die. -/
def State.dieRefused (s : State) (d : Nat) (chains : Bool) : Bool :=
  decide (d = 4) || (decide (d < 4) && s.dieHolds d) || (chains && decide (d = 5) && s.io1Enabled)

/-- What a die's cores and its L2 hold is present at the device point, as their evictions would make it (log entry 20). -/
def State.flushDie (d : Nat) (s : State) : State :=
  let s1 := (s.cores.filter fun c => decide (c.1 / 48 = d)).foldl (fun st c =>
    st.publish { die := d, core := c.1 % 48 } .device fun _ => true) s
  s1.pushL2 d fun _ => true

/-- Hardware reset: the die is in Dawn with nothing in its cores and caches; waiting records, settings, the classification
table and the map of spare rows stay. -/
def State.resetDie (d : Nat) (s : State) : State :=
  let s1 := s.flushDie d
  ({ s1 with
      cores := s1.cores.filterMap (fun (c : Nat × Core) => if c.1 / 48 ≠ d then some c
        else if c.2.ovBase = 0 ∧ c.2.ovSize = Core.reset.ovSize then none
        else some (c.1, { Core.reset with ovBase := c.2.ovBase, ovSize := c.2.ovSize })),
      quads := s1.quads.filter fun q => decide (q.1 / 192 ≠ d) }).modDie d fun x =>
    { x with st := .dawn, cause := .none, since := s.clock.cycle, attested := false, lastAttest := none,
             resets := x.resets + 1, l2 := [], cached := [] }

def State.startRoll (s : State) : State :=
  s.modRoot fun r => { r with rolling := true, rollOrder := [0, 1, 2, 3, 5, 4], rolled := [], busy := some rootRoll, lastRoll := s.clock.cycle }

def State.startReset (d : Nat) (s : State) : State :=
  if s.dieRefused d true then s.refuseCmd 5
  else match (s.die d).st with
    | .noon | .dusk => (s.modDie d fun x => { x with st := .dusk, cause := .draining, since := s.clock.cycle }).modRoot
        fun r => { r with busy := some (rootReset d) }
    | .midnight => s.resetDie d
    | .dawn => s.modDie d fun x => { x with lastAttest := none }

def State.startQuarantine (d : Nat) (s : State) : State :=
  if s.dieRefused d false then s.refuseCmd 6
  else if (s.die d).st = .midnight then s
  else ((s.flushDie d).unkey d).modDie d fun x =>
    { x with st := .midnight, cause := .none, since := s.clock.cycle, attested := false, lastAttest := none, l2 := [] }

/-- A measurement block of a die (R335); block 3 holds the map of spare rows as RETIRE has left it (R347). -/
def Die.block (d b : Nat) (x : Die) : Nat :=
  if b = 6 then x.resets
  else if b = 3 then (Config.fuseDigest d (x.spares.map fun e => (e.1.storage, e.1.row, e.2))).toNat
  else (Config.measurement d b).toNat

/-- The measurement blocks are reported; the root waits for the result of the challenge (ATTESTATION_RESULT). -/
def State.startAttest (d : Nat) (s : State) : State :=
  (([1, 2, 3, 4, 5, 6].foldl (fun x b => x.report (256 + 8 * d + b) ((s.die d).block d b)) s).modDie d fun x =>
    { x with lastAttest := none }).modRoot fun r => { r with busy := some (rootAttest d) }

/-- What a root command does at once. -/
def State.rootStart (c : RootCmd) (s : State) : State :=
  match c with
  | .roll => s.startRoll
  | .reset d => s.startReset d
  | .quarantine d => s.startQuarantine d
  | .attest d => s.startAttest d

/-- The root takes a command, or the command waits for another. -/
def State.rootTakes (c : RootCmd) (s : State) : State :=
  if s.root.busy.isSome then s.modRoot fun r => { r with deferred := r.deferred ++ [c] } else s.rootStart c

/-- The root has finished a command: those that waited are taken up in order. -/
def State.rootDone (s : State) : State :=
  s.root.deferred.foldl (fun st c => st.rootTakes c) (s.modRoot fun r => { r with busy := none, deferred := [] })

/-- The result of an ATTEST is reported, and the root is free (R338). -/
def State.attestDone (d fail : Nat) (s : State) : State :=
  if s.root.busy = some (rootAttest d) then (s.report (512 + d) fail).rootDone else s

/-- ATTESTATION_RESULT (R335, R337, R338): `fail` is the failing check, 0 when the die passes. After a failure the root retries
only on ATTEST or RESET; a die that is not in Dawn keeps its state. -/
def execAttestationResult (d fail : Nat) (s : State) : Out :=
  let x := s.die d
  .next (if ¬ s.root.power then s
    else if x.st ≠ .dawn then (s.modDie d fun y => { y with lastAttest := some fail }).attestDone d fail
    else if (match x.lastAttest with | some f => decide (f ≠ 0) | none => false) then s
    else if fail = 0 then
      (((s.modDie d fun y => { y with lastAttest := some 0, attested := true }).promote 4) |>
        [0, 1, 2, 3, 5].foldl (fun st e => st.promote e)).attestDone d fail
    else ((s.modDie d fun y => { y with lastAttest := some fail, attested := false }).dieRecord d 0 fail).attestDone d fail)

/-- RESET (R337, R338). -/
def execReset (d : Nat) (s : State) : Out := .next (s.rootTakes (.reset d))

/-- QUARANTINE (R337, R338). -/
def execQuarantine (d : Nat) (s : State) : Out := .next (s.rootTakes (.quarantine d))

/-- ATTEST (R335, R338): ATTESTATION_RESULT says how a die in Dawn comes out. -/
def execAttest (d : Nat) (s : State) : Out := .next (s.rootTakes (.attest d))

/-- The dies through which an access that has issued goes: to the homes of its bytes, or to the port of another device. -/
def State.opDies (s : State) (o : Op) : List Nat :=
  (Space.keys o.space).eraseDups.flatMap fun k =>
    if isRemote k then ((s.portTo (remoteDev k)).map fun p => route o.core.die (portDie p)).getD [] else route o.core.die (homeDie k)

/-- The dies of a draining entry's accesses. -/
def State.drainDies (s : State) (c : Cmd) : List Nat :=
  match c.epi with
  | none => []
  | some e => (((e.out :: if e.ben then [e.bias] else []).filterMap fun k => (s.hostWalk (s.vfOf c.th) .rd k.base).map homeDie)).flatMap
      fun h => route c.core.die h

/-- An access in flight has a route through the die, or a command that is not stalled moves bytes over it. -/
def State.dieBusy (s : State) (d : Nat) : Bool :=
  (s.ops.any fun o => o.stall.isNone && o.failed.isNone && decide (d ∈ s.opDies o)) ||
    s.cmds.any fun c => c.stalls.isEmpty && (match c.st with
      | .running => !c.isMatrix && decide (d ∈ s.copyDies c)
      | .draining => decide (d ∈ s.drainDies c)
      | _ => false)

/-- DRAIN_COMPLETE (R337): the drain is complete, or 20 µs have passed. -/
def execDrainComplete (d : Nat) (s : State) : Out :=
  let x := s.die d
  .next (if x.st = .dusk ∧ x.cause = .draining ∧ (x.since + 28000 ≤ s.clock.cycle ∨ ¬ s.dieBusy d) then
      ((s.unkey d).resetDie d).rootDone
    else s)

/-! ## ROLL (R338, R339) -/

/-- ROLL. -/
def execRoll (s : State) : Out := .next (s.rootTakes .roll)

/-- PERIODIC_ROLL: at the interval of the supervisor's setting. -/
def execPeriodicRoll (s : State) : Out :=
  .next (if s.root.lastRoll + s.root.rollInterval ≤ s.clock.cycle ∧ s.root.busy.isNone ∧ s.root.power then s.startRoll else s)

/-- A die is in Dusk for a link fault. -/
def State.linkDusk (s : State) (d : Nat) : Bool := decide ((s.die d).st = .dusk) && decide ((s.die d).cause = .link)

/-- The next die of the order is done with, or its turn is deferred to the end. -/
def State.nextTurn (defer : Bool) (s : State) : State :=
  let o := s.root.rollOrder
  let r := o.drop 1 ++ (if defer then o.take 1 else [])
  s.modRoot fun x => { x with rollOrder := r }

/-- The ROLL ends with the last turn, when every direction has retired its old key. -/
def State.endRoll (s : State) : State :=
  if s.root.rolling ∧ s.root.rollOrder.isEmpty ∧ s.links.all (fun l => !(l.2.dirA.rolling || l.2.dirB.rolling)) then
    (s.modRoot fun r => { r with rolling := false, rolled := [] }).rootDone
  else s

/-- Another die of the order is still to take its turn, and no link fault holds it. -/
def State.othersRoll (s : State) (d : Nat) : Bool := s.root.rollOrder.any fun e => decide (e ≠ d) && !(s.linkDusk e)

/-- ROLL_TURN (R339): a die that has an unrolled link enters Dusk, rolling; one that has none, or no keys, takes no turn; one
that a link fault holds waits for the end of the order, and there for the 30 µs in which R338 completes a ROLL (log entry 46). -/
def execRollTurn (d : Nat) (s : State) : Out :=
  .next (if ¬ s.root.rolling then s
    else if s.root.rollOrder.head? ≠ some d then s.endRoll
    else if (s.die d).st = .dusk ∧ (s.die d).cause = .rolling then s
    else if ¬ (dieLinks d).any s.unrolled then (s.nextTurn false).endRoll
    else if (s.die d).st = .noon then s.modDie d fun x => { x with st := .dusk, cause := .rolling, since := s.clock.cycle }
    else if ¬ s.linkDusk d then (s.nextTurn false).endRoll
    else if s.othersRoll d then s.nextTurn true
    else if s.root.lastRoll + 42000 ≤ s.clock.cycle then (s.nextTurn false).endRoll
    else s)

/-- A direction sends under its new epoch, once it has the key (R339). -/
def KeyDir.switched (k : KeyDir) : Bool := !(k.installed && k.marker.isNone)

/-- ROLL_TURN_COMPLETE (R337): every link of the die sends under its new epoch. -/
def execRollTurnComplete (d : Nat) (s : State) : Out :=
  let x := s.die d
  .next (if x.st = .dusk ∧ x.cause = .rolling ∧ !((dieLinks d).any s.unrolled) ∧
      (dieLinks d).all (fun l => (s.link l).dirA.switched && (s.link l).dirB.switched) then
      ((s.modDie d fun y => { y with st := .noon, cause := .none, since := s.clock.cycle }).nextTurn false).endRoll
    else s)

/-! ## Link faults (R337) -/

/-- AUX0 of a record of a link: its two end dies. -/
def linkAux (l : Nat) : Nat := let e := linkEnds.getD l (0, 0); 16 * e.1 + e.2

/-- DIE_LINK_FAULT: both end dies that are in Noon enter Dusk. -/
def execDieLinkFault (l : Nat) (s : State) : Out :=
  let e := linkEnds.getD l (0, 0)
  let dusk (d : Nat) (st : State) : State := if (st.die d).st = .noon then
    st.modDie d fun x => { x with st := .dusk, cause := .link, since := s.clock.cycle } else st
  .next (if ¬ (s.link l).keyed ∨ (s.link l).down then s
    else (dusk e.2 (dusk e.1 (s.modLink l fun x => { x with down := true }))).dieRecord e.1 2 (linkAux l))

/-- A die in Dusk for a link fault, none of whose links is down, returns to Noon. -/
def State.linkNoon (d : Nat) (s : State) : State :=
  if s.linkDusk d ∧ (dieLinks d).all (fun l => !(s.link l).down) then
    s.modDie d fun x => { x with st := .noon, cause := .none, since := s.clock.cycle }
  else s

/-- DIE_LINK_RECOVERED. -/
def execDieLinkRecovered (l : Nat) (s : State) : Out :=
  let e := linkEnds.getD l (0, 0)
  .next (if (s.link l).down then
      (((s.modLink l fun x => { x with down := false }).linkNoon e.1).linkNoon e.2).dieRecord e.1 3 (linkAux l)
    else s)

end Sys2Proof.Machine
end

