-- ==== Sys2Proof/Machine/Reliability.lean ====
section
/-! DEFINITION. Reliability, record queues and the host (R342 to R349, R356, R357). -/

namespace Sys2Proof.Machine
open Host

/-! ## Record queues (R343) -/

def State.queue (s : State) : QueueRef → RecQueue
  | .part p => (s.part p).queue
  | .device => s.root.queue

def State.setQueue (q : QueueRef) (x : RecQueue) (s : State) : State :=
  match q with
  | .part p => s.modPart p fun y => { y with queue := x }
  | .device => s.modRoot fun r => { r with queue := x }

/-- The queue is set and has room. -/
def RecQueue.room (x : RecQueue) : Bool := decide (x.len ≠ 0) && decide (x.posted - x.taken < x.len)

/-- The first waiting record of a die whose queue has room, and the others. -/
def State.takeRecord (s : State) : List Record → Option (Record × List Record)
  | [] => none
  | r :: rest => if (s.queue r.q).room then some (r, rest) else (State.takeRecord s rest).map fun x => (x.1, r :: x.2)

/-- The bytes of a record as it is written: PHASE is the lap's parity. -/
def recordBytes (r : Record) (lap : Nat) : List Byte :=
  (r.words.zipIdx.map fun e => if e.2 = 15 then e.1 % 2 ^ 31 + lap % 2 * 2 ^ 31 else e.1).flatMap (natLE 4)

/-- A reliability record while the die's store of waiting records is full is held back (R343). -/
def State.relPost (d : Nat) (r : Record) (s : State) : State :=
  if s.storeFull d then s.modDie d fun x => { x with relHeld := x.relHeld ++ [r] } else s.waitRecord d r

/-- A place in the store of waiting records is free: the first record that was held back takes it. -/
def Die.takeHeld (x : Die) : Die :=
  match x.relHeld with
  | [] => x
  | r :: l => { x with waiting := x.waiting ++ [r], relHeld := l }

/-- FAULT_RECORD_POST (R343): the record at the device point, then POSTED, then the notification. The issuer of a held
command owes its park from now on (R273, R297). -/
def execFaultRecordPost (d : Nat) (s : State) : Out :=
  .next (match s.takeRecord (s.die d).waiting with
    | none => s
    | some (r, rest) =>
      let x := s.queue r.q
      let s1 := (s.devWrite (x.base + 64 * (x.posted % x.len)) (recordBytes r (x.posted / x.len))).modDie d fun y => Die.takeHeld { y with waiting := rest }
      let s2 := (s1.setQueue r.q { x with posted := x.posted + 1 }).modRoot fun y =>
        { y with hostOut := (x.notify, bytesLE 4 (x.posted + 1)) :: y.hostOut }
      match r.cmd with
      | some n => s2.oweRecord n
      | none => s2)

/-- RECORD_QUEUE_SET (R343): the base is 4 KiB aligned, the length a power of two from 64 to 2^20. -/
def execRecordQueueSet (q : QueueRef) (base len : Nat) (s : State) : Out :=
  .next (if base % 4096 = 0 ∧ (List.range 15).any (fun i => decide (len = 2 ^ (6 + i))) then
      s.setQueue q { (s.queue q) with base := base, len := len, posted := 0, taken := 0 }
    else s.refuseCmd 7)

/-- TAKEN_WRITE (R343): a write that lowers TAKEN or raises it above POSTED is ignored. -/
def execTakenWrite (q : QueueRef) (n : Nat) (s : State) : Out :=
  let x := s.queue q
  .next (if x.taken ≤ n ∧ n ≤ x.posted then s.setQueue q { x with taken := n } else s)

/-! ## Classification (R344, R345) -/

/-- A reliability record (KIND 2). -/
def State.relRecord (d : Nat) (l : Location) (cls n tag : Nat) (s : State) : State :=
  s.relPost d (deviceRecord (s.die d).st d 0 0 tag
    { cause := 0, kind := 2, info := l.storage % 256 + cls * 256 + Nat.min n 65535 * 65536, aux0 := l.row })

/-- The transient entry whose latest event is oldest. -/
def oldestEntry (l : List ClsEntry) : Option ClsEntry :=
  (l.filter fun e => !e.lasting).foldl (fun m e => match m with
    | none => some e
    | some x => if e.times.foldl Nat.max 0 < x.times.foldl Nat.max 0 then some e else m) none

/-- The table with a location's entry put. -/
def putEntry (e : ClsEntry) (l : List ClsEntry) : List ClsEntry := (l.filter fun x => decide (x.loc ≠ e.loc)) ++ [e]

/-- Room for a new location, none where every entry is lasting. -/
def roomFor (l : List ClsEntry) : Option (List ClsEntry) :=
  if l.length < 4096 then some l
  else (oldestEntry l).map fun o => l.filter fun x => decide (x.loc ≠ o.loc)

/-- Classifies an event at a location: its record, where one is due, and the table. A corrected event is classified by the
window alone, unless an uncorrectable event made the location lasting (log entry 70). -/
def State.classify (d : Nat) (l : Location) (tag : Nat) (hard : Bool) (s : State) : State :=
  let now := s.clock.cycle
  let tab := (s.die d).cls
  let old := tab.find? fun e => decide (e.loc = l)
  let times := ((old.map ClsEntry.times).getD []).filter (fun t => decide (now < t + s.root.clsT)) ++ (if hard then [] else [now])
  let was := (old.map ClsEntry.lasting).getD false
  let failed := hard || (old.map ClsEntry.hard).getD false
  let lasting := failed || decide (s.root.clsN ≤ times.length)
  match (if old.isSome then some tab else roomFor tab) with
  | none => s.relRecord d l 2 1 tag
  | some t =>
    let s1 := s.modDie d fun x => { x with cls := putEntry { loc := l, times := times, lasting := lasting, hard := failed } t }
    if hard ∨ old.isNone ∨ (lasting ∧ ¬ was) then s1.relRecord d l (if lasting then 1 else 0) times.length tag else s1

/-- The quadrant of a spare-row mismatch, as the event's location names it above the 16 bits of R342 (log entry 16). -/
def Location.quad (d : Nat) (l : Location) : QuadId := { die := d, core := l.row / 2 ^ 18, quad := l.row / 2 ^ 16 % 4 }

/-- A mismatch of the spare row with the array during a TMM (R276): MISM rises, and a record names the quadrant, the row ρ,
the column and the TMM's tag. A TMM whose products stand already has been counted in TMMS (R277). Without a TMM in the array there is nothing to compare. -/
def State.mismatch (d : Nat) (l : Location) (s : State) : State :=
  let q := Location.quad d l
  match s.cmds.find? fun c => c.isTmm && decide (c.st = .running) && decide (c.core = QuadId.cid q) && decide (q.quad ∈ c.arrays) with
  | none => s
  | some c =>
    let rho := ((s.quad q).tmms - c.moved) % 64
    ((s.modQuad q fun y => { y with mism := y.mism + 1 }).countEv 0x32 (QuadId.idx q) 1).relPost d
      (deviceRecord (s.die d).st d q.core q.quad c.reqtag
        { cause := 0, kind := 2, info := 8, aux0 := rho + 256 * (l.row / 256 % 64) })

/-- ECC_CORRECTED_EVENT (R276, R344, R345): no value changes. Storage 8 is a mismatch of the spare row. -/
def execEccCorrectedEvent (d : Nat) (loc : Location) (tag : Nat) (s : State) : Out :=
  .next (if loc.storage = 8 then s.mismatch d loc else (s.countEv 0x30 1023 1).classify d loc tag false)

/-- A line is poisoned in the L1 of a core: in its images, and in the written bytes of it that the core holds. -/
def Core.poisonLine (n : Nat) (x : Core) : Core :=
  { x with
    images := x.images.map fun i => if i.word / 8 = n then { i with poison := true } else i,
    poison := if x.writes.any fun w => decide (w.addr / 128 = n) && w.pub.isNone then
        (x.poison.filter fun m => decide (m ≠ n)) ++ [n] else x.poison }

/-- Poisons storage (R215, R344). -/
def State.poisonAt (x : PoisonAt) (s : State) : State :=
  match x with
  | .line a => s.poisonDev (a / 128)
  | .l2line d a => s.poisonL2 d (a / 128)
  | .l1line d c a => s.modCore { die := d, core := c } (Core.poisonLine (a / 128))
  | .reg t r => s.modThread t fun y => if r ∈ y.poisoned ∨ r = 0 then y else { y with poisoned := y.poisoned ++ [r] }
  | .tile d c t =>
    let core : CoreId := { die := d, core := c }
    s.setAccTile core (t / 12) (t % 12) { s.accTile core (t / 12) (t % 12) with poison := true }
  | .epi q i => if (s.epiAt q i).st = .free then s
      else s.setEpi q i { s.epiAt q i with image := { (s.epiAt q i).image with poison := true } }
  | .spad t off => s.modTeam t fun y => { y with spadPoison := off / 128 :: y.spadPoison.filter fun l => decide (l ≠ off / 128) }

/-- ECC_UNCORRECTABLE_EVENT (R344, R345). -/
def execEccUncorrectableEvent (d : Nat) (loc : Location) (at_ : PoisonAt) (tag : Nat) (s : State) : Out :=
  .next (((s.poisonAt at_).countEv 0x31 1023 1).classify d loc tag true)

/-- The root acknowledges a command of R347 once its effect stands (log entry 70): PURGE 1, RETIRE 2, CLEARPOISON 3, CLASSCLEAR 4. -/
def State.acknowledge (n : Nat) (s : State) : State := s.report 0x3E n

/-- CLASSCLEAR (R347). -/
def execClassclear (d : Nat) (loc : Location) (s : State) : Out :=
  .next ((s.modDie d fun x => { x with cls := x.cls.filter fun e => decide (e.loc ≠ loc) }).acknowledge 4)

/-- The bank of an HBM row, or the macro of an SRAM row, that shares spare rows (R342, R347). -/
def Location.group (l : Location) : Nat := if l.storage = 7 then l.row / 2 ^ 40 else l.row / 65536

/-- RETIRE (R347, R348): the row moves with its contents; a location with no spare left is refused. -/
def execRetire (d : Nat) (loc : Location) (s : State) : Out :=
  let used := ((s.die d).spares.filter fun e => decide (e.1.storage = loc.storage) && decide (Location.group e.1 = Location.group loc)).length
  .next (if used < Config.spareRows d loc.storage (Location.group loc) then
      (s.modDie d fun x => { x with spares := x.spares ++ [(loc, used)] }).acknowledge 2
    else s.refuseCmd 8)

/-- CLEARPOISON (R347): every line in a physical range, at every level. -/
def execClearpoison (base len : Nat) (s : State) : Out :=
  let out (l : Nat) : Bool := !(decide (base ≤ 128 * l) && decide (128 * l < base + len))
  .next (State.acknowledge 3 { s with
    poison := s.poison.filter out,
    dies := s.dies.map fun d => (d.1, { d.2 with
      l2 := d.2.l2.map fun l => { l with poison := l.poison && out l.line } }),
    cores := s.cores.map fun c => (c.1, { c.2 with
      poison := c.2.poison.filter out,
      images := c.2.images.map fun i => { i with poison := i.poison && out (i.word / 8) } }) })

/-! ## The scrubber (R346) -/

/-- The protected words of a die: HBM in 64 bytes, SRAM in 8. -/
def scrubTotal (d : Nat) : Nat := if d < 4 then (100663296 + 48 * 1572864 + 192 * 196608) / 8 else Config.memBytes / 128 + 33554432

/-- The scrubber's progress has fallen below the time that has passed of the 12 hours. -/
def State.scrubBehind (s : State) (d : Nat) : Bool :=
  decide ((s.die d).scrubPos * 60480000000000 < (s.clock.cycle - (s.die d).scrubStart) * scrubTotal d)

/-- The location of a protected word of a die, by its place in the pass: L2, core SRAM and accumulators, or HBM and the
memory-side cache (R342, R346). -/
def scrubLoc (d pos : Nat) : Location :=
  { storage := if d < 4 then (if 8 * pos < 100663296 then 4 else if 8 * pos < 100663296 + 48 * 1572864 then 1 else 2)
      else if pos < Config.memBytes / 128 then 7 else 5,
    row := Config.rowOf d pos }

/-- What the scrubber does about what it finds: a corrected event, or poison and an uncorrectable one (R345, R346). -/
def State.scrubFind (d : Nat) (x : ScrubFind) (s : State) : State :=
  let l := scrubLoc d (s.die d).scrubPos
  match x with
  | .clean => s
  | .corrected => (s.countEv 0x30 1023 1).classify d l 0 false
  | .uncorrectable p => ((s.poisonAt p).countEv 0x31 1023 1).classify d l 0 true

/-- SCRUB_WORD (R346): the next word of the pass. A correction leaves the value as it was written, and a demand write
that reached the word since stands; neither changes a value. A cycle in which the scrubber is behind, and takes precedence, is
counted once (R353). -/
def execScrubWord (d _addr : Nat) (found : ScrubFind) (_demand : Bool) (s : State) : Out :=
  let now := s.clock.cycle
  let s1 := if s.scrubBehind d ∧ (s.die d).scrubAt ≠ now + 1 then
      (s.countEv 0x40 1023 1).modDie d fun x => { x with scrubAt := now + 1 }
    else s
  .next ((s1.scrubFind d found).modDie d fun x => if scrubTotal d ≤ x.scrubPos + 1 then { x with scrubPos := 0, scrubStart := now }
    else { x with scrubPos := x.scrubPos + 1 })

/-! ## PURGE (R349) -/

/-- Accesses of a tag leave their counts and are gone. -/
def State.purgeOps (tag : Nat) (s : State) : State :=
  (s.ops.filter fun o => decide (o.reqtag = tag)).foldl (fun st o => st.endOp o) s

/-- Entries of a tag that are not yet placed. -/
def State.purgeEntries (tag : Nat) (s : State) : State :=
  let s1 := s.chains.foldl (fun st c =>
    State.readAll c.1 (c.2.tail - c.2.read + c.2.queue.length) st) s
  let kill (e : Entry) : Entry := if e.stage = .waiting ∧ enTag e.raw = tag then { e with stage := .completed 5 } else e
  { s1 with chains := s1.chains.map fun c => (c.1, { c.2 with entries := c.2.entries.map kill }) }

/-- PURGE (R349): all work that bears the tag is removed. -/
def execPurge (tag : Nat) (s : State) : Out :=
  let gs := (s.grids.filter fun g => decide (g.reqtag = tag)).map Grid.id
  let s1 := (s.purgeEntries tag).killThreads (s.threads.filter fun t => decide (t.id.grid ∈ gs))
  let s2 := ((s1.cmds.filter fun c => decide (c.reqtag = tag)).foldl State.purgeCmd s1).purgeOps tag
  let stop (g : Grid) : Grid := if g.id ∈ gs ∧ g.placed < g.nteams then { g with purged := true, killed := true } else g
  let keep (k : Packet) : Bool := decide (k.reqtag ≠ tag) || decide (k.type = .readResp)
  .next (State.acknowledge 1 { s2 with
    grids := s2.grids.map stop,
    ports := s2.ports.foldl (fun m p => tput Port.reset m p.1
      (Port.void ((p.2.unacked.filter fun k => !(keep k)).map Packet.seq) p.2)) s2.ports })

/-! ## The host (R356) -/

/-- The function that an agent is attached to. -/
def State.agentVf (s : State) (agent : Nat) : Option Nat := (s.vfs.find? fun v => decide (agent ∈ v.2.agents)).map Prod.fst

/-- The keys of consecutive bytes at a virtual address of a function, with what their translation sets (R212, R217). -/
def State.hostKeys (v : Nat) (n : Need) (a len : Nat) (s : State) : State × Option (List Nat) :=
  (List.range len).foldl (fun (acc : State × Option (List Nat)) i => match acc.2 with
    | none => acc
    | some l =>
      let r := acc.1.hostTranslate v n (a + i)
      (r.1, r.2.map fun k => l ++ [k])) (s, some [])

/-- An answer to a host, or a write to it. -/
def State.toHost (dest : Nat) (bs : List Nat) (s : State) : State := s.modRoot fun r => { r with hostOut := (dest, bs) :: r.hostOut }

/-- What a host access needs of its bytes, its address and its length. -/
def HostOp.span : HostOp → Need × Nat × Nat
  | .read a n => (.rd, a, n)
  | .write a bs => (.wr, a, bs.length)
  | .atomic a dbl _ _ _ => (.wr, a, if dbl then 8 else 4)

/-- A host access at the device point, on the bytes that its address names. A write is acknowledged once it is present there. -/
def State.hostDo (agent : Nat) (op : HostOp) (ks : List Nat) (s : State) : State :=
  match op with
  | .read _ _ => s.toHost agent (ks.map fun k => (Memory.read s.mem k).toNat)
  | .write _ bs => (s.pointWrites ks (bs.map (BitVec.ofNat 8))).toHost agent []
  | .atomic _ dbl o x c =>
    let old := leNat (ks.map fun k => Memory.read s.mem k)
    (s.pointWrites ks (natLE ks.length (atomNew o dbl old x c))).toHost agent (bytesLE (if dbl then 8 else 4) old)

/-- A host access that returns bytes: of a poisoned line it is refused (log entry 66). -/
def HostOp.reads : HostOp → Bool
  | .write _ _ => false
  | _ => true

/-- A host access as it is tried: some cycles where it waits, for that long at most. The die of its port is not known to
the model, and its bytes' homes alone are asked for their state (log entry 66). -/
def State.hostTry (agent : Nat) (op : HostOp) (s : State) : State × Option Nat :=
  let x := HostOp.span op
  let odd := (match op with | .atomic a _ _ _ _ => decide (a % x.2.2 ≠ 0) | _ => false)
  match s.agentVf agent with
  | none => (s.refuseCmd 9, none)
  | some v =>
    let r := s.hostKeys v x.1 x.2.1 x.2.2
    match (if odd then none else r.2) with
    | none => (r.1.refuseCmd 9, none)
    | some ks =>
      match r.1.gate (ks.map homeDie).eraseDups with
      | .dead _ => (r.1.refuseCmd 9, none)
      | .stall => (r.1, some 28000)
      | .go => if decide (x.1 = .wr) && ks.any fun k => r.1.lockedFor agent k then (r.1, some 140000)
          else if HostOp.reads op && ks.any fun k => decide (k / 128 ∈ r.1.poison) then (r.1.refuseCmd 9, none)
          else (r.1.hostDo agent op ks, none)

/-- A host access goes on, waits, or has waited too long and is refused (R19, R219). -/
def State.hostGo (agent : Nat) (op : HostOp) (since : Nat) (s : State) : State :=
  let r := s.hostTry agent op
  match r.2 with
  | none => r.1
  | some lim => if since + lim ≤ s.clock.cycle then r.1.refuseCmd 9
      else r.1.modRoot fun x => { x with hostWait := x.hostWait ++ [(agent, op, since)] }

/-- HOST_ACCESS (R356): translated by the function's root, performed at the device point; an access that does not translate,
or of an agent that is not attached, is refused. -/
def execHostAccess (agent : Nat) (op : HostOp) (s : State) : Out := .next (s.hostGo agent op s.clock.cycle)

/-- The host accesses that wait are tried again, in order. -/
def State.hostAll (s : State) : State :=
  s.root.hostWait.foldl (fun st e => st.hostGo e.1 e.2.1 e.2.2) (s.modRoot fun r => { r with hostWait := [] })

/-- JUNCTION_REPORT (R342, R357): a temperature in thousandths of a degree; a record above 100 °C. -/
def execJunctionReport (d temp : Nat) (s : State) : Out :=
  let s1 := s.modDie d fun x => { x with temp := some temp }
  .next (if 100000 < temp then s1.relRecord d { storage := 9, row := temp } 0 0 0 else s1)

end Sys2Proof.Machine
end

