-- ==== Sys2Proof/Machine/Dispatch.lean ====
section
/-! DEFINITION. One arm per instruction and event: its meaning, or its rejection by name. -/

namespace Sys2Proof.Machine
open Sys2Proof Host

/-- The meaning of each instruction and event. -/
def exec (i : Instr) (s : State) : Host.Outcome State Fault Refusal :=
  match i with
  | .nop => Sys2Proof.Machine.execNop s
  | .exit => Sys2Proof.Machine.execExit s
  | .trap c => Sys2Proof.Machine.execTrap c s
  | .bkpt => Sys2Proof.Machine.execBkpt s
  | .yield => Sys2Proof.Machine.execYield s
  | .rsys d n => Sys2Proof.Machine.execRsys d n s
  | .wsys n a => Sys2Proof.Machine.execWsys n a s
  | .sleep n => Sys2Proof.Machine.execSleep n s
  | .wait nl ns nc nt => Sys2Proof.Machine.execWait nl ns nc nt s
  | .wbase b => Sys2Proof.Machine.execWbase b s
  | .rjarm n => Sys2Proof.Machine.execRjarm n s
  | .rjwait n => Sys2Proof.Machine.execRjwait n s
  | .rjdrop l h => Sys2Proof.Machine.execRjdrop l h s
  | .rjrd d n => Sys2Proof.Machine.execRjrd d n s
  | .br g off => Sys2Proof.Machine.execBr g off s
  | .jal d off => Sys2Proof.Machine.execJal d off s
  | .jr g a l => Sys2Proof.Machine.execJr g a l s
  | .cmp cc ct ty q1 q2 a b => Sys2Proof.Machine.execCmp cc ct ty q1 q2 a b s
  | .fcmp cc ct ty q1 q2 a b => Sys2Proof.Machine.execFcmp cc ct ty q1 q2 a b s
  | .plog qd qa qb tt => Sys2Proof.Machine.execPlog qd qa qb tt s
  | .sel p d a b => Sys2Proof.Machine.execSel p d a b s
  | .add d a b => Sys2Proof.Machine.execAdd d a b s
  | .sub d a b => Sys2Proof.Machine.execSub d a b s
  | .and d a b => Sys2Proof.Machine.execAnd d a b s
  | .or d a b => Sys2Proof.Machine.execOr d a b s
  | .xor d a b => Sys2Proof.Machine.execXor d a b s
  | .andn d a b => Sys2Proof.Machine.execAndn d a b s
  | .orn d a b => Sys2Proof.Machine.execOrn d a b s
  | .xnor d a b => Sys2Proof.Machine.execXnor d a b s
  | .shl d a b => Sys2Proof.Machine.execShl d a b s
  | .shr d a b => Sys2Proof.Machine.execShr d a b s
  | .sra d a b => Sys2Proof.Machine.execSra d a b s
  | .rol d a b => Sys2Proof.Machine.execRol d a b s
  | .ror d a b => Sys2Proof.Machine.execRor d a b s
  | .min d a b => Sys2Proof.Machine.execMin d a b s
  | .max d a b => Sys2Proof.Machine.execMax d a b s
  | .minn d a b => Sys2Proof.Machine.execMinn d a b s
  | .mul d a b => Sys2Proof.Machine.execMul d a b s
  | .mulh d a b => Sys2Proof.Machine.execMulh d a b s
  | .mulhn d a b => Sys2Proof.Machine.execMulhn d a b s
  | .div d a b => Sys2Proof.Machine.execDiv d a b s
  | .divn d a b => Sys2Proof.Machine.execDivn d a b s
  | .rem d a b => Sys2Proof.Machine.execRem d a b s
  | .remn d a b => Sys2Proof.Machine.execRemn d a b s
  | .maxn d a b => Sys2Proof.Machine.execMaxn d a b s
  | .clz e d a => Sys2Proof.Machine.execClz e d a s
  | .ctz e d a => Sys2Proof.Machine.execCtz e d a s
  | .ffs e d a => Sys2Proof.Machine.execFfs e d a s
  | .popc e d a => Sys2Proof.Machine.execPopc e d a s
  | .brev e d a => Sys2Proof.Machine.execBrev e d a s
  | .abs e d a => Sys2Proof.Machine.execAbs e d a s
  | .sext e d a => Sys2Proof.Machine.execSext e d a s
  | .zext e d a => Sys2Proof.Machine.execZext e d a s
  | .add64 d a b => Sys2Proof.Machine.execAdd64 d a b s
  | .sub64 d a b => Sys2Proof.Machine.execSub64 d a b s
  | .and64 d a b => Sys2Proof.Machine.execAnd64 d a b s
  | .or64 d a b => Sys2Proof.Machine.execOr64 d a b s
  | .xor64 d a b => Sys2Proof.Machine.execXor64 d a b s
  | .andn64 d a b => Sys2Proof.Machine.execAndn64 d a b s
  | .orn64 d a b => Sys2Proof.Machine.execOrn64 d a b s
  | .xnor64 d a b => Sys2Proof.Machine.execXnor64 d a b s
  | .shl64 d a b => Sys2Proof.Machine.execShl64 d a b s
  | .shr64 d a b => Sys2Proof.Machine.execShr64 d a b s
  | .sra64 d a b => Sys2Proof.Machine.execSra64 d a b s
  | .rol64 d a b => Sys2Proof.Machine.execRol64 d a b s
  | .ror64 d a b => Sys2Proof.Machine.execRor64 d a b s
  | .min64 d a b => Sys2Proof.Machine.execMin64 d a b s
  | .max64 d a b => Sys2Proof.Machine.execMax64 d a b s
  | .minn64 d a b => Sys2Proof.Machine.execMinn64 d a b s
  | .mul64 d a b => Sys2Proof.Machine.execMul64 d a b s
  | .mulh64 d a b => Sys2Proof.Machine.execMulh64 d a b s
  | .mulhn64 d a b => Sys2Proof.Machine.execMulhn64 d a b s
  | .div64 d a b => Sys2Proof.Machine.execDiv64 d a b s
  | .divn64 d a b => Sys2Proof.Machine.execDivn64 d a b s
  | .rem64 d a b => Sys2Proof.Machine.execRem64 d a b s
  | .remn64 d a b => Sys2Proof.Machine.execRemn64 d a b s
  | .maxn64 d a b => Sys2Proof.Machine.execMaxn64 d a b s
  | .packAdd ty sat d a b => Sys2Proof.Machine.execPackAdd ty sat d a b s
  | .packSub ty sat d a b => Sys2Proof.Machine.execPackSub ty sat d a b s
  | .packMin ty sat d a b => Sys2Proof.Machine.execPackMin ty sat d a b s
  | .packMax ty sat d a b => Sys2Proof.Machine.execPackMax ty sat d a b s
  | .avg ty sat d a b => Sys2Proof.Machine.execAvg ty sat d a b s
  | .absd ty sat d a b => Sys2Proof.Machine.execAbsd ty sat d a b s
  | .packMul ty sat d a b => Sys2Proof.Machine.execPackMul ty sat d a b s
  | .packShl ty sat d a b => Sys2Proof.Machine.execPackShl ty sat d a b s
  | .mad d a b c => Sys2Proof.Machine.execMad d a b c s
  | .madh d a b c => Sys2Proof.Machine.execMadh d a b c s
  | .madhn d a b c => Sys2Proof.Machine.execMadhn d a b c s
  | .mad64 sgn d a b c => Sys2Proof.Machine.execMad64 sgn d a b c s
  | .dp4 sgn bs sat d a b c => Sys2Proof.Machine.execDp4 sgn bs sat d a b c s
  | .dp2 sgn bs sat d a b c => Sys2Proof.Machine.execDp2 sgn bs sat d a b c s
  | .sad ty sat d a b c => Sys2Proof.Machine.execSad ty sat d a b c s
  | .bfx d a pos len => Sys2Proof.Machine.execBfx d a pos len s
  | .bfxn d a pos len => Sys2Proof.Machine.execBfxn d a pos len s
  | .bfi d a b pos len => Sys2Proof.Machine.execBfi d a b pos len s
  | .bgath d a b sel => Sys2Proof.Machine.execBgath d a b sel s
  | .span rot d a b n => Sys2Proof.Machine.execSpan rot d a b n s
  | .lut3 d a b c tt => Sys2Proof.Machine.execLut3 d a b c tt s
  | .addi d a im => Sys2Proof.Machine.execAddi d a im s
  | .addiImm32 d a v => Sys2Proof.Machine.execAddiImm32 d a v s
  | .andi d a im => Sys2Proof.Machine.execAndi d a im s
  | .andiImm32 d a v => Sys2Proof.Machine.execAndiImm32 d a v s
  | .ori d a im => Sys2Proof.Machine.execOri d a im s
  | .oriImm32 d a v => Sys2Proof.Machine.execOriImm32 d a v s
  | .xori d a im => Sys2Proof.Machine.execXori d a im s
  | .xoriImm32 d a v => Sys2Proof.Machine.execXoriImm32 d a v s
  | .shli d a n => Sys2Proof.Machine.execShli d a n s
  | .shri d a n => Sys2Proof.Machine.execShri d a n s
  | .srai d a n => Sys2Proof.Machine.execSrai d a n s
  | .muli d a im => Sys2Proof.Machine.execMuli d a im s
  | .muliImm32 d a v => Sys2Proof.Machine.execMuliImm32 d a v s
  | .li d im => Sys2Proof.Machine.execLi d im s
  | .liImm32 d v => Sys2Proof.Machine.execLiImm32 d v s
  | .li64 d v => Sys2Proof.Machine.execLi64 d v s
  | .liu d v => Sys2Proof.Machine.execLiu d v s
  | .addl d a im => Sys2Proof.Machine.execAddl d a im s
  | .fadd d a b => Sys2Proof.Machine.execFadd d a b s
  | .fsub d a b => Sys2Proof.Machine.execFsub d a b s
  | .fmul d a b => Sys2Proof.Machine.execFmul d a b s
  | .fmin d a b => Sys2Proof.Machine.execFmin d a b s
  | .fmax d a b => Sys2Proof.Machine.execFmax d a b s
  | .fcpys d a b => Sys2Proof.Machine.execFcpys d a b s
  | .fabs d a => Sys2Proof.Machine.execFabs d a s
  | .fneg d a => Sys2Proof.Machine.execFneg d a s
  | .faddFp1 ty rm sat d a b => Sys2Proof.Machine.execFaddFp1 ty rm sat d a b s
  | .fsubFp1 ty rm sat d a b => Sys2Proof.Machine.execFsubFp1 ty rm sat d a b s
  | .fmulFp1 ty rm sat d a b => Sys2Proof.Machine.execFmulFp1 ty rm sat d a b s
  | .ffma ty rm sat d a b c => Sys2Proof.Machine.execFfma ty rm sat d a b c s
  | .ffms ty rm sat d a b c => Sys2Proof.Machine.execFfms ty rm sat d a b c s
  | .fnma ty rm sat d a b c => Sys2Proof.Machine.execFnma ty rm sat d a b c s
  | .fnms ty rm sat d a b c => Sys2Proof.Machine.execFnms ty rm sat d a b c s
  | .fdot2 bf rm sat d a b c => Sys2Proof.Machine.execFdot2 bf rm sat d a b c s
  | .fdiv dbl rm sat d a b => Sys2Proof.Machine.execFdiv dbl rm sat d a b s
  | .fsqrt dbl rm d a => Sys2Proof.Machine.execFsqrt dbl rm d a s
  | .frcp dbl d a => Sys2Proof.Machine.execFrcp dbl d a s
  | .frsq dbl d a => Sys2Proof.Machine.execFrsq dbl d a s
  | .fexp2 ty d a => Sys2Proof.Machine.execFexp2 ty d a s
  | .flog2 ty d a => Sys2Proof.Machine.execFlog2 ty d a s
  | .fsin ty d a => Sys2Proof.Machine.execFsin ty d a s
  | .fcos ty d a => Sys2Proof.Machine.execFcos ty d a s
  | .ftanh ty d a => Sys2Proof.Machine.execFtanh ty d a s
  | .fsigm ty d a => Sys2Proof.Machine.execFsigm ty d a s
  | .frnd ty rm d a => Sys2Proof.Machine.execFrnd ty rm d a s
  | .fclass dbl d a => Sys2Proof.Machine.execFclass dbl d a s
  | .fscale dbl rm sat d a b => Sys2Proof.Machine.execFscale dbl rm sat d a b s
  | .fgetx dbl d a => Sys2Proof.Machine.execFgetx dbl d a s
  | .cvt dt st rm sat d a => Sys2Proof.Machine.execCvt dt st rm sat d a s
  | .cvtp dt rm sat d a b c h => Sys2Proof.Machine.execCvtp dt rm sat d a b c h s
  | .cvte dt st rm sat d a im => Sys2Proof.Machine.execCvte dt st rm sat d a im s
  | .lgetIdx dbl d a sr j => Sys2Proof.Machine.execLgetIdx dbl d a sr j s
  | .lgetRot dbl d a sr j => Sys2Proof.Machine.execLgetRot dbl d a sr j s
  | .lgetShift dbl d a sr j => Sys2Proof.Machine.execLgetShift dbl d a sr j s
  | .lgetXor dbl d a sr j => Sys2Proof.Machine.execLgetXor dbl d a sr j s
  | .census m d a j => Sys2Proof.Machine.execCensus m d a j s
  | .red op d a j => Sys2Proof.Machine.execRed op d a j s
  | .scan op excl d a j => Sys2Proof.Machine.execScan op excl d a j s
  | .peers dbl d a j => Sys2Proof.Machine.execPeers dbl d a j s
  | .slice d n => Sys2Proof.Machine.execSlice d n s
  | .matz d => Sys2Proof.Machine.execMatz d s
  | .rcpst d a => Sys2Proof.Machine.execRcpst d a s
  | .rcppol g => Sys2Proof.Machine.execRcppol g s
  | .ld sz h sr k a disp => Sys2Proof.Machine.execLd sz h sr k a disp s
  | .st g sz h k a disp sr => Sys2Proof.Machine.execSt g sz h k a disp sr s
  | .atom g op dbl sc k a disp sr c => Sys2Proof.Machine.execAtom g op dbl sc k a disp sr c s
  | .ldf h sr k a disp => Sys2Proof.Machine.execLdf h sr k a disp s
  | .stf h k a disp sr => Sys2Proof.Machine.execStf h k a disp sr s
  | .lds sz sr m a disp c => Sys2Proof.Machine.execLds sz sr m a disp c s
  | .sts sz m a disp sr c => Sys2Proof.Machine.execSts sz m a disp sr c s
  | .atoms op m a disp sr c => Sys2Proof.Machine.execAtoms op m a disp sr c s
  | .phaseRel sc => Sys2Proof.Machine.execPhaseRel sc s
  | .phaseAcq sc => Sys2Proof.Machine.execPhaseAcq sc s
  | .phaseAr sc => Sys2Proof.Machine.execPhaseAr sc s
  | .fence e l => Sys2Proof.Machine.execFence e l s
  | .cmaint op lv k a b => Sys2Proof.Machine.execCmaint op lv k a b s
  | .pref lv k a => Sys2Proof.Machine.execPref lv k a s
  | .lease a => Sys2Proof.Machine.execLease a s
  | .capld x im => Sys2Proof.Machine.execCapld x im s
  | .capnar x y a b mask => Sys2Proof.Machine.execCapnar x y a b mask s
  | .capq f d y => Sys2Proof.Machine.execCapq f d y s
  | .capswz x y swz => Sys2Proof.Machine.execCapswz x y swz s
  | .capdrop x => Sys2Proof.Machine.execCapdrop x s
  | .wld ty t f => Sys2Proof.Machine.execWld ty t f s
  | .wlds t sr => Sys2Proof.Machine.execWlds t sr s
  | .tmm p => Sys2Proof.Machine.execTmm p s
  | .tzero t => Sys2Proof.Machine.execTzero t s
  | .trd ty rm sat d t => Sys2Proof.Machine.execTrd ty rm sat d t s
  | .twr ty t a => Sys2Proof.Machine.execTwr ty t a s
  | .tepi p => Sys2Proof.Machine.execTepi p s
  | .tfuse m => Sys2Proof.Machine.execTfuse m s
  | .cbld f b => Sys2Proof.Machine.execCbld f b s
  | .tstat clr d t => Sys2Proof.Machine.execTstat clr d t s
  | .cpy d p => Sys2Proof.Machine.execCpy d p s
  | .cpyr d p => Sys2Proof.Machine.execCpyr d p s
  | .tsetFill m n rw => Sys2Proof.Machine.execTsetFill m n rw s
  | .tsetReady m => Sys2Proof.Machine.execTsetReady m s
  | .tsetEmpty m => Sys2Proof.Machine.execTsetEmpty m s
  | .twait m => Sys2Proof.Machine.execTwait m s
  | .tqry k d idx => Sys2Proof.Machine.execTqry k d idx s
  | .gslot n => Sys2Proof.Machine.execGslot n s
  | .gres m n p neg => Sys2Proof.Machine.execGres m n p neg s
  | .barArrive b a => Sys2Proof.Machine.execBarArrive b a s
  | .barWait b => Sys2Proof.Machine.execBarWait b s
  | .barSync b a => Sys2Proof.Machine.execBarSync b a s
  | .tbar t ar => Sys2Proof.Machine.execTbar t ar s
  | .cred d p => Sys2Proof.Machine.execCred d p s
  | .seqw n v => Sys2Proof.Machine.execSeqw n v s
  | .seqrd d n => Sys2Proof.Machine.execSeqrd d n s
  | .spawn d k x a => Sys2Proof.Machine.execSpawn d k x a s
  | .qstat d sel => Sys2Proof.Machine.execQstat d sel s
  | .prio p => Sys2Proof.Machine.execPrio p s
  | .pickBundle => Sys2Proof.Machine.execPickBundle s
  | .sleepExpiry t => Sys2Proof.Machine.execSleepExpiry t s
  | .yieldRelease t => Sys2Proof.Machine.execYieldRelease t s
  | .loadResultArrival op => Sys2Proof.Machine.execLoadResultArrival op s
  | .storePerform op => Sys2Proof.Machine.execStorePerform op s
  | .atomicPerform op => Sys2Proof.Machine.execAtomicPerform op s
  | .dataFaultPark iss => Sys2Proof.Machine.execDataFaultPark iss s
  | .remoteAccessFailure op => Sys2Proof.Machine.execRemoteAccessFailure op s
  | .phaseRelComplete t => Sys2Proof.Machine.execPhaseRelComplete t s
  | .phaseAcqComplete t => Sys2Proof.Machine.execPhaseAcqComplete t s
  | .cmaintComplete op => Sys2Proof.Machine.execCmaintComplete op s
  | .capWriteEffect t => Sys2Proof.Machine.execCapWriteEffect t s
  | .l1Eviction d c addr => Sys2Proof.Machine.execL1Eviction d c addr s
  | .l2Eviction d addr => Sys2Proof.Machine.execL2Eviction d addr s
  | .recipeConversion g x => Sys2Proof.Machine.execRecipeConversion g x s
  | .reserveRefill g => Sys2Proof.Machine.execReserveRefill g s
  | .laneMigration t lane => Sys2Proof.Machine.execLaneMigration t lane s
  | .groupEnd g => Sys2Proof.Machine.execGroupEnd g s
  | .teamEnd t => Sys2Proof.Machine.execTeamEnd t s
  | .gridCompletion g => Sys2Proof.Machine.execGridCompletion g s
  | .leaseWindowEnd => Sys2Proof.Machine.execLeaseWindowEnd s
  | .groupActivation g => Sys2Proof.Machine.execGroupActivation g s
  | .groupUrgent g => Sys2Proof.Machine.execGroupUrgent g s
  | .groupSwap g => Sys2Proof.Machine.execGroupSwap g s
  | .hangWatchdogExpiry g => Sys2Proof.Machine.execHangWatchdogExpiry g s
  | .doorbellWrite c tail => Sys2Proof.Machine.execDoorbellWrite c tail s
  | .launchEntryStart c => Sys2Proof.Machine.execLaunchEntryStart c s
  | .dependenceSatisfied c => Sys2Proof.Machine.execDependenceSatisfied c s
  | .dependencePoll c => Sys2Proof.Machine.execDependencePoll c s
  | .frontEndReadFault c => Sys2Proof.Machine.execFrontEndReadFault c s
  | .teamPlacement g => Sys2Proof.Machine.execTeamPlacement g s
  | .markerCompletion c => Sys2Proof.Machine.execMarkerCompletion c s
  | .chainDoneAdvance c => Sys2Proof.Machine.execChainDoneAdvance c s
  | .preemptCommand t fast => Sys2Proof.Machine.execPreemptCommand t fast s
  | .preemptRestore t => Sys2Proof.Machine.execPreemptRestore t s
  | .partitionShrink p quads => Sys2Proof.Machine.execPartitionShrink p quads s
  | .partitionShrinkForce p quads => Sys2Proof.Machine.execPartitionShrinkForce p quads s
  | .vfDisable vs => Sys2Proof.Machine.execVfDisable vs s
  | .vfEnable v => Sys2Proof.Machine.execVfEnable v s
  | .translationInvalidate v base len => Sys2Proof.Machine.execTranslationInvalidate v base len s
  | .faultResume g tids pc => Sys2Proof.Machine.execFaultResume g tids pc s
  | .threadKill t => Sys2Proof.Machine.execThreadKill t s
  | .stepBitWrite g on => Sys2Proof.Machine.execStepBitWrite g on s
  | .countStop g => Sys2Proof.Machine.execCountStop g s
  | .replayCheckpoint p => Sys2Proof.Machine.execReplayCheckpoint p s
  | .replayStop p g n => Sys2Proof.Machine.execReplayStop p g n s
  | .sweeperFrameVisit io => Sys2Proof.Machine.execSweeperFrameVisit io s
  | .coldQueueConsumedWrite io n => Sys2Proof.Machine.execColdQueueConsumedWrite io n s
  | .coldQueueBaseWrite io base len => Sys2Proof.Machine.execColdQueueBaseWrite io base len s
  | .migrationRequest frame agent => Sys2Proof.Machine.execMigrationRequest frame agent s
  | .migrationMoveComplete frame agent dest => Sys2Proof.Machine.execMigrationMoveComplete frame agent dest s
  | .migrationWriteTimeout op => Sys2Proof.Machine.execMigrationWriteTimeout op s
  | .matrixCaptureEnd cmd => Sys2Proof.Machine.execMatrixCaptureEnd cmd s
  | .matrixCommandBegin cmd => Sys2Proof.Machine.execMatrixCommandBegin cmd s
  | .matrixCommandComplete cmd => Sys2Proof.Machine.execMatrixCommandComplete cmd s
  | .tfuseEffect cmd => Sys2Proof.Machine.execTfuseEffect cmd s
  | .epilogueCopy cmd => Sys2Proof.Machine.execEpilogueCopy cmd s
  | .epilogueDrainComplete q im => Sys2Proof.Machine.execEpilogueDrainComplete q im s
  | .epilogueEntryFault q im => Sys2Proof.Machine.execEpilogueEntryFault q im s
  | .epilogueEntryResolve q im => Sys2Proof.Machine.execEpilogueEntryResolve q im s
  | .epilogueEntryKill q im => Sys2Proof.Machine.execEpilogueEntryKill q im s
  | .copyComplete cmd => Sys2Proof.Machine.execCopyComplete cmd s
  | .copyFaultHold cmd => Sys2Proof.Machine.execCopyFaultHold cmd s
  | .cpyrArrival x => Sys2Proof.Machine.execCpyrArrival x s
  | .cpyrAcknowledge cmd => Sys2Proof.Machine.execCpyrAcknowledge cmd s
  | .credInstanceComplete cmd others => Sys2Proof.Machine.execCredInstanceComplete cmd others s
  | .credInstanceFailure cmd => Sys2Proof.Machine.execCredInstanceFailure cmd s
  | .gslotGenerationAdvance t y => Sys2Proof.Machine.execGslotGenerationAdvance t y s
  | .tbarRelease g cl tag => Sys2Proof.Machine.execTbarRelease g cl tag s
  | .packetReceive port p => Sys2Proof.Machine.execPacketReceive port p s
  | .ackOnlySend port => Sys2Proof.Machine.execAckOnlySend port s
  | .replayTimeout port => Sys2Proof.Machine.execReplayTimeout port s
  | .portLaneFailure port lanes => Sys2Proof.Machine.execPortLaneFailure port lanes s
  | .portDegradeComplete port => Sys2Proof.Machine.execPortDegradeComplete port s
  | .portRetrainComplete port trained => Sys2Proof.Machine.execPortRetrainComplete port trained s
  | .portRetrainTimeout port => Sys2Proof.Machine.execPortRetrainTimeout port s
  | .portWidenCommand port => Sys2Proof.Machine.execPortWidenCommand port s
  | .portRetrainCommand port => Sys2Proof.Machine.execPortRetrainCommand port s
  | .keyInstall l => Sys2Proof.Machine.execKeyInstall l s
  | .keyMarkerReceive l => Sys2Proof.Machine.execKeyMarkerReceive l s
  | .keyRetire l => Sys2Proof.Machine.execKeyRetire l s
  | .domainTableWrite dev e => Sys2Proof.Machine.execDomainTableWrite dev e s
  | .routeTagModeWrite p tag mode => Sys2Proof.Machine.execRouteTagModeWrite p tag mode s
  | .powerOn => Sys2Proof.Machine.execPowerOn s
  | .attestationResult d fail => Sys2Proof.Machine.execAttestationResult d fail s
  | .roll => Sys2Proof.Machine.execRoll s
  | .periodicRoll => Sys2Proof.Machine.execPeriodicRoll s
  | .rollTurn d => Sys2Proof.Machine.execRollTurn d s
  | .rollTurnComplete d => Sys2Proof.Machine.execRollTurnComplete d s
  | .dieLinkFault l => Sys2Proof.Machine.execDieLinkFault l s
  | .dieLinkRecovered l => Sys2Proof.Machine.execDieLinkRecovered l s
  | .reset d => Sys2Proof.Machine.execReset d s
  | .drainComplete d => Sys2Proof.Machine.execDrainComplete d s
  | .quarantine d => Sys2Proof.Machine.execQuarantine d s
  | .attest d => Sys2Proof.Machine.execAttest d s
  | .duskStallTimeout op => Sys2Proof.Machine.execDuskStallTimeout op s
  | .purge tag => Sys2Proof.Machine.execPurge tag s
  | .retire d loc => Sys2Proof.Machine.execRetire d loc s
  | .clearpoison base len => Sys2Proof.Machine.execClearpoison base len s
  | .classclear d loc => Sys2Proof.Machine.execClassclear d loc s
  | .eccCorrectedEvent d loc tag => Sys2Proof.Machine.execEccCorrectedEvent d loc tag s
  | .eccUncorrectableEvent d loc at_ tag => Sys2Proof.Machine.execEccUncorrectableEvent d loc at_ tag s
  | .scrubWord d addr found demand => Sys2Proof.Machine.execScrubWord d addr found demand s
  | .faultRecordPost d => Sys2Proof.Machine.execFaultRecordPost d s
  | .recordQueueSet q base len => Sys2Proof.Machine.execRecordQueueSet q base len s
  | .takenWrite q n => Sys2Proof.Machine.execTakenWrite q n s
  | .hostAccess agent op => Sys2Proof.Machine.execHostAccess agent op s
  | .derivedEventConfig p im d => Sys2Proof.Machine.execDerivedEventConfig p im d s
  | .junctionReport d temp => Sys2Proof.Machine.execJunctionReport d temp s
  | .thermalPowerRemoval => Sys2Proof.Machine.execThermalPowerRemoval s
  | .supervisorRegisterWrite sr => Sys2Proof.Machine.execSupervisorRegisterWrite sr s
  | .commandAdmission cmd => Sys2Proof.Machine.execCommandAdmission cmd s
  | .spawnResult t => Sys2Proof.Machine.execSpawnResult t s
  | .packagePowerOff => Sys2Proof.Machine.execPackagePowerOff s

end Sys2Proof.Machine
end

