-- ==== Sys2Proof/Machine/Settle.lean ====
section
/-! DEFINITION. What follows from the rules after each event without an event of its own: waits that end (R60, R191, R300,
R315), slices and forms of registers (R155, R157, R158), guard slots (R298), packets that leave (R188, R294, R316), stalls
(R18, R219, R320), step traps (R153), saves (R237, R238, R351), and the counts of retired work (R236, R353). -/

namespace Sys2Proof.Machine
open Host

/-! ## After an issued instruction -/

/-- The 128-byte lines that the accesses of the issue reach. -/
def State.issueLines (s : State) (iss : Nat) : Nat :=
  (((s.ops.filter fun o => decide (o.num = iss)).flatMap fun o => (Space.keys o.space).map fun k => k / 128).eraseDups).length

/-- LD, ST and ATOM hold the issue slot one cycle longer for each 4 lines beyond the first 4 (R197); a part of 4 counts as 4
(DESIGN CHOICE, log entry 71). -/
def extraSlot (i : Instr) (lines : Nat) : Nat :=
  match i with
  | .ld _ _ _ _ _ _ | .st _ _ _ _ _ _ _ | .atom _ _ _ _ _ _ _ _ _ => (lines - 4 + 3) / 4
  | _ => 0

/-- The registers that a lane wrote when it issued: CPY, CPYR and CRED write the status of the lanes that wait for it. -/
def Thread.wrote (i : Instr) (t o : Thread) : List Nat :=
  match i, t.wait with
  | .cpy _ _, .status _ | .cpyr _ _, .status _ | .cred _ _, .status _ => instrWrites o.wb i
  | .cpy _ _, _ | .cpyr _ _, _ | .cred _ _, _ => []
  | _, _ => o.laneWrites i

/-- The writes of a thread that issued clear Backed of values whose inputs they are (R155). -/
def State.unbackAfter (i : Instr) (b : List ThreadId) (old s : State) : State :=
  s.mapThreads fun t =>
    if t.id ∈ b ∧ t.park.isNone ∧ ¬ t.wait.holdsIssue then
      match s.group? t.id.gid, old.thread? t.id with
      | some g, some o => if t.forms.isEmpty then t else t.unback g (t.wrote i o)
      | _, _ => t
    else t

/-- What the issue started begins once the slot's regenerations and materialisations are done (R162). -/
def State.delayIssue (n num first : Nat) (s : State) : State :=
  if n = 0 then s
  else (s.setOps (s.ops.map fun o => if o.num = num then { o with due := o.due + n } else o)).setCmds
    (s.cmds.map fun c => if first ≤ c.id then { c with at_ := c.at_ + n, due := c.due + n } else c)

def State.afterIssue (i : Instr) (old s : State) : State :=
  let s1 := (State.unbackAfter i old.issue.bundle old s).delayIssue old.workCycles old.issue.num old.clock.fresh
  let n := extraSlot i (s1.issueLines s.issue.num)
  match n, old.issue.bundle.head?.bind old.thread? with
  | 0, _ => s1
  | n, some t => s1.modQuad t.qid fun q => { q with slotUntil := q.slotUntil + n }
  | _, none => s1

/-! ## Counts of retired work -/

/-- The raw event 0x0002, and the watchdog's count (R236, R353). -/
def State.noteRetired (old s : State) : State :=
  s.groups.foldl (fun st g =>
    let n := s.retiredOf g.id - old.retiredOf g.id
    if n = 0 then st
    else (st.countEv 0x02 (QuadId.idx (Group.qid g)) n).modGroup g.id fun x =>
      { x with hang := 0, remote := 0, retireAt := s.clock.cycle + 1 }) s

/-! ## Registers -/

/-- Registers whose new value is outstanding are no recipe any more; the values regenerated for an issue are gone. -/
def State.tidyForms (s : State) : State :=
  s.mapThreads fun t =>
    let f := if t.forms.isEmpty then t.forms else t.forms.filter fun x => !(x.2.recipe && s.outstanding t.id x.1)
    { t with regen := [], forms := f }

/-- A group whose values have grown took their rows from its reserve, which is refilled (R155, R165). -/
def State.rebalance (old s : State) : State :=
  s.groups.foldl (fun st g =>
    match old.group? g.id with
    | some g0 =>
      if Group.holdsRows g ∧ Group.holdsRows g0 ∧ (old.groupThreads g.id).any (fun t => !t.forms.isEmpty) ∧
          old.valueRegs g0 < st.valueRegs g then (st.modGroup g.id fun x => { x with reserve := 0 }).refill g.id
      else st
    | none => st) s

/-- Threads whose slice is complete join an entry; entries that no register names are freed (R158). -/
def State.joinSlices (s : State) : State :=
  let ts := s.threads.filter fun t => (match t.slice with | some r => decide (r.left = 0) | none => false) && t.park.isNone && !t.wait.holdsIssue
  (ts.foldl (fun st t => st.joinSlice t.id) s).freeEntries

/-! ## Waits -/

/-- A wait of a thread is over (R191, R300, R315). -/
def State.waitOver (s : State) (t : ThreadId) (w : Wait) : Bool :=
  match w with
  | .counts nl ns nc nt => match s.group? t.gid with
    | some g => decide (g.countOf .nl ≤ nl) && decide (g.countOf .ns ≤ ns) && decide (g.countOf .nc ≤ nc) && decide (g.countOf .nt ≤ nt)
    | none => false
  | .seq n v => match s.team? t.tmid with
    | some x => decide ((tget 0 x.w n + 2 ^ 32 - v % 2 ^ 32) % 2 ^ 32 < 2 ^ 31)
    | none => false
  | .tile m => match s.team? t.tmid with
    | some x => !x.saved && decide (tState (s.tile x.core m) = 2)
    | none => false
  | _ => false

/-- Threads whose wait is over are ready two cycles later. -/
def State.releaseWaits (s : State) : State :=
  s.mapThreads fun t => if t.wait = .none ∧ t.redo.isEmpty then t else t.wakeIf (s.waitOver t.id) (s.clock.cycle + 2)

/-- A thread that waits for the dies of a recipe's load issues its instruction anew once they are in Noon, or once 20 µs have
passed and the load faults (R19, R163). -/
def State.releaseRegens (s : State) : State :=
  s.mapThreads fun t => match t.wait with
    | .regen ds =>
      if s.gate ds ≠ .stall then { t with wait := .none, stallAt := none }
      else if t.stallAt.getD s.clock.cycle + 28000 ≤ s.clock.cycle then { t with wait := .none } else t
    | _ => t

/-- Arrivals whose earlier accesses have taken effect (R306, R309). -/
def State.lateArrivals (s : State) : State :=
  let bars := (s.threads.filter fun t => t.park.isNone && (match t.wait with | .barArrive _ _ _ _ => true | _ => false)).map Thread.id
  (s.arriveBars bars).threads.foldl (fun st t => if t.park.isSome then st
    else match t.wait with
      | .tbarArrive _ _ => st.arriveTbar t.id
      | _ => st) (s.arriveBars bars)

/-- Waiters of tree barriers whose die has left park (R309). -/
def State.deadTbars (s : State) : State :=
  let ds := s.tbarDead
  (ds.map Prod.snd).eraseDups.foldl (fun st d => st.raise ((ds.filter fun x => decide (x.2 = d)).map Prod.fst) (some d)) s

/-- FENCEs whose earlier operations have all taken effect (R81). -/
def State.dropFences (s : State) : State :=
  s.mapThreads fun t => if t.fences.isEmpty then t
    else { t with fences := t.fences.filter fun f => !(f.2.2.all s.tookEffect) }

/-- The step trap of a thread for an instruction at an address. -/
def Thread.stepFault (a : Nat) (t : Thread) : LaneFault :=
  { th := t.id, info := { cause := 0x09, addr0 := t.pc, addr1 := a, own := true }, resume := t.pc }

/-- The trap for an access that executed again, of a thread that is back in its wait: what the wait owes stays owed. -/
def State.stepNows (s : State) : State :=
  (s.raise (s.threads.filterMap fun t => if t.park.isNone then t.stepNow.map t.stepFault else none) none).mapThreads fun t =>
    match s.thread? t.id with
    | some o => if o.park.isNone ∧ o.stepNow.isSome then
        { t with stepNow := none, stepOwed := if o.wait.holdsIssue then none else o.stepOwed } else t
    | none => t

/-- A stepped thread traps once it has returned from its wait (R153). -/
def State.stepTraps (s0 : State) : State :=
  let s := s0.stepNows
  s.raise (s.threads.filterMap fun t => match t.stepOwed with
    | some a => if t.park.isNone ∧ t.wait = .none then some (t.stepFault a) else none
    | none => none) none

/-! ## Guard slots and the start of copies (R298) -/

/-- An earlier command of a command's queue waits for its slot (R264, R298). -/
def State.heldBySlot (s : State) (c : Cmd) : Bool :=
  if c.isMatrix then (s.queueOf c.core c.part c.bytes c.quad).any fun e => decide (e.id < c.id) && s.slotHolds e
  else s.behindSlot c

/-- Commands at the head of their queue whose slot is false are discarded (R265, R298). -/
def State.discardFalse (s : State) : State :=
  (s.cmds.filter fun c => decide (c.st = .queued) && decide (s.guardOf c = .false)).foldl (fun st c =>
    if st.teamSaved c.th.tmid ∨ st.heldBySlot c then st
    else if c.isMatrix then st.finishCmd c stDiscarded else st.cancelCopy c stDiscarded) s

/-! ## Epilogues (R271, R272) -/

/-- TMMs that wait for a free entry take one, in the order of their issue. -/
def State.startCopyOuts (s : State) : State :=
  (s.cmds.filter fun c => decide (c.st = .copyWait)).foldl (fun st c => st.startCopyOut c.id) s

/-- The quadrant of an index. -/
def quadOf (n : Nat) : QuadId := { die := n / 192, core := n / 4 % 48, quad := n % 4 }

/-- The draining entries go on. -/
def State.epiAll (s : State) : State :=
  s.quads.foldl (fun st q => q.2.epi.foldl (fun x e => if e.2.st = .draining then x.epiAdvance (quadOf q.1) e.1 else x) st) s

/-! ## Packets that leave -/

/-- The thread of an access is held at it in Dusk. -/
def State.duskHeld (s : State) (o : Op) : Bool :=
  match s.thread? o.th with
  | some t => t.park.isNone && decide (t.wait = .dusk o.id)
  | none => false

/-- A remote access may leave as far as its own thread and the rules of order go. -/
def State.sendable (s : State) (o : Op) : Bool :=
  Space.remote o.space && o.failed.isNone && !(s.duskHeld o) && s.depsDone o && decide (o.due ≤ s.clock.cycle)

/-- A remote access that has a packet to send. The atomics of one bundle on a byte leave together, in order, and stores in the
order in which they performed (R182). -/
def State.mustSend (s : State) (o : Op) : Bool :=
  s.sendable o && !o.sent &&
    (match o.kind with
      | .store => o.answer.isSome
      | .atomic _ _ _ _ _ => (s.blockOf o).all (fun e => e.sent || s.sendable e) &&
          ((s.blockOf o).takeWhile fun e => decide (e.id ≠ o.id)).all Op.sent
      | .load _ _ | .loadFrag => true
      | _ => false)

/-- Packets of remote accesses leave while the port is up (R188, R320); atomics on one byte in the order of R182. -/
def State.sendOps (s : State) : State :=
  s.ops.foldl (fun st o => if ¬ st.mustSend o then st
    else match (st.portTo o.dev).map fun p => (st.port p).st.up with
      | some true => st.sendOp o
      | _ => st) s

/-- Remote stores, and atomics without a result, whose packets have been acknowledged (R184, R188). -/
def State.ackedOps (s : State) : State :=
  (s.ops.filter fun o => Space.remote o.space && o.sent && !(o.marks.any s.unackedAt) && (match o.kind with
    | .store => true
    | .atomic _ _ _ _ _ => o.dst.isNone
    | _ => false)).foldl (fun st o => st.endOp o) s

/-- A store of a core to another device has performed, and its packet has still to leave. -/
def State.unsentStore (s : State) (c : CoreId) : Bool :=
  s.ops.any fun e => decide (e.core = c) && decide (e.kind = .store) && e.answer.isSome && !e.sent && Space.remote e.space

/-- A domain release waits for the packets that are outstanding when it may perform (R76, R188). -/
def State.markRels (s : State) : State :=
  (s.ops.filter fun o => decide (o.kind.scope = .domain) && !o.sent && s.depsDone o && !(s.unsentStore o.core) &&
    (match o.kind with
      | .rel _ => true
      | .relacq _ false => true
      | _ => false)).foldl (fun st o =>
      st.modOp o.id fun x => { x with sent := true, marks := st.ports.flatMap fun p => p.2.unacked.map fun k => (p.1, k.seq) }) s

/-! ## Stalls (R18, R19, R219, R320) -/

/-- An access that issued waits: for a port in recovery, at a locked frame, or in Dusk. -/
def State.opStalls (s : State) (o : Op) : Bool :=
  s.depsDone o && decide (o.due ≤ s.clock.cycle) && o.failed.isNone && o.answer.isNone &&
    ((s.mustSend o && s.recoveringTo o.dev) || s.waitsLock o || decide (s.gate (s.lateRoute o) = .stall)) ||
  (decide (o.kind = .store) && s.mustSend o && s.recoveringTo o.dev)

/-- A thread held in Dusk goes on, or is to park, as its dies say now. As its instruction retires, values that have its
destination as an input lose Backed (R155). -/
def State.duskGo (s : State) (o : Op) : State :=
  match s.gate (s.stallRoute o) with
  | .stall => s
  | .go => (s.modOp o.id fun x => { x with stall := none, due := s.clock.cycle + (o.due - o.stall.getD o.due) }).modThread o.th
      fun t => match s.group? t.id.gid with
        | some g => (t.unback g o.dests).passHeld 2
        | none => t.passHeld 2
  | .dead d => (s.failHeld o).modThread o.th fun t => { t with wait := .fault o.num 0x0C 0 o.vaddr 0 d }

/-- Since when each access waits. -/
def State.opStall (s : State) (o : Op) : State :=
  if s.duskHeld o then s.duskGo o
  else if s.opStalls o then (if o.stall.isSome then s else s.modOp o.id fun x => { x with stall := some s.clock.cycle })
  else if o.stall.isSome then s.modOp o.id fun x => { x with stall := none } else s

def State.opStallsAll (s : State) : State := s.ops.foldl State.opStall s

/-- A command's accesses that stall now, by their places: the read of its descriptor, or those of a collective. A copy that
moves and an entry that drains keep theirs as they go. -/
def State.cmdStalls (s : State) (c : Cmd) : Option (List Nat) :=
  match c.st, c.kind with
  | .decide, .cpy b _ _ y | .decide, .cpyr b _ _ y _ =>
    if s.clock.cycle < c.due ∨ ¬ copyBlkOk c.kind.isCpyr b ∨ s.admittedLater c then some []
    else match (s.readDsc c b y).2 with
      | .error (.wait _ _ _ _ _) => some [0]
      | _ => some []
  | .running, .cred b _ _ => some (s.credStalls c b)
  | .running, .cpyr _ _ _ _ _ => if c.contrib.isSome then s.sentStall c else none
  | _, _ => none

/-- The read of a descriptor in another device is asked for (R188). -/
def State.askDsc (s : State) (c : Cmd) : State :=
  match c.st, c.kind with
  | .decide, .cpy b _ _ y | .decide, .cpyr b _ _ y _ =>
    if s.clock.cycle < c.due ∨ ¬ copyBlkOk c.kind.isCpyr b ∨ s.admittedLater c then s
    else (match s.readDsc c b y with
      | (s1, .error .asked) => s1
      | _ => s)
  | _, _ => s

def State.cmdStall (s0 : State) (c : Cmd) : State :=
  let s := s0.askDsc c
  match s.cmdStalls c with
  | some [] => if c.stalls.isEmpty then s else s.modCmd c.id fun x => { x with stalls := [] }
  | some ps => s.modCmd c.id (Cmd.setStalls ps s.clock.cycle)
  | none => s

def State.cmdStallsAll (s : State) : State := s.cmds.foldl State.cmdStall s

/-- Stalled by a die in Dusk. -/
def EngRes.dusk : EngRes → Bool
  | .wait _ cause _ _ _ => decide (cause = 0x0C)
  | _ => false
def duskError {α : Type} : Except EngRes α → Bool
  | .error x => x.dusk
  | .ok _ => false

/-- The access of a command at a place would stall in Dusk. -/
def State.placeDusk (s : State) (c : Cmd) (p : Nat) : Bool :=
  let port (dev : Nat) : Bool := (s.engRemote c.core.die [remoteKey dev 0] 0).dusk
  match c.st, c.kind with
  | .decide, .cpy b _ _ y | .decide, .cpyr b _ _ y _ => duskError (s.readDsc c b y).2
  | .running, .cpy b a d _ => match (copyElems b c.regs)[p]? with
    | some e =>
      let g := s.copyGet c b a c.regs e.2.1
      (match g.2 with
        | .error x => x.dusk
        | .ok v => duskError (g.1.copyPut c b d c.regs e.2.2 v).2)
    | none => false
  | .running, .cpyr b a d _ _ => if c.contrib.isSome then false else match (copyElems b c.regs)[p]? with
    | some e => duskError (s.copyGet c b a c.regs e.2.1).2
    | none => port d.device
  | .running, .cred b a d =>
    let z := credElem b
    if p < credWritePlace then (s.engForm c a false (blk64 b 2 + z * p : Nat) z).2.dusk
    else if p < credPortPlace then (s.engForm c d true (blk64 b 4 + z * (p - credWritePlace) : Nat) z).2.dusk
    else ((s.credOthers c b)[p - credPortPlace]?).any port
  | .draining, _ => match c.epi, s.entryOf c with
    | some e, some q => duskError (s.epiTry c e (s.epiAt q.1 q.2) p).2
    | _, _ => false
  | _, _ => false

/-- The quadrants that have an access stalled in Dusk (R18, R19, R90). -/
def State.duskQuads (s : State) : List QuadId :=
  (((s.ops.filter fun o => o.stall.isSome && decide (s.gate (s.stallRoute o) = .stall)).map fun o => quadOn o.core o.quad) ++
    ((s.threads.filter fun t => t.stallAt.isSome).map Thread.qid) ++
    ((s.teams.filter fun t => t.saveStall.isSome).flatMap fun t => (s.teamQuads t).map (quadOn t.core)) ++
    (s.cmds.filter fun c => c.stalls.any fun p => s.placeDusk c p.1).map Cmd.qid).eraseDups

/-- The raw event 0x26: a cycle that began with an access of the quadrant stalled in Dusk (R353). A front end has no
quadrant. -/
def State.countDusk (old s : State) : State :=
  if old.clock.cycle = s.clock.cycle then s
  else s.duskQuads.foldl (fun st q => st.countEv 0x26 (QuadId.idx q) 1) s

/-! ## Saves -/

/-- What teams, functions and partitions that are being stopped have come to. -/
def State.settleSaves (s : State) : State :=
  let s1 := s.disableCmds.saveStopped
  let s2 := s1.vfs.foldl (fun st v => st.finishDisable v.1) s1
  s2.parts.foldl (fun st p => st.checkpoint p.1) s2

/-- Tag modes that were written while an instance was in progress (R308). -/
def State.settleTags (s : State) : State :=
  s.parts.foldl (fun st p => (List.range 8).foldl (fun x t => x.applyTag p.1 t) st) s

/-! ## All of it -/

/-- L2s that hold more lines than they have room for (R208). -/
def State.trimAll (s : State) : State := (List.range 4).foldl (fun st d => st.trimL2 d) s

/-- What engines and packets do by themselves. -/
def State.settleTraffic (s : State) : State :=
  s.discardFalse.startCopies.advanceCopies.startCopyOuts.epiAll.sendCopies.credAll.arriveAll.hostAll.sendOps.ackedOps.markRels

/-- Stalls, waits and traps. -/
def State.settleWaits (s : State) : State :=
  s.opStallsAll.cmdStallsAll.feStalls.dropFences.releaseWaits.releaseRegens.lateArrivals.deadTbars.stepTraps

/-- What follows from the rules after a step, in order. -/
def State.settle (old s : State) : State :=
  let s1 := State.rebalance old s.tidyForms.joinSlices
  let s2 := s1.settleTraffic.settleWaits.settleTags.settleSaves.trimAll
  let s3 := State.countDusk old (State.noteRetired old s2)
  s3.parts.foldl (fun st p => State.logStep old p.1 st) s3

end Sys2Proof.Machine
end

