-- ==== Sys2Proof/Machine/Events.lean ====
section
/-! DEFINITION. The events that the rules make happen by themselves once their condition holds: which of them the machine
takes next. The others (supervisor and host commands, packets, lane failures, corrected errors and the like) come from the
agenda (log entry 3). -/

namespace Sys2Proof.Machine
open Host

/-- An event that may be due. -/
abbrev Cause := State → Out

/-- The event would add a record to a die whose store of waiting records is full (R343). -/
def State.overfull (old s : State) : Bool :=
  (List.range 6).any fun d => old.storeFull d && decide ((old.die d).waiting.length < (s.die d).waiting.length)

/-- What an event comes to; none where it changes nothing, or must wait for room for its record. -/
def State.tryEvent (f : Cause) (s : State) : Option State :=
  match f s with
  | .next t => if State.overfull s t ∨ t = s then none else some t
  | _ => none

/-- The first event of a list that happens. -/
def State.firstOf : List Cause → State → Option State
  | [], _ => none
  | f :: r, s => match s.tryEvent f with
    | some t => some t
    | none => State.firstOf r s

/-! ## Candidates -/

/-- A store or atomic would perform with its block, or its lanes park for a moved frame or for poison (R182, R214). -/
def State.blockGoes (s : State) (o : Op) : Bool :=
  let b := s.blockOf o
  o.answer.isNone && b.all s.mayPerform &&
    (match b.find? fun e => s.hitsMoved e || s.consumesPoison e with
      | some e => s.mayPark e.th
      | none => true)

/-- Events of one access. -/
def State.opEvents (s : State) (o : Op) : List Cause :=
  (if s.remoteFails o then [execRemoteAccessFailure o.id] else []) ++
  (if s.duskLate o then [execDuskStallTimeout o.id] else []) ++
  (if s.waitsLock o then [execMigrationWriteTimeout o.id] else []) ++
  (if (s.deadOps o.num).isEmpty then [] else [execDataFaultPark o.num]) ++
  (if s.opDue o then (match o.kind with
    | .load _ _ | .loadFrag => [execLoadResultArrival o.id]
    | .store => if s.blockGoes o then [execStorePerform o.id] else []
    | .atomic _ _ _ _ _ => (if !(Space.remote o.space) && s.blockGoes o then [execAtomicPerform o.id] else []) ++ [execLoadResultArrival o.id]
    | .rel _ => [execPhaseRelComplete o.th]
    | .acq _ => [execPhaseAcqComplete o.th]
    | .relacq _ done => if done then [execPhaseAcqComplete o.th] else [execPhaseRelComplete o.th]
    | .cmaint _ _ _ => [execCmaintComplete o.id]) else [])

/-- Events of one thread. -/
def State.threadEvents (s : State) (t : Thread) : List Cause :=
  if t.park.isSome || s.isSaved t.id then []
  else match t.wait with
    | .fault iss _ _ _ _ _ => [execDataFaultPark iss]
    | .sleep c => if c ≤ s.clock.cycle then [execSleepExpiry t.id] else []
    | .yield c => if c ≤ s.clock.cycle then [execYieldRelease t.id] else []
    | .spawn _ _ _ _ due => if due ≤ s.clock.cycle then [execSpawnResult t.id] else []
    | _ => []

/-- Waits to which a thread will return, and which end by themselves. -/
def State.laterEvents (s : State) (t : Thread) : List Cause :=
  if s.isSaved t.id then []
  else t.redo.flatMap fun e => match e.wait with
    | .sleep c => if c ≤ s.clock.cycle then [execSleepExpiry t.id] else []
    | .yield c => if c ≤ s.clock.cycle then [execYieldRelease t.id] else []
    | _ => []

/-- Events of one team. -/
def State.teamEvents (s : State) (t : Team) : List Cause :=
  (if t.capWrites.any fun w => decide (w.2.2 ≤ s.clock.cycle) then [execCapWriteEffect t.id] else []) ++
  ((s.teamThreads t.id).flatMap fun u => match u.wait with | .gslot y => [execGslotGenerationAdvance t.id y] | _ => []) ++
  (t.tbars.filter fun b => b.arrivedAt.isSome).map (fun b => execTbarRelease t.id.grid (t.id.team / ((s.grid? t.id.grid).map fun g => g.desc.tpc).getD 1) b.tag) ++
  (if t.replace then [execPreemptRestore t.id] else []) ++
  (if s.groups.any fun g => decide (g.id.tmid = t.id) then [] else [execTeamEnd t.id])

/-- Events of one group. -/
def State.groupEvents (s : State) (g : Group) : List Cause :=
  (if s.threads.any fun t => decide (t.id.gid = g.id) then [] else [execGroupEnd g.id]) ++
  (if g.stopAt.isSome then [execCountStop g.id] else []) ++
  (if s.eligible g && decide (g.eligSince + 56000 ≤ s.clock.cycle) then [execGroupUrgent g.id] else []) ++
  (if s.eligible g && s.nextActive g then [execGroupActivation g.id] else []) ++
  (if Group.holdsRows g && (decide (g.reserve < 8) || (s.groupThreads g.id).any fun t => match t.wait with | .refill _ => true | _ => false) then
    [execReserveRefill g.id] else []) ++
  (if s.swapDue g then [execGroupSwap g.id] else []) ++
  (if (s.part (s.partOf { grid := g.id.grid, team := 0, group := 0, tid := 0 })).hangLimit ≤ g.hang then
    [execHangWatchdogExpiry g.id] else [])

/-- Events of one grid. -/
def State.gridEvents (_s : State) (g : Grid) : List Cause :=
  (if g.placed < g.nteams then [execTeamPlacement g.id] else []) ++
  (if g.placed = g.ended then [execGridCompletion g.id] else [])

/-- Events of one chain. -/
def State.chainEvents (s : State) (c : Nat × Chain) : List Cause :=
  (if c.2.doneNow.isEmpty then [] else [execChainDoneAdvance c.1]) ++
  (if (s.chainFault c.1).isSome then [execFrontEndReadFault c.1] else []) ++
  (if c.2.entries.any Entry.watches then [execDependenceSatisfied c.1, execDependencePoll c.1] else []) ++
  (if s.walked c.1 && (c.2.entries.any fun e => decide (e.stage = .waiting)) then [execMarkerCompletion c.1, execFrontEndReadFault c.1] else []) ++
  (if (c.2.entries.any fun e => s.entryFree c.1 e) || decide (c.2.read < c.2.tail) || !c.2.queue.isEmpty then [execLaunchEntryStart c.1] else [])

/-- An element of a copy faults, whatever the agenda says. -/
def State.copyStops (s : State) (c : Cmd) : Bool :=
  match s.dueCopy c.id with
  | some (_, m) => m.stop.isSome
  | none => false

/-- The decision of a copy waits for the bytes of its descriptor from another device. -/
def State.asksDsc (s : State) (c : Cmd) : Bool :=
  match c.kind with
  | .cpy b _ _ y | .cpyr b _ _ y _ => !c.asks.isEmpty && copyBlkOk c.kind.isCpyr b && decide (¬ s.admittedLater c) &&
      (match (s.readDsc c b y).2 with | .error .asked => true | _ => false)
  | _ => false

/-- Events of one engine command. -/
def State.cmdEvents (s : State) (c : Cmd) : List Cause :=
  if s.clock.cycle < c.due then []
  else match c.st with
    | .capture => [execMatrixCaptureEnd c.id]
    | .decide => if s.asksDsc c then [] else [execCommandAdmission c.id]
    | .queued => if s.mayBegin c then [execMatrixCommandBegin c.id] else []
    | .copyOut => [execEpilogueCopy c.id]
    | .running => (match c.kind with
      | .cpy _ _ _ _ => [execCopyComplete c.id] ++ (if s.copyStops c then [execCopyFaultHold c.id] else [])
      | .cpyr _ _ _ _ _ => if s.copyStops c then [execCopyFaultHold c.id] else []
      | .cred b _ _ => (if credSpan b = 0 then [execCredInstanceComplete c.id []] else []) ++
          (if s.credFails c b then [execCredInstanceFailure c.id] else [])
      | .tfuse _ => [execTfuseEffect c.id]
      | _ => if s.mayComplete c then [execMatrixCommandComplete c.id] else [])
    | _ => []

/-- A CPYR that has left fails when its port goes down, or after 100 ms of waiting for it (R320). -/
def State.lostCopies (s : State) : List Cause :=
  (s.cmds.filter fun c => decide (c.st = .running) && c.contrib.isSome && s.cmdPortDown c).map fun c => execCopyFaultHold c.id

/-- Events of the epilogue entries of a quadrant. -/
def State.epiEvents (s : State) (q : Nat × Quad) : List Cause :=
  q.2.epi.flatMap fun e => if e.2.st = .draining then
    (if (s.epiFault (quadOf q.1) e.1).isSome then [execEpilogueEntryFault (quadOf q.1) e.1] else []) ++
      [execEpilogueDrainComplete (quadOf q.1) e.1] else []

/-- Events of a port. The root begins a rollover after half the packets that a key may carry (R336, R338; log entry 45). -/
def State.portEvents (s : State) (p : Nat × Port) : List Cause :=
  (if p.2.ackDue.isSome then [execAckOnlySend p.1] else []) ++
  (if p.2.unacked.isEmpty ∨ s.clock.cycle < p.2.sentAt + 1400 then [] else [execReplayTimeout p.1]) ++
  (match p.2.st with
    | .degrading _ c => if c + 2800 ≤ s.clock.cycle then [execPortDegradeComplete p.1] else []
    | .retrain _ c => if c + 140000000 ≤ s.clock.cycle then [execPortRetrainTimeout p.1] else []
    | _ => []) ++
  (if p.2.rx.marker.isSome || p.2.tx.marker.isSome then [execKeyRetire (.port p.1)] else []) ++
  (if 2 ^ 39 ≤ p.2.tx.count ∧ p.2.tx.installed = false then [execKeyInstall (.port p.1)] else [])

/-- Events of a die-to-die link: a roll goes through its steps (R339). -/
def State.linkEvents (s : State) (l : Nat × Link) : List Cause :=
  (if s.rollsNow l.1 then [execKeyInstall (.die l.1)] else []) ++
  (if l.2.dirA.rolling || l.2.dirB.rolling then [execKeyMarkerReceive (.die l.1), execKeyRetire (.die l.1)] else [])

/-- Events of a die. Its scrubber reads only while the die is in Noon: R346 does not say so (DESIGN CHOICE, log entry 67). -/
def State.dieEvents (s : State) (d : Nat × Die) : List Cause :=
  (if d.2.waiting.isEmpty then [] else [execFaultRecordPost d.1]) ++
  (if d.2.st = .dusk then [execDrainComplete d.1, execRollTurnComplete d.1] else []) ++
  (if d.1 = 4 ∨ d.1 = 5 then (if s.root.frameTable = 0 then [] else [execSweeperFrameVisit (d.1 - 4)]) else []) ++
  (if d.2.st = .noon ∧ s.scrubBehind d.1 then [execScrubWord d.1 0 .clean false] else [])

/-- Events of the package root. -/
def State.rootEvents (s : State) : List Cause :=
  (if s.tooHot then [execThermalPowerRemoval] else []) ++
  (if s.root.rolling then [execRollTurn (s.root.rollOrder.headD 0)] else []) ++
  (if s.root.lastRoll + s.root.rollInterval ≤ s.clock.cycle then [execPeriodicRoll] else [])

/-- Replay checkpoints of a partition that are due. -/
def partEvents (p : Nat × Part) : List Cause := if p.2.replay.isSome then [execReplayCheckpoint p.1] else []

/-- Every event that may be due, in the order in which the model takes them (log entry 3). -/
def State.causes (s : State) : List Cause :=
  s.rootEvents ++ s.dies.flatMap s.dieEvents ++ s.links.flatMap s.linkEvents ++ s.ports.flatMap s.portEvents ++
  (if s.clock.cycle < 4096 * (s.clock.windows + 1) then [] else [execLeaseWindowEnd]) ++
  s.parts.flatMap partEvents ++ s.ops.flatMap s.opEvents ++ s.threads.flatMap s.threadEvents ++
  s.threads.flatMap s.laterEvents ++ s.cmds.flatMap s.cmdEvents ++ s.lostCopies ++ s.quads.flatMap s.epiEvents ++
  s.teams.flatMap s.teamEvents ++ s.groups.flatMap s.groupEvents ++ s.grids.flatMap s.gridEvents ++
  s.chains.flatMap s.chainEvents

/-- The next event that happens by itself, if any. -/
def State.auto (s : State) : Option State := State.firstOf s.causes s

end Sys2Proof.Machine
end

