-- ==== Sys2Proof/Machine/Run.lean ====
section
/-! DEFINITION. What one step takes: an event that the agenda names, else one that the rules make due, else the picker's
next bundle with the effect of its instruction; and the placing of an instruction where the picker fetches next. -/

namespace Sys2Proof.Machine
open Host

/-! ## The end of a step -/

/-- What follows from the rules, and the count of steps. -/
def State.close (old s : State) : State :=
  let t := State.settle old s
  { t with clock := { t.clock with tick := t.clock.tick + 1 } }

/-- The outcome of a meaning, with what follows it. -/
def closeOut (old : State) : Out → Out
  | .next t => .next (State.close old t)
  | .fault f => .fault f
  | .refused r => .refused r

/-! ## Events -/

/-- An event, not an instruction: it has no words. -/
def isEvent (i : Instr) : Bool := (encode i).isEmpty


/-! ## Issue -/

/-- The state in which a picked instruction has its effect. -/
def State.taken (p : State) : State := { p with issue := { p.issue with slot := none } }

/-- What the picker leads to: the instruction in the slot has its effect. -/
def State.issued (p : State) : Out :=
  match p.issue.slot with
  | none => .next p
  | some i =>
    match exec i p.taken with
    | .next t => .next (State.afterIssue i p.taken t)
    | x => x

/-- Threads that must not issue in this cycle: what they would issue has to post a record on a full die (R343). -/
def State.holdBack (b : List ThreadId) (s : State) : State :=
  s.mapThreads fun x => if x.id ∈ b then { x with nextAt := Nat.max x.nextAt (s.clock.cycle + 1) } else x

/-- The threads of a bundle that its instruction parks. -/
def State.parkers (old : State) (b : List ThreadId) (s : State) : List ThreadId :=
  b.filter fun t => ((old.thread? t).map fun x => x.park.isNone).getD false && ((s.thread? t).map fun x => x.park.isSome).getD false

/-- A bundle that would post a record on a full die: the threads that would park are not ready, and the quadrant picks again
without them; where none would, the whole bundle waits. -/
def State.heldPick (s p t : State) : State :=
  match State.parkers s p.issue.bundle t with
  | [] => let h := s.holdBack p.issue.bundle; { h with clock := { h.clock with turn := p.clock.turn } }
  | b => s.holdBack b

/-- PICK_BUNDLE and the effect of what issues. -/
def runPick (s : State) : Out :=
  match execPickBundle s with
  | .next p =>
    match p.issued with
    | .next t => if State.overfull s t then closeOut s (.next (s.heldPick p t)) else closeOut s (.next t)
    | x => x
  | x => x

/-- What happens where the agenda names nothing: an event that is due, or the pick. -/
def runFree (s : State) : Out :=
  match s.auto with
  | some t => closeOut s (.next t)
  | none => runPick s

/-- The agenda's next event. One that would post a record on a full die waits, and the machine goes on (R343). -/
def runAgenda (i : Instr) (rest : List Instr) (s : State) : Out :=
  if Instr.wf i && isEvent i then
    match exec i { s with agenda := rest } with
    | .next t => if State.overfull s t then runFree s else closeOut s (.next t)
    | x => x
  else .refused .illFormed

/-! ## Placing an instruction -/

/-- Where a placed instruction stands: virtual and physical address, and its leaf entry. -/
def placePc : Nat := 65536
def placeAt : Nat := 65536
def placeLeaf : Nat := 131072

def placeDesc : Desc :=
  { width := 8, ngroups := 1, tpc := 1, regs := 256, wb := 0, lease := 0, spad := 0, tiles := [], entry := placePc }

def placeGrid : Grid :=
  { id := 0, part := 0, vf := 0, tenant := 0, reqtag := 0, prio := 0, coop := false, fast := false, half := 0, l1share := 1,
    nteams := 1, desc := placeDesc, capTab := [], chain := 0, entry := 0, placed := 1, ended := 0, killed := false,
    purged := false, paused := false, complete := false, since := 0 }

def placeCore : CoreId := { die := 0, core := 0 }

def placeId : ThreadId := { grid := 0, team := 0, group := 0, tid := 0 }

/-- The one thread, in its one group and team, as a launch starts them. -/
def placeThread (now tick : Nat) : Thread := newThread placeGrid placeId placeCore 0 0 now tick

def placeGroup (now : Nat) : Group :=
  { newGroup placeGrid { grid := 0, team := 0, group := 0 } placeCore 0 0 now with
    masks := 1 :: List.replicate 7 0, reserve := 8, act := .active, started := true }

/-- The cached translation through which the instruction is fetched. -/
def placeTlb : TlbEntry :=
  { at_ := placeLeaf, vf := 0, vpage := 1, size := 65536, frame := placeAt, rd := true, w := true, x := true, remote := none }

/-- The twelve bytes of an instruction at an address: no word is longer. -/
def placeBytes (mem : List Host.Cell) (nbits w : Nat) : List Host.Cell := Memory.writeN mem placeAt (natLE 12 (w % 2 ^ nbits))

/-- A machine whose next step fetches and runs a placed instruction: die 0 in Noon, one thread of a launch at it, nothing
else in progress. -/
def State.placed (s : State) (nbits w : Nat) : State :=
  let now := s.clock.cycle
  { s with
    agenda := [], issue := { slot := none, bundle := [], pc := 0, word := 0, len := 0, num := 0, work := [] },
    clock := { s.clock with turn := 0, windows := now / 4096, fresh := 1 },
    threads := [placeThread now s.clock.tick], groups := [placeGroup now], teams := [newTeam placeGrid 0 placeCore 0],
    grids := [placeGrid], ops := [], cmds := [], cores := [], quads := [(0, { Quad.reset with tlb := [placeTlb] })],
    dies := [(0, { Die.reset with st := .noon, attested := true, scrubStart := now })],
    mem := placeBytes s.mem nbits w, chains := [], parts := [(0, { Part.unset with quads := [{ die := 0, core := 0, quad := 0 }] })],
    vfs := [(0, { Vf.unset with enabled := true })], ports := [], links := [], root := { Root.reset with lastRoll := now } }

end Sys2Proof.Machine
end

