-- ==== Sys2Proof/Safety.lean ====
section
/-! DEFINITION. The terms in which statements speak: what an instruction leaves unchanged, what a lane of it does, and the
values that the tables of the spec give, written from those tables apart from the meanings. -/

namespace Sys2Proof.Machine
open Host

/-! ## What an instruction does to a thread and to the state -/

/-- The value that register number r holds between issues (R46: register 0 reads zero). -/
def Thread.held (t : Thread) (r : Nat) : Word := if r = 0 then 0 else tget 0 t.regs r

/-- The latest value that a list of register writes gives register r. -/
def written (ws : List (Nat × Word)) (r : Nat) : Option Word := (ws.reverse.find? fun w => decide (w.1 = r)).map Prod.snd

/-- `u'` is `u` after the register writes `ws`, in order: every other register, and every other part of the thread, stays;
register 0 stays zero (R46); a written register is a value and no recipe (R155), and is no longer poisoned (R344). -/
structure Wrote (ws : List (Nat × Word)) (u u' : Thread) : Prop where
  held : ∀ r, u'.held r = if r = 0 then 0 else (written ws r).getD (u.held r)
  form : ∀ r, tget RForm.value u'.forms r =
    if r ≠ 0 ∧ (written ws r).isSome then RForm.value else tget RForm.value u.forms r
  poison : ∀ r, r ∈ u'.poisoned ↔ r ∈ u.poisoned ∧ ¬(r ≠ 0 ∧ (written ws r).isSome)
  rest : u' = { u with regs := u'.regs, forms := u'.forms, poisoned := u'.poisoned }

/-- `t'` is the thread `u` once it has the register writes `ws` and has retired. -/
def Retired (u : Thread) (ws : List (Nat × Word)) (t' : Thread) : Prop := ∃ u', Wrote ws u u' ∧ t' = u'.retire

/-- `s'` differs from `s` only in its threads: those that `sel` names go over as `post` says, the others stay. -/
structure Threadwise (sel : ThreadId → Prop) (s s' : State) (post : Thread → Thread → Prop) : Prop where
  only : s' = { s with threads := s'.threads }
  ids : s'.threads.map Thread.id = s.threads.map Thread.id
  each : ∀ k t, s.thread? k = some t → ∃ t', s'.thread? k = some t' ∧ (sel k → post t t') ∧ (¬ sel k → t' = t)

/-- The thread is in the bundle being issued. -/
abbrev State.issues (s : State) (k : ThreadId) : Prop := k ∈ s.issue.bundle

/-- The instruction answers a next state that differs only in the threads of its bundle, as `post` says. -/
def Lanewise (i : Instr) (s : State) (post : Thread → Thread → Prop) : Prop :=
  ∃ s', exec i s = .next s' ∧ Threadwise s.issues s s' post

/-- What a lane comes to: it retires with register writes, or it faults. -/
abbrev LaneOut := Except RecInfo (Thread × List (Nat × Word))

/-- A lane's fault at the instruction: FAULTADDR0 is its address, and causes 0x01 and 0x12 carry its word 0 (R36, R342). -/
def laneFault (s : State) (t : Thread) (i : RecInfo) : LaneFault :=
  { th := t.id, resume := s.issue.pc,
    info := { i with addr0 := s.issue.pc, info := if i.cause = 0x01 ∨ i.cause = 0x12 then s.issue.word else i.info } }

/-- A thread whose slice, if it runs one, has ended: a member of it has faulted (R157). -/
def Thread.sliced (t : Thread) : Thread := { t with slice := none }

/-- The lane loop of R36: the lanes that complete retire; in the others at most a slice ends (R157), and the machine takes the
exception of all of them. -/
def LaneLoop (i : Instr) (s : State) (out : Thread → LaneOut) : Prop :=
  ∃ s1, exec i s = .next (s1.raise ((s.threads.filter fun t => decide (t.id ∈ s.issue.bundle)).filterMap fun t =>
      match out t with
      | .error e => some (laneFault s t e)
      | .ok _ => none) none) ∧
    Threadwise s.issues s s1 fun t t' => match out t with
      | .ok (u, ws) => Retired u ws t'
      | .error _ => t' = t.sliced

/-- A wait at an instruction that has not retired: it issues again (R361). -/
def Wait.before : Wait → Bool
  | .fault _ _ _ _ _ _ | .dusk _ | .barArrive _ _ _ _ | .tbarArrive _ _ | .refill _ | .regen _ | .gslot _ => true
  | _ => false

/-- A thread that has parked (R36, R361): cause, addresses and point of resumption; a wait at an instruction that has not
retired ends, any other stays, and with it the step trap owed after it (R153). -/
def ParkedFrom (u : Thread) (c a0 a1 resume : Nat) : Thread :=
  { u with
    park := some { cause := c, addr0 := a0, addr1 := a1, resume := resume }, regen := [], stallAt := none,
    stepOwed := if u.wait = .none ∨ Wait.before u.wait = true then none else u.stepOwed,
    wait := if Wait.before u.wait = true then .none else u.wait }

/-- The instruction writes registers and nothing else: each lane retires with the writes `ws`, its pc at the next
instruction. -/
def WritesRegs (i : Instr) (s : State) (ws : Thread → List (Nat × Word)) : Prop :=
  Lanewise i s fun t t' => Retired { t with pc := s.nextPc } (ws t) t'

/-- The writes of a 32-bit destination field, and of a pair (R45, R46). -/
def one (t : Thread) (d : Nat) (v : Word) : List (Nat × Word) := [(regNo t.wb d, v)]
def two (t : Thread) (d : Nat) (v : DWord) : List (Nat × Word) :=
  [(regNo t.wb d, v.extractLsb' 0 32), (regNo t.wb d + 1, v.extractLsb' 32 32)]

/-! ## Integer results (R37, R96 to R98): N and S read a pattern as unsigned and signed, W wraps -/

abbrev N {w : Nat} (a : BitVec w) : Int := (a.toNat : Int)
abbrev S {w : Nat} (a : BitVec w) : Int := a.toInt
abbrev W (w : Nat) (v : Int) : BitVec w := BitVec.ofInt w v

/-- The two-source integer operations. -/
inductive Int2 where
  | add | sub | and | or | xor | andn | orn | xnor | shl | shr | sra | rol | ror | min | max | minn
  | mul | mulh | mulhn | div | divn | rem | remn | maxn
deriving DecidableEq, Repr

/-- Their results on patterns of width w. -/
def int2 (w : Nat) (o : Int2) (a b : BitVec w) : BitVec w :=
  let n := b.toNat % 64
  let m := n % w
  match o with
  | .add => W w (N a + N b)
  | .sub => W w (N a - N b)
  | .and => a &&& b
  | .or => a ||| b
  | .xor => a ^^^ b
  | .andn => a &&& ~~~b
  | .orn => a ||| ~~~b
  | .xnor => ~~~(a ^^^ b)
  | .shl => if n < w then W w (N a * 2 ^ n) else 0
  | .shr => if n < w then W w (N a / 2 ^ n) else 0
  | .sra => if n < w then W w (S a / 2 ^ n) else if a.msb then W w (-1) else 0
  | .rol => W w (N a * 2 ^ m) ||| W w (N a / 2 ^ (w - m))
  | .ror => W w (N a / 2 ^ m) ||| W w (N a * 2 ^ (w - m))
  | .min => if S a ≤ S b then a else b
  | .max => if S b ≤ S a then a else b
  | .minn => if N a ≤ N b then a else b
  | .mul => W w (N a * N b)
  | .mulh => W w (S a * S b / 2 ^ w)
  | .mulhn => W w (N a * N b / 2 ^ w)
  | .div => if N b = 0 then W w (-1) else if S a = -2 ^ (w - 1) ∧ S b = -1 then a else W w ((S a).tdiv (S b))
  | .divn => if N b = 0 then W w (-1) else W w (N a / N b)
  | .rem => if N b = 0 then a else if S a = -2 ^ (w - 1) ∧ S b = -1 then 0 else W w (S a - S b * (S a).tdiv (S b))
  | .remn => if N b = 0 then a else W w (N a % N b)
  | .maxn => if N b ≤ N a then a else b

/-- The rows of INT0, INT1 and INT2, and MAXN: operation, destination and source fields. -/
def int32 : Instr → Option (Int2 × Nat × Nat × Nat)
  | .add d a b => some (.add, d, a, b)
  | .sub d a b => some (.sub, d, a, b)
  | .and d a b => some (.and, d, a, b)
  | .or d a b => some (.or, d, a, b)
  | .xor d a b => some (.xor, d, a, b)
  | .andn d a b => some (.andn, d, a, b)
  | .orn d a b => some (.orn, d, a, b)
  | .xnor d a b => some (.xnor, d, a, b)
  | .shl d a b => some (.shl, d, a, b)
  | .shr d a b => some (.shr, d, a, b)
  | .sra d a b => some (.sra, d, a, b)
  | .rol d a b => some (.rol, d, a, b)
  | .ror d a b => some (.ror, d, a, b)
  | .min d a b => some (.min, d, a, b)
  | .max d a b => some (.max, d, a, b)
  | .minn d a b => some (.minn, d, a, b)
  | .mul d a b => some (.mul, d, a, b)
  | .mulh d a b => some (.mulh, d, a, b)
  | .mulhn d a b => some (.mulhn, d, a, b)
  | .div d a b => some (.div, d, a, b)
  | .divn d a b => some (.divn, d, a, b)
  | .rem d a b => some (.rem, d, a, b)
  | .remn d a b => some (.remn, d, a, b)
  | .maxn d a b => some (.maxn, d, a, b)
  | _ => none

/-- The rows of their 64-bit forms (R93). -/
def int64 : Instr → Option (Int2 × Nat × Nat × Nat)
  | .add64 d a b => some (.add, d, a, b)
  | .sub64 d a b => some (.sub, d, a, b)
  | .and64 d a b => some (.and, d, a, b)
  | .or64 d a b => some (.or, d, a, b)
  | .xor64 d a b => some (.xor, d, a, b)
  | .andn64 d a b => some (.andn, d, a, b)
  | .orn64 d a b => some (.orn, d, a, b)
  | .xnor64 d a b => some (.xnor, d, a, b)
  | .shl64 d a b => some (.shl, d, a, b)
  | .shr64 d a b => some (.shr, d, a, b)
  | .sra64 d a b => some (.sra, d, a, b)
  | .rol64 d a b => some (.rol, d, a, b)
  | .ror64 d a b => some (.ror, d, a, b)
  | .min64 d a b => some (.min, d, a, b)
  | .max64 d a b => some (.max, d, a, b)
  | .minn64 d a b => some (.minn, d, a, b)
  | .mul64 d a b => some (.mul, d, a, b)
  | .mulh64 d a b => some (.mulh, d, a, b)
  | .mulhn64 d a b => some (.mulhn, d, a, b)
  | .div64 d a b => some (.div, d, a, b)
  | .divn64 d a b => some (.divn, d, a, b)
  | .rem64 d a b => some (.rem, d, a, b)
  | .remn64 d a b => some (.remn, d, a, b)
  | .maxn64 d a b => some (.maxn, d, a, b)
  | _ => none

/-! ## Elements (R51): element i of width e of a number, and the number whose elements are given -/

def elemAt (e x i : Nat) : Nat := x / 2 ^ (e * i) % 2 ^ e
def ofElems (e n : Nat) (f : Nat → Nat) : Nat := ((List.range n).map fun i => f i * 2 ^ (e * i)).sum

/-- A pattern of width e read as signed or unsigned, and a value wrapped or clamped into such a pattern. -/
def readEl (sg : Bool) (e x : Nat) : Int := if sg then (BitVec.ofNat e x).toInt else (x : Int)
def clampEl (sg : Bool) (e : Nat) (v : Int) : Int :=
  if sg then max (-2 ^ (e - 1)) (min v (2 ^ (e - 1) - 1)) else max 0 (min v (2 ^ e - 1))
def storeEl (sg sat : Bool) (e : Nat) (v : Int) : Nat := (W e (if sat then clampEl sg e v else v)).toNat

/-! ## Bit counts (R100) -/

/-- The elementwise operations of INT3. -/
inductive Int3 where
  | clz | ctz | ffs | popc | brev | abs
deriving DecidableEq, Repr

def lowZeros (e x : Nat) : Nat := ((List.range e).takeWhile fun j => !x.testBit j).length

def int3Val (o : Int3) (e x : Nat) : Nat :=
  match o with
  | .clz => ((List.range e).reverse.takeWhile fun j => !x.testBit j).length
  | .ctz => lowZeros e x
  | .ffs => if x = 0 then 0 else 1 + lowZeros e x
  | .popc => ((List.range e).filter fun j => x.testBit j).length
  | .brev => ((List.range e).map fun j => if x.testBit j then 2 ^ (e - 1 - j) else 0).sum
  | .abs => if 0 ≤ readEl true e x then x else (W e (-(readEl true e x))).toNat

def int3Row : Instr → Option (Int3 × EWidth × Nat × Nat)
  | .clz e d a => some (.clz, e, d, a)
  | .ctz e d a => some (.ctz, e, d, a)
  | .ffs e d a => some (.ffs, e, d, a)
  | .popc e d a => some (.popc, e, d, a)
  | .brev e d a => some (.brev, e, d, a)
  | .abs e d a => some (.abs, e, d, a)
  | _ => none

def EWidth.n : EWidth → Nat
  | .w8 => 8 | .w16 => 16 | .w32 => 32 | .w64 => 64

/-- The writes of INT3: each element for itself; at width 64 a pair. -/
def int3Writes (o : Int3) (e : EWidth) (d a : Nat) (t : Thread) : List (Nat × Word) :=
  match e with
  | .w64 => two t d (BitVec.ofNat 64 (int3Val o 64 (t.srcPair a).toNat))
  | _ => one t d (BitVec.ofNat 32 (ofElems (EWidth.n e) (32 / EWidth.n e) fun i =>
      int3Val o (EWidth.n e) (elemAt (EWidth.n e) (t.src a).toNat i)))

/-- The writes of SEXT and ZEXT. -/
def widenWrites (sg : Bool) (e : EWidth) (d a : Nat) (t : Thread) : List (Nat × Word) :=
  let x := (t.src a).toNat
  match e with
  | .w64 => two t d (if sg then W 64 (S (t.src a)) else W 64 (N (t.src a)))
  | _ => one t d (W 32 (readEl sg (EWidth.n e) (x % 2 ^ EWidth.n e)))

/-! ## Packed arithmetic (R105, R106) -/

/-- The operations of PACK by their exact value on x, y and the unsigned element of gB. -/
inductive Pack2 where
  | add | sub | min | max | avg | absd | mul | shl
deriving DecidableEq, Repr

def packVal (o : Pack2) (x y : Int) (c : Nat) : Int :=
  match o with
  | .add => x + y
  | .sub => x - y
  | .min => min x y
  | .max => max x y
  | .avg => (x + y + 1) / 2
  | .absd => (x - y).natAbs
  | .mul => x * y
  | .shl => x * 2 ^ c

def packRow : Instr → Option (Pack2 × PackTy × Bool × Nat × Nat × Nat)
  | .packAdd ty sat d a b => some (.add, ty, sat, d, a, b)
  | .packSub ty sat d a b => some (.sub, ty, sat, d, a, b)
  | .packMin ty sat d a b => some (.min, ty, sat, d, a, b)
  | .packMax ty sat d a b => some (.max, ty, sat, d, a, b)
  | .avg ty sat d a b => some (.avg, ty, sat, d, a, b)
  | .absd ty sat d a b => some (.absd, ty, sat, d, a, b)
  | .packMul ty sat d a b => some (.mul, ty, sat, d, a, b)
  | .packShl ty sat d a b => some (.shl, ty, sat, d, a, b)
  | _ => none

/-- Element width and signedness of a packed type. -/
def PackTy.e : PackTy → Nat
  | .s8x4 | .n8x4 => 8
  | .s16x2 | .n16x2 => 16
def PackTy.sg : PackTy → Bool
  | .s8x4 | .s16x2 => true
  | .n8x4 | .n16x2 => false

def packResult (o : Pack2) (ty : PackTy) (sat : Bool) (a b : Word) : Word :=
  let e := PackTy.e ty
  let sg := PackTy.sg ty
  BitVec.ofNat 32 (ofElems e (32 / e) fun i =>
    storeEl sg sat e (packVal o (readEl sg e (elemAt e a.toNat i)) (readEl sg e (elemAt e b.toNat i)) (elemAt e b.toNat i)))

/-! ## Multiply-add (R108) -/

/-- The sum of c and the products of the elements, or of their distances. -/
def sumElems (e : Nat) (f : Nat → Int) (c : Int) : Int := c + ((List.range (32 / e)).map f).sum

def madOut32 (sg sat : Bool) (v : Int) : Word := W 32 (if sat then clampEl sg 32 v else v)

def dotResult (e : Nat) (sa sb sat : Bool) (a b c : Word) : Word :=
  madOut32 (sa || sb) sat (sumElems e (fun i => readEl sa e (elemAt e a.toNat i) * readEl sb e (elemAt e b.toNat i))
    (if sa || sb then S c else N c))

def sadResult (ty : PackTy) (sat : Bool) (a b c : Word) : Word :=
  let e := PackTy.e ty
  madOut32 false sat (sumElems e (fun i =>
    ((readEl (PackTy.sg ty) e (elemAt e a.toNat i) - readEl (PackTy.sg ty) e (elemAt e b.toNat i)).natAbs : Int)) (N c))

/-- The writes of the multiply-add instructions. -/
def madWrites (t : Thread) : Instr → Option (List (Nat × Word))
  | .mad d a b c => some (one t d (W 32 (N (t.src a) * N (t.src b) + N (t.src c))))
  | .madh d a b c => some (one t d (W 32 (S (t.src a) * S (t.src b) / 2 ^ 32 + N (t.src c))))
  | .madhn d a b c => some (one t d (W 32 (N (t.src a) * N (t.src b) / 2 ^ 32 + N (t.src c))))
  | .mad64 true d a b c => some (two t d (W 64 (S (t.src a) * S (t.src b) + N (t.srcPair c))))
  | .mad64 false d a b c => some (two t d (W 64 (N (t.src a) * N (t.src b) + N (t.srcPair c))))
  | .dp4 sa sb sat d a b c => some (one t d (dotResult 8 sa sb sat (t.src a) (t.src b) (t.src c)))
  | .dp2 sa sb sat d a b c => some (one t d (dotResult 16 sa sb sat (t.src a) (t.src b) (t.src c)))
  | .sad ty sat d a b c => some (one t d (sadResult ty sat (t.src a) (t.src b) (t.src c)))
  | _ => none

/-! ## Bit fields, gathers, funnels, logic (R110 to R113), by the bits of the result -/

/-- The word whose bit j is `f j`. -/
def ofBits (f : Nat → Bool) : Word := BitVec.ofNat 32 (ofElems 1 32 fun j => if f j then 1 else 0)

def bitFieldWrites (t : Thread) : Instr → Option (List (Nat × Word))
  | .bfx d a pos len =>
    let l := min len (32 - pos)
    some (one t d (ofBits fun j => decide (l ≠ 0) && (t.src a).getLsbD (pos + min j (l - 1))))
  | .bfxn d a pos len =>
    let l := min len (32 - pos)
    some (one t d (ofBits fun j => decide (j < l) && (t.src a).getLsbD (pos + j)))
  | .bfi d a b pos len =>
    let l := min len (32 - pos)
    some (one t d (ofBits fun j => if pos ≤ j ∧ j < pos + l then (t.src a).getLsbD (j - pos) else (t.src b).getLsbD j))
  | .bgath d a b sel =>
    let x := (t.src a).toNat + (t.src b).toNat * 2 ^ 32
    some (one t d (BitVec.ofNat 32 (ofElems 8 4 fun i =>
      if elemAt 4 sel i < 8 then elemAt 8 x (elemAt 4 sel i) else 0)))
  | .span rot d a b n =>
    let k := match n with | .reg c => (t.src c).toNat % 64 | .imm v => v
    let v := fun j => if j < 32 then (t.src a).getLsbD j else (t.src b).getLsbD (j - 32)
    some (one t d (ofBits fun j => if k + j < 64 then v (k + j) else rot && v (k + j - 64)))
  | .lut3 d a b c tt =>
    let bit := fun (r j : Nat) => if (t.src r).getLsbD j then 1 else 0
    some (one t d (ofBits fun j => tt.testBit (bit a j + 2 * bit b j + 4 * bit c j)))
  | _ => none

/-! ## Immediates (R101 to R104) -/

/-- The immediate forms of R101: operation, destination, source and the value in place of b. -/
def immRow : Instr → Option (Int2 × Nat × Nat × Word)
  | .addi d a i => some (.add, d, a, W 32 i)
  | .addiImm32 d a v => some (.add, d, a, W 32 v)
  | .andi d a i => some (.and, d, a, W 32 i)
  | .andiImm32 d a v => some (.and, d, a, W 32 v)
  | .ori d a i => some (.or, d, a, W 32 i)
  | .oriImm32 d a v => some (.or, d, a, W 32 v)
  | .xori d a i => some (.xor, d, a, W 32 i)
  | .xoriImm32 d a v => some (.xor, d, a, W 32 v)
  | .shli d a n => some (.shl, d, a, W 32 n)
  | .shri d a n => some (.shr, d, a, W 32 n)
  | .srai d a n => some (.sra, d, a, W 32 n)
  | .muli d a i => some (.mul, d, a, W 32 i)
  | .muliImm32 d a v => some (.mul, d, a, W 32 v)
  | _ => none

/-- The writes of LI, LIU and ADDL; LIU and ADDL name anchor registers directly. -/
def loadImmWrites (t : Thread) : Instr → Option (List (Nat × Word))
  | .li d i => some (one t d (W 32 i))
  | .liImm32 d v => some (one t d (W 32 v))
  | .li64 d v => some (two t d (W 64 v))
  | .liu d v => some [(d, W 32 (v * 2 ^ 12))]
  | .addl d a i => some [(d, W 32 (N (t.reg a) + i))]
  | _ => none

/-! ## Floating-point: the elements of an instruction, their modes, flags and draws (R52, R114, R115, R117) -/

/-- The mode that RM selects: DYN reads bits 7:5 of FPCSR (R52, R114). -/
def modeUsed (t : Thread) (rm : Rm) : Rm :=
  if rm = .dyn then
    match (t.fpcsr.extractLsb' 5 3).toNat with
    | 1 => .rz
    | 2 => .rdn
    | 3 => .rup
    | 4 => .rna
    | 5 => .sto
    | _ => .rne
  else rm

/-- The three steps of R117 on the generator's state. -/
def advance (s : Word) : Word :=
  let a := s ^^^ W 32 (N s * 2 ^ 13)
  let b := a ^^^ W 32 (N a / 2 ^ 17)
  b ^^^ W 32 (N b * 2 ^ 5)

/-- The generator after n draws. -/
def drawn (s : Word) : Nat → Word
  | 0 => s
  | n + 1 => advance (drawn s n)

/-- The mode of element k: under STO it carries the draw r = s[31:8] after k + 1 advances. -/
def elementMode (rm : Rm) (s : Word) (k : Nat) : Mode :=
  match rm with
  | .rz => .rz
  | .rdn => .rdn
  | .rup => .rup
  | .rna => .rna
  | .sto => .sto ((drawn s (k + 1)).extractLsb' 8 24).toNat
  | _ => .rne

/-- The bits and flags of element k of the elements `els`, under the mode of the instruction. -/
def elementOut (rm : Rm) (s : Word) (els : List El) (k : Nat) : Nat × Nat :=
  (els.getD k fun _ => (0, 0)) (elementMode rm s k)

/-- The OR of the flags of all elements. -/
def flagsOut (rm : Rm) (s : Word) (els : List El) : Nat :=
  (List.range els.length).foldl (fun f k => f ||| (elementOut rm s els k).2) 0

/-- The generator afterwards: one advance per element under STO, none otherwise. -/
def rngOut (rm : Rm) (s : Word) (els : List El) : Word := if rm = .sto then drawn s els.length else s

/-- What an instruction that computes elements of width `w` under RM delivers: its destination, the flags it adds to FPCSR,
the generator; nothing else of the thread changes. -/
def Delivers (next : Nat) (t : Thread) (dbl : Bool) (w d : Nat) (rm : Rm) (els : List El) (t' : Thread) : Prop :=
  let m := modeUsed t rm
  let v := ofElems w els.length fun k => (elementOut m t.rng els k).1
  Retired { t with pc := next, fpcsr := t.fpcsr ||| BitVec.ofNat 32 (flagsOut m t.rng els % 32), rng := rngOut m t.rng els }
    (if dbl then two t d (BitVec.ofNat 64 v) else one t d (BitVec.ofNat 32 v)) t'

/-- Number of elements, and element i of a source, of a type of FP1. -/
def F1Ty.n : F1Ty → Nat
  | .f32 | .f64 => 1
  | .f16x2 | .bf16x2 => 2
def F1Ty.wide : F1Ty → Bool
  | .f64 => true
  | _ => false
def fltBits (ty : F1Ty) (t : Thread) (a i : Nat) : Nat :=
  elemAt (F1Ty.fmt ty).width (if F1Ty.wide ty then (t.srcPair a).toNat else (t.src a).toNat) i
def flt (ty : F1Ty) (t : Thread) (a i : Nat) : FV := (F1Ty.fmt ty).dec (fltBits ty t a i)

/-- The elements of a type, each computed by f. -/
def elsOf (ty : F1Ty) (f : Nat → El) : List El := (List.range (F1Ty.n ty)).map f

def ofDbl (dbl : Bool) : F1Ty := if dbl then .f64 else .f32
def packTy (bf : Bool) : F1Ty := if bf then .bf16x2 else .f16x2

/-- The arithmetic instructions by type, destination, RM and elements (R120, R122, R123, R126): each element is the exact
result rounded once to the type. -/
def arithRow (t : Thread) : Instr → Option (F1Ty × Nat × Rm × List El)
  | .fadd d a b => some (.f32, d, .rne, elsOf .f32 fun i m => Fmt.f32.add m false (flt .f32 t a i) (flt .f32 t b i))
  | .fsub d a b => some (.f32, d, .rne, elsOf .f32 fun i m => Fmt.f32.add m false (flt .f32 t a i) (flt .f32 t b i).negate)
  | .fmul d a b => some (.f32, d, .rne, elsOf .f32 fun i m => Fmt.f32.mul m false (flt .f32 t a i) (flt .f32 t b i))
  | .faddFp1 ty rm sat d a b => some (ty, d, rm, elsOf ty fun i m => (F1Ty.fmt ty).add m sat (flt ty t a i) (flt ty t b i))
  | .fsubFp1 ty rm sat d a b =>
    some (ty, d, rm, elsOf ty fun i m => (F1Ty.fmt ty).add m sat (flt ty t a i) (flt ty t b i).negate)
  | .fmulFp1 ty rm sat d a b => some (ty, d, rm, elsOf ty fun i m => (F1Ty.fmt ty).mul m sat (flt ty t a i) (flt ty t b i))
  | .ffma ty rm sat d a b c => some (ty, d, rm, elsOf ty fun i m =>
      (F1Ty.fmt ty).add m sat (prod (flt ty t a i) (flt ty t b i)) (flt ty t c i))
  | .ffms ty rm sat d a b c => some (ty, d, rm, elsOf ty fun i m =>
      (F1Ty.fmt ty).add m sat (prod (flt ty t a i) (flt ty t b i)) (flt ty t c i).negate)
  | .fnma ty rm sat d a b c => some (ty, d, rm, elsOf ty fun i m =>
      (F1Ty.fmt ty).add m sat (prod (flt ty t a i) (flt ty t b i)).negate (flt ty t c i))
  | .fnms ty rm sat d a b c => some (ty, d, rm, elsOf ty fun i m =>
      (F1Ty.fmt ty).add m sat (prod (flt ty t a i) (flt ty t b i)).negate (flt ty t c i).negate)
  | .fdot2 bf rm sat d a b c => some (.f32, d, rm, [fun m => Fmt.f32.dot2 m sat (flt (packTy bf) t a 0) (flt (packTy bf) t b 0)
      (flt (packTy bf) t a 1) (flt (packTy bf) t b 1) (flt .f32 t c 0)])
  | .fdiv dbl rm sat d a b => some (ofDbl dbl, d, rm, elsOf (ofDbl dbl) fun i m =>
      (F1Ty.fmt (ofDbl dbl)).div m sat (flt (ofDbl dbl) t a i) (flt (ofDbl dbl) t b i))
  | .fsqrt dbl rm d a => some (ofDbl dbl, d, rm, elsOf (ofDbl dbl) fun i m =>
      (F1Ty.fmt (ofDbl dbl)).sqrt m (flt (ofDbl dbl) t a i))
  | .fscale dbl rm sat d a b => some (ofDbl dbl, d, rm, elsOf (ofDbl dbl) fun i m =>
      (F1Ty.fmt (ofDbl dbl)).scale m sat (fltBits (ofDbl dbl) t a i) (S (t.src b)))
  | .frnd ty rm d a =>
    if modeUsed t rm = .sto then none
    else some (ty, d, rm, elsOf ty fun i m => (F1Ty.fmt ty).rnd m (fltBits ty t a i))
  | _ => none

/-- The class mask of R126 by the fields of the bits. -/
def classMask (F : Fmt) (x : Nat) : Nat :=
  let neg := x.testBit (F.width - 1)
  let e := x / 2 ^ F.man % 2 ^ (F.width - 1 - F.man)
  let m := x % 2 ^ F.man
  if e = 2 ^ (F.width - 1 - F.man) - 1 then
    if m = 0 then if neg then 2 ^ 0 else 2 ^ 7
    else if m.testBit (F.man - 1) then 2 ^ 9 else 2 ^ 8
  else if e = 0 then
    if m = 0 then if neg then 2 ^ 3 else 2 ^ 4
    else if neg then 2 ^ 2 else 2 ^ 5
  else if neg then 2 ^ 1 else 2 ^ 6

/-- The value of FGETX and its NV flag, by the fields of the bits (R126). -/
def getxOut (F : Fmt) (x : Nat) : Word × Nat :=
  let e := x / 2 ^ F.man % 2 ^ (F.width - 1 - F.man)
  let m := x % 2 ^ F.man
  if e = 2 ^ (F.width - 1 - F.man) - 1 then (0x7FFFFFFF, if m ≠ 0 ∧ m.testBit (F.man - 1) = false then 1 else 0)
  else if e = 0 then if m = 0 then (0x80000000, 0) else (W 32 (F.emin - F.man + Nat.log2 m), 0)
  else (W 32 (F.emin + e - 1), 0)

/-- What FMIN, FMAX, FCPYS, FABS, FNEG, FCLASS and FGETX write, and the flags they add. -/
def pickRow : Instr → Option (Thread → List (Nat × Word) × Nat)
  | .fmin d a b => some fun t => flagged t d (Fmt.f32.minmax false (t.src a).toNat (t.src b).toNat)
  | .fmax d a b => some fun t => flagged t d (Fmt.f32.minmax true (t.src a).toNat (t.src b).toNat)
  | .fcpys d a b => some fun t => (one t d ((t.src b).extractLsb' 31 1 ++ (t.src a).extractLsb' 0 31), 0)
  | .fabs d a => some fun t => (one t d (0#1 ++ (t.src a).extractLsb' 0 31), 0)
  | .fneg d a => some fun t => (one t d (~~~((t.src a).extractLsb' 31 1) ++ (t.src a).extractLsb' 0 31), 0)
  | .fclass dbl d a => some fun t =>
    (one t d (W 32 (classMask (F1Ty.fmt (ofDbl dbl)) (fltBits (ofDbl dbl) t a 0))), 0)
  | .fgetx dbl d a => some fun t =>
    let r := getxOut (F1Ty.fmt (ofDbl dbl)) (fltBits (ofDbl dbl) t a 0)
    (one t d r.1, r.2)
  | _ => none
where
  flagged (t : Thread) (d : Nat) (r : Nat × Nat) : List (Nat × Word) × Nat := (one t d (BitVec.ofNat 32 r.1), r.2)

/-! ## The approximate functions (R124, R125) -/

def approxRow : Instr → Option (ApproxFn × F1Ty × Nat × Nat)
  | .frcp dbl d a => some (.rcp, ofDbl dbl, d, a)
  | .frsq dbl d a => some (.rsq, ofDbl dbl, d, a)
  | .fexp2 ty d a => some (.exp2, F2Ty.f1 ty, d, a)
  | .flog2 ty d a => some (.log2, F2Ty.f1 ty, d, a)
  | .fsin ty d a => some (.sin, F2Ty.f1 ty, d, a)
  | .fcos ty d a => some (.cos, F2Ty.f1 ty, d, a)
  | .ftanh ty d a => some (.tanh, F2Ty.f1 ty, d, a)
  | .fsigm ty d a => some (.sigm, F2Ty.f1 ty, d, a)
  | _ => none

/-- The values 1.0 and 0.5 of a format. -/
def Fmt.one (F : Fmt) : Nat := (1 - F.emin).toNat * 2 ^ F.man
def Fmt.half (F : Fmt) : Nat := (-F.emin).toNat * 2 ^ F.man

/-- The special values of R125: the bits and flags, for the inputs its table lists. -/
def specialOf (F : Fmt) (fn : ApproxFn) (x : FV) : Option (Nat × Nat) :=
  let inf : Nat := F.infBits.getD 0
  match x, fn with
  | .nan sig, _ => some (F.nanBits, if sig then 1 else 0)
  | .inf n, .rcp => some (F.signBit n, 0)
  | .inf true, .rsq | .inf true, .log2 => some (F.nanBits, 1)
  | .inf false, .rsq => some (0, 0)
  | .inf false, .log2 | .inf false, .exp2 => some (inf, 0)
  | .inf true, .exp2 => some (0, 0)
  | .inf _, .sin | .inf _, .cos => some (F.nanBits, 1)
  | .inf n, .tanh => some (F.signBit n + F.one, 0)
  | .inf n, .sigm => some (if n then 0 else F.one, 0)
  | .fin n 0 _, .rcp | .fin n 0 _, .rsq => some (F.signBit n + inf, 2)
  | .fin _ 0 _, .log2 => some (F.signBit true + inf, 2)
  | .fin _ 0 _, .exp2 | .fin _ 0 _, .cos => some (F.one, 0)
  | .fin n 0 _, .sin | .fin n 0 _, .tanh => some (F.signBit n, 0)
  | .fin _ 0 _, .sigm => some (F.half, 0)
  | .fin true _ _, .rsq | .fin true _ _, .log2 => some (F.nanBits, 1)
  | _, _ => none

/-- R124 and R125 of a function `g` on the bits of a format, at its finite nonzero inputs that R125's table does not list by
name: FEXP2 falls to +0 with UF or rises to infinity with OF outside its range, FLOG2 of 1.0 is +0, and any other result comes
with no flag and differs from the reference by no more than the bound of R124, or is the reference rounded to nearest. -/
def ApproxWithin (F : Fmt) (fn : ApproxFn) (g : Nat → Nat × Nat) : Prop :=
  ∀ x neg m e, x < 2 ^ F.width → F.dec x = .fin neg m e → m ≠ 0 → (neg = true → fn ≠ .rsq ∧ fn ≠ .log2) →
    if fn = .exp2 ∧ neg = true ∧ magLt 150 0 m e = true then g x = (0, fUF)
    else if fn = .exp2 ∧ neg = false ∧ magLt m e 128 0 = false then g x = (F.infBits.getD 0, fOF)
    else if fn = .log2 ∧ x = F.one then g x = (0, 0)
    else
      let r := approxRef fn neg m e
      let b := approxBound F fn (F.dec x) r
      (g x).2 = 0 ∧ (r.n ≠ 0 →
        within (F.dec (g x).1) r b.1 b.2 = true ∨ (g x).1 = (F.round .rne false r.neg r.n r.d).1)

/-- An element type computes through f32 (R124): the element's bits widened, the function's value rounded to nearest. -/
def ThroughF32 (F : Fmt) (g32 g : Nat → Nat × Nat) : Prop :=
  ∀ x neg m e, F.dec x = .fin neg m e →
    (g x).1 = F.fromF32 (g32 (Fmt.f32.roundZ .rne false (if neg then -(m : Int) else m) e neg).1).1

/-! ## Conversions (R127 to R131) -/

/-- A scalar of a type as CVT writes it: a pair for the 64-bit types, an s16 or s8 sign-extended. -/
def scalarWrites (t : Thread) (ty : Ty) (d x : Nat) : List (Nat × Word) :=
  match ty with
  | .s64 | .n64 | .f64 => two t d (BitVec.ofNat 64 x)
  | .s16 => one t d (W 32 (readEl true 16 x))
  | .s8 => one t d (W 32 (readEl true 8 x))
  | _ => one t d (BitVec.ofNat 32 x)

def scalarSrc (t : Thread) (ty : Ty) (a : Nat) : Nat :=
  match ty with
  | .s64 | .n64 | .f64 => (t.srcPair a).toNat
  | _ => (t.src a).toNat

/-- The mode of a conversion, the elements it computes, and what it writes from their values. -/
def cvtRow : Instr → Option (Rm × (Thread → List El) × (Thread → List Nat → List (Nat × Word)))
  | .cvt dt st rm sat d a =>
    some (rm, fun t => [convert dt st sat (scalarSrc t st a)], fun t v => scalarWrites t dt d (v.getD 0 0))
  | .cvtp dt rm sat d a b c h =>
    some (rm, fun t => [convert dt .f32 sat (t.src a).toNat, convert dt .f32 sat (t.src b).toNat], fun t v =>
      let w := CvtClass.width (Ty.cvtClass dt)
      let k := if w = 16 then 0 else h * 2
      one t d (BitVec.ofNat 32 (ofElems w (32 / w) fun i =>
        if i = k then v.getD 0 0 else if i = k + 1 then v.getD 1 0 else elemAt w (t.src c).toNat i)))
  | .cvte dt st rm sat d a i =>
    some (rm, fun t => [convert dt st sat (elemAt (CvtClass.width (Ty.cvtClass st)) (t.src a).toNat i)],
      fun t v => scalarWrites t dt d (v.getD 0 0))
  | _ => none

/-! ## Compares, predicates, select (R47 to R50, R145 to R148) -/

/-- The conditions of CMP on patterns of width w: signed types compare as signed, LO to HS as unsigned. -/
def cmpHolds (cc : IntCond) (sg : Bool) (w : Nat) (x y : BitVec w) : Bool :=
  let a : Int := if sg then S x else N x
  let b : Int := if sg then S y else N y
  match cc with
  | .eq => decide (x = y)
  | .ne => decide (x ≠ y)
  | .lt => decide (a < b)
  | .le => decide (a ≤ b)
  | .gt => decide (a > b)
  | .ge => decide (a ≥ b)
  | .lo => decide (N x < N y)
  | .ls => decide (N x ≤ N y)
  | .hi => decide (N x > N y)
  | .hs => decide (N x ≥ N y)
  | .bits => decide (x &&& y ≠ 0)
  | .nbits => decide (x &&& y = 0)

/-- A register operand of a compare at width w: a pair at 64 bits, else the low bits of the register. -/
def cmpReg (w : Nat) (t : Thread) (r : Nat) : BitVec w :=
  if w = 64 then (t.srcPair r).setWidth w else (t.src r).setWidth w

def IntTy.w : IntTy → Nat
  | .s8 | .n8 => 8
  | .s16 | .n16 => 16
  | .s32 | .n32 => 32
  | .s64 | .n64 => 64
def IntTy.sg : IntTy → Bool
  | .s8 | .s16 | .s32 | .s64 => true
  | _ => false

/-- Operand B of CMP: IMM16 is sign-extended for an s type and zero-extended for an n type. -/
def cmpB (ty : IntTy) (t : Thread) (b : CmpB) : BitVec (IntTy.w ty) :=
  match b with
  | .reg r => cmpReg (IntTy.w ty) t r
  | .imm v => W (IntTy.w ty) (if IntTy.sg ty then (BitVec.ofNat 16 v).toInt else v)

/-- Operand B of FCMP: IMM16 stands in the highest 16 bits of the type. -/
def fcmpB (ty : FltTy) (t : Thread) (b : CmpB) : Nat :=
  match b with
  | .reg r => (cmpReg (FltTy.fmt ty).width t r).toNat
  | .imm v => v * 2 ^ ((FltTy.fmt ty).width - 16)

/-- The conditions of FCMP: `o` is none when unordered, else how A compares with B. -/
def fcmpHolds (cc : FltCond) (o : Option Int) : Bool :=
  match cc, o with
  | .eq, some v => decide (v = 0)
  | .ne, some v => decide (v ≠ 0)
  | .lt, some v | .ltu, some v => decide (v < 0)
  | .le, some v | .leu, some v => decide (v ≤ 0)
  | .gt, some v | .gtu, some v => decide (v > 0)
  | .ge, some v | .geu, some v => decide (v ≥ 0)
  | .equ, some v => decide (v = 0)
  | .ord, some _ => true
  | .un, some _ => false
  | .ne, none | .un, none | .equ, none | .ltu, none | .leu, none | .gtu, none | .geu, none => true
  | .eq, none | .lt, none | .le, none | .gt, none | .ge, none | .ord, none => false

/-- FCMP raises NV for a signalling NaN, and with LT, LE, GT and GE for any NaN (R115). -/
def fcmpNv (cc : FltCond) (x y : FV) : Bool :=
  x.isSig || y.isSig || (decide (cc ∈ [FltCond.lt, .le, .gt, .ge]) && (x.isNan || y.isNan))

/-- Predicate q of a thread: predicate 0 reads 1. -/
def Thread.q (t : Thread) (q : Nat) : Bool := decide (q = 0) || t.preds.testBit q

/-- What a compare writes to the predicates that Q1 and Q2 name, from their old values and c (R49). -/
def comb (ct : Ct) (c p1 p2 : Bool) : Bool × Bool :=
  match ct with
  | .set => (c, !c)
  | .nest => (p2 && c, p2 && !c)
  | .meet => (p1 && c, p2 || !c)
  | .join => (p1 || c, p2 && !c)
  | .meetn => (p1 && !c, p2 || c)
  | .joinn => (p1 || !c, p2 && c)
  | .one => (c, p2)

/-- `t'` is `t` with its predicates as `f` says, predicate 0 aside, and FPCSR with the flags `fl` added. -/
def Predicates (next : Nat) (t : Thread) (f : Nat → Bool) (fl : Nat) (t' : Thread) : Prop :=
  ∃ u : Thread, u = { t with pc := next, preds := u.preds, fpcsr := t.fpcsr ||| BitVec.ofNat 32 fl } ∧
    (∀ q, q ≠ 0 → u.q q = f q) ∧ t' = u.retire

/-- The predicates after a compare that names q1 and q2. -/
def afterCompare (t : Thread) (ct : Ct) (q1 q2 : Nat) (c : Bool) (q : Nat) : Bool :=
  if q = q2 ∧ ct ≠ .one then (comb ct c (t.q q1) (t.q q2)).2
  else if q = q1 then (comb ct c (t.q q1) (t.q q2)).1
  else t.q q

/-! ## Cross-lane instructions (R133 to R136); `ps` are the participants, in ascending TID -/

/-- The value of lane u's source field, itself a participant or not. -/
def laneVal (dbl : Bool) (a : Nat) (ps : List Thread) (u : Nat) : Option Nat :=
  (ps.find? fun x => decide (x.id.tid = u)).map fun x => if dbl then (x.srcPair a).toNat else (x.src a).toNat

def writes (dbl : Bool) (t : Thread) (d v : Nat) : List (Nat × Word) :=
  if dbl then two t d (BitVec.ofNat 64 v) else one t d (BitVec.ofNat 32 v)

/-- The source lane of each LGET mode in a thread, of W lanes; none: the zero fill of LGET.shift. -/
def lgetRow : Instr → Option (Bool × Nat × Nat × Nat × (Thread → Nat → Option Int))
  | .lgetIdx dbl d a b j => some (dbl, d, a, j, fun t w => some (sel t b % w))
  | .lgetRot dbl d a b j => some (dbl, d, a, j, fun t w => some ((t.id.tid - sel t b) % w))
  | .lgetXor dbl d a b j => some (dbl, d, a, j, fun t w => some ((t.id.tid ^^^ (sel t b).toNat : Nat) % w))
  | .lgetShift dbl d a b j => some (dbl, d, a, j, fun t w =>
      let x : Int := t.id.tid - (match b with | .reg r => S (t.src r) | .imm n => n)
      if x < 0 ∨ x ≥ w then none else some x)
  | _ => none
where
  sel (t : Thread) (b : LaneSel) : Int := match b with | .reg r => N (t.src r) | .imm n => n

def lgetVal (dbl : Bool) (a : Nat) (ps : List Thread) (t : Thread) (src : Option Int) : Nat :=
  match src with
  | none => 0
  | some u => (laneVal dbl a ps u.toNat).getD (if dbl then (t.srcPair a).toNat else (t.src a).toNat)

/-- The pattern of 64 bits with the bits of the listed TIDs. -/
def maskBits (l : List Nat) : Nat := ((List.range 64).map fun u => if u ∈ l then 2 ^ u else 0).sum

/-- CENSUS: whether its result is a pair, and the result. -/
def censusVal (m : CensusMode) (a : Nat) (ps : List Thread) (t : Thread) : Bool × Nat :=
  let p := fun u : Thread => decide (u.src a ≠ 0)
  match m with
  | .all => (false, if ∀ u ∈ ps, u.src a ≠ 0 then 1 else 0)
  | .any => (false, if ∃ u ∈ ps, u.src a ≠ 0 then 1 else 0)
  | .same => (false, if ∀ u ∈ ps, u.src a = t.src a then 1 else 0)
  | .mask => (true, maskBits ((ps.filter p).map fun u => u.id.tid))
  | .count => (false, ps.countP p)
  | .first => (false, ((ps.find? p).map fun u => u.id.tid).getD 0xFFFFFFFF)
  | .rank => (false, ps.countP fun u => p u && decide (u.id.tid < t.id.tid))

def peersVal (dbl : Bool) (a : Nat) (ps : List Thread) (t : Thread) : Nat :=
  maskBits ((ps.filter fun u => decide (if dbl then u.srcPair a = t.srcPair a else u.src a = t.src a)).map fun u => u.id.tid)

/-- One combination of RED and SCAN on patterns of the operator's width (R136). -/
def redStep (op : RedOp) (x y : Nat) : Nat × Nat :=
  match op with
  | .int o ty =>
    let w := RedTy.bits ty
    let u := BitVec.ofNat w x
    let v := BitVec.ofNat w y
    let le := if RedTy.signed ty then decide (S u ≤ S v) else decide (N u ≤ N v)
    (match o with
      | .add => (u + v).toNat
      | .min => if le then x else y
      | .max => if le then y else x
      | .and => (u &&& v).toNat
      | .or => (u ||| v).toNat
      | .xor => (u ^^^ v).toNat, 0)
  | .fadd dbl rm =>
    let F := if dbl then Fmt.f64 else Fmt.f32
    F.add (elementMode rm 0 0) false (F.dec x) (F.dec y)
  | .fmax dbl => (if dbl then Fmt.f64 else Fmt.f32).minmax true x y

def redWide : RedOp → Bool
  | .int _ .s64 | .int _ .n64 => true
  | .int _ _ => false
  | .fadd dbl _ | .fmax dbl => dbl

/-- The identity of an operator. -/
def redZero (op : RedOp) : Nat :=
  match op with
  | .int .and ty => 2 ^ RedTy.bits ty - 1
  | .int .min ty => if RedTy.signed ty then 2 ^ (RedTy.bits ty - 1) - 1 else 2 ^ RedTy.bits ty - 1
  | .int .max ty => if RedTy.signed ty then 2 ^ (RedTy.bits ty - 1) else 0
  | .fmax dbl => if dbl then Fmt.f64.signBit true + 0x7FF0000000000000 else Fmt.f32.signBit true + 0x7F800000
  | _ => 0

/-- Two positions combine; an absent one passes the other through. -/
def redJoin (op : RedOp) : Option Nat → Option Nat → Option Nat × Nat
  | some x, some y => (some (redApp op x y).1, (redApp op x y).2)
  | some x, none => (some x, 0)
  | none, y => (y, 0)

/-- The fixed tree of RED over `n` levels: positions 2i and 2i + 1 combine into position i. -/
def redTree (op : RedOp) (w : Nat) : Nat → (Nat → Option Nat) → Option Nat × Nat
  | 0, f => (f 0, 0)
  | n + 1, f =>
    let r := redTree op w n fun i => (redJoin op (f (2 * i)) (f (2 * i + 1))).1
    (r.1, (List.range w).foldl (fun a i => a ||| (redJoin op (f (2 * i)) (f (2 * i + 1))).2) r.2)

/-- The sequential combination of SCAN: the identity before the first value. -/
def scanFold (op : RedOp) : List Nat → Nat × Nat
  | [] => (redZero op, 0)
  | x :: r => r.foldl (fun acc y => ((redApp op acc.1 y).1, acc.2 ||| (redApp op acc.1 y).2)) (x, 0)

/-! ## Control -/

/-- Passes (R28): the guard's predicate, negated when N is set. -/
def Thread.guardPasses (t : Thread) (g : Guard) : Bool := if g.neg then !t.q g.q else t.q g.q

/-- A branch target: 4 bytes per word of the offset, in 57 bits (R38, R43). -/
def branchTo (pc : Nat) (off : Int) : Nat := (((pc : Int) + 4 * off) % 2 ^ 57).toNat

/-- What a lane of JR comes to (R144, R326). -/
def jrOut (s : State) (g : Guard) (a l : Nat) (t : Thread) : LaneOut :=
  let v := (t.srcPair a).toNat
  let u : Thread := { t with pc := s.nextPc }
  if ¬ t.guardPasses g then .ok (u, [])
  else if v % 4 ≠ 0 then .error { cause := 0x06, addr1 := v, own := true }
  else if ∃ r ∈ (s.part (s.partOf t.id)).bindings, r.1 ≤ v ∧ v < r.2 then .error { cause := 0x16, addr1 := v, own := true }
  else if v ≥ 2 ^ 57 then .error { cause := 0x02, addr1 := v, own := true }
  else .ok ({ t with pc := v }, if l = 0 then [] else two t l (W 64 s.nextPc))

/-- `s'` differs from `s` in the threads that `sel` names, as `post` says, and in its groups, as `gpost` says. -/
structure Groupwise (sel : ThreadId → Prop) (s s' : State) (post : Thread → Thread → Prop) (gpost : Group → Group → Prop) :
    Prop where
  only : s' = { s with threads := s'.threads, groups := s'.groups }
  ids : s'.threads.map Thread.id = s.threads.map Thread.id
  each : ∀ k t, s.thread? k = some t → ∃ t', s'.thread? k = some t' ∧ (sel k → post t t') ∧ (¬ sel k → t' = t)
  gids : s'.groups.map Group.id = s.groups.map Group.id
  groups : ∀ k g, s.group? k = some g → ∃ g', s'.group? k = some g' ∧ gpost g g'

/-- Thread u of group g is in the bundle. -/
def State.inBundle (s : State) (g : GroupId) (u : Nat) : Prop :=
  ∃ t ∈ s.threads, t.id ∈ s.issue.bundle ∧ t.id.gid = g ∧ t.id.tid = u

/-- Word i of a record. -/
def Record.word (r : Record) (i : Nat) : Nat := r.words.getD i 0

/-- A wait that `w` names is over: the thread, or the wait to which it will return (R214), goes on from a cycle on. -/
def WaitOver (w : Wait → Bool) (cycle : Nat) (t : Thread) : Thread :=
  { t with
    wait := if w t.wait then .none else t.wait,
    nextAt := if w t.wait then Nat.max t.nextAt cycle else t.nextAt,
    redo := t.redo.map fun e => if w e.wait then { e with wait := .none } else e }

def isRejoin (n : Nat) : Wait → Bool
  | .rejoin m => decide (m = n)
  | _ => false
def isSleepBy (cycle : Nat) : Wait → Bool
  | .sleep c => decide (c ≤ cycle)
  | _ => false
def isYieldBy (cycle : Nat) : Wait → Bool
  | .yield c => decide (c ≤ cycle)
  | _ => false

/-- After a change of masks or arrivals each group of the bundle evaluates its masks (R151). -/
def evaluated (s : State) : State := s.bundleGroups.foldl (fun st g => st.evalMasks g) s

/-- The values that RSYS reads (R55): the registers of the thread, its work and its place. -/
def sysVal (s : State) (t : Thread) (n : Nat) : Nat :=
  let gr := s.gridOf t.id
  let g := s.group? t.id.gid
  match n with
  | 0x00 => t.id.tid
  | 0x01 => t.id.group
  | 0x02 => t.id.team
  | 0x03 => t.id.team / (gr.map fun x => x.desc.tpc).getD 0
  | 0x04 => t.id.grid
  | 0x05 => (gr.map fun x => x.desc.width).getD 0
  | 0x06 => (gr.map fun x => x.desc.ngroups).getD 0
  | 0x07 => (gr.map Grid.nteams).getD 0
  | 0x08 => t.lane
  | 0x09 => t.core.core
  | 0x0A => t.quad
  | 0x0B => t.core.die
  | 0x0C => Config.devid.toNat
  | 0x0D => (gr.map Grid.reqtag).getD 0
  | 0x0E => s.clock.cycle % 2 ^ 32
  | 0x0F => t.cyclehi
  | 0x10 => s.retiredOf t.id.gid
  | 0x11 => t.wb
  | 0x12 => t.fpcsr.toNat
  | 0x13 => if t.oobflag then 1 else 0
  | 0x14 => if (g.map Group.step).getD false then 1 else 0
  | 0x15 => (s.part (s.partOf t.id)).schedMode
  | 0x16 => s.dieStateWord
  | 0x17 => s.linkEpochWord t.core.die
  | 0x18 => (g.map fun x => x.declared.getD x.measured).getD 0
  | 0x19 => (g.map Group.lostloc).getD 0
  | 0x1A => (g.map s.rcpstat).getD 0
  | 0x1B => (s.vf (s.vfOf t.id)).tenant
  | 0x1C => t.faultCause
  | 0x1D => t.faultAddr0
  | 0x1E => t.faultAddr1
  | 0x1F => t.phaseno
  | _ => s.viewWord (s.partOf t.id) t.qid (n - 0x20)

/-- What a lane of WSYS comes to (R52, R55, R114, R117). -/
def wsysOut (s : State) (n a : Nat) (t : Thread) : LaneOut :=
  let v := t.src a
  if n = 0x12 then
    if (v.extractLsb' 5 3).toNat ≥ 6 then .error { cause := 0x01 }
    else .ok ({ t with pc := s.nextPc, fpcsr := v &&& 0xFFFF00FF,
                       rng := BitVec.ofNat 32 ((v.extractLsb' 16 16).toNat * 2 ^ 16 + (t.id.tid + 1)) }, [])
  else if n = 0x13 then .ok ({ t with pc := s.nextPc, oobflag := v.getLsbD 0 }, [])
  else .error { cause := 0x01 }

/-- The faults of a trap that the whole bundle takes after its instruction has retired (R141). -/
def trapFaults (s : State) (cause a1 : Nat) : List LaneFault :=
  s.issue.bundle.map fun k =>
    { th := k, resume := s.nextPc, info := { cause := cause, addr0 := s.issue.pc, addr1 := a1, info := a1 } }

/-! ## Accesses (R178 to R194) -/

/-- The bundle is one lane, which executes its instruction for the first time. -/
structure OneLane (s : State) (t : Thread) : Prop where
  bundle : s.bundleThreads = [t]
  lane : s.issue.bundle = [t.id]
  here : s.thread? t.id = some t
  fresh : t.redo = [] ∧ t.counted = none

/-- The thread once its instruction has retired with no write. -/
def Thread.passed (t : Thread) (next : Nat) : Thread := Thread.retire { t with pc := next }

/-- What an access instruction asks: whether its guard passes, its capability register or tile, the index register, the
displacement, whether the capability permits it, and the access itself. -/
structure Ask where
  guard : Bool
  k : Nat
  a : Nat
  disp : Int
  allowed : Bool
  kind : OpKind
  bytes : Nat
  writes : Bool
  cls : CountClass
  dst : Option (Nat × Nat)
  data : List Byte

/-- The bytes of z that consecutive registers from number r hold, lowest first. -/
def bytesFrom (t : Thread) (r z : Nat) : List Byte :=
  (List.range z).map fun i => (t.reg (r + i / 4)).extractLsb' (8 * (i % 4)) 8

def LdSize.n : LdSize → Nat
  | .n8 | .s8 => 1 | .n16 | .s16 => 2 | .n32 => 4 | .n64 => 8 | .n128 => 16
def StSize.n : StSize → Nat
  | .n8 => 1 | .n16 => 2 | .n32 => 4 | .n64 => 8 | .n128 => 16

/-- Permissions R, W, A, REM, TOOB, PST are bits 0, 1, 2, 4, 5, 6 (R173). -/
abbrev Cap.has (c : Cap) (i : Nat) : Prop := c.perm.testBit i = true

/-- An atomic's request: its operands, and its destination unless S is 0 (R186). -/
def askAtom (g : Bool) (op : AtomOp) (dbl : Bool) (sc : AtomScope) (k a : Nat) (disp : Int) (ok : Bool) (sr cr : Nat)
    (t : Thread) : Ask :=
  let v := fun f => if dbl then (t.srcPair f).toNat else (t.src f).toNat
  { guard := g, k := k, a := a, disp := disp, allowed := ok, kind := .atomic op dbl sc (if sr = 0 then 0 else v sr) (v cr),
    bytes := if dbl then 8 else 4, writes := true, cls := if sr = 0 then .ns else .nl,
    dst := if sr = 0 then none else some (regNo t.wb sr, if dbl then 2 else 1), data := [] }

/-- The accesses through a capability. -/
def accessRow (t : Thread) (c : Cap) : Instr → Option Ask
  | .ld sz _ sr k a disp => some
    { guard := true, k := k, a := a, disp := disp, allowed := decide (c.has 0), kind := .load sz (decide (c.has 6)),
      bytes := LdSize.n sz, writes := false, cls := .nl, dst := some (regNo t.wb sr, (LdSize.n sz + 3) / 4), data := [] }
  | .st g sz _ k a disp sr => some
    { guard := t.guardPasses g, k := k, a := a, disp := disp, allowed := decide (c.has 1), kind := .store,
      bytes := StSize.n sz, writes := true, cls := .ns, dst := none, data := bytesFrom t (regNo t.wb sr) (StSize.n sz) }
  | .ldf _ sr k a disp => some
    { guard := true, k := k, a := a, disp := disp, allowed := decide (c.has 0), kind := .loadFrag,
      bytes := 256, writes := false, cls := .nl, dst := some (regNo t.wb sr, 64), data := [] }
  | .stf _ k a disp sr => some
    { guard := true, k := k, a := a, disp := disp, allowed := decide (c.has 1), kind := .store,
      bytes := 256, writes := true, cls := .ns, dst := none, data := bytesFrom t (regNo t.wb sr) 256 }
  | .atom g op dbl sc k a disp sr cr => some
    (askAtom (t.guardPasses g) op dbl sc k a disp (decide (c.has 2 ∧ (c.has 4 → sc = .domain))) sr cr t)
  | _ => none

/-- The scratchpad accesses, and the field that names another team of the cluster. -/
def spadRow (t : Thread) : Instr → Option (Ask × Nat)
  | .lds sz sr m a disp c => some
    ({ guard := true, k := m, a := a, disp := disp, allowed := true, kind := .load sz false,
       bytes := LdSize.n sz, writes := false, cls := .nl, dst := some (regNo t.wb sr, (LdSize.n sz + 3) / 4), data := [] }, c)
  | .sts sz m a disp sr c => some
    ({ guard := true, k := m, a := a, disp := disp, allowed := true, kind := .store,
       bytes := StSize.n sz, writes := true, cls := .ns, dst := none, data := bytesFrom t (regNo t.wb sr) (StSize.n sz) }, c)
  | .atoms op m a disp sr cr =>
    let o := match op with | .w x => (x, false) | .xchg64 => (.xchg, true) | .cas64 => (.cas, true) | .add64 => (.add, true)
    some (askAtom true o.1 o.2 .team m a disp true sr cr t, 0)
  | _ => none

/-- The capability in register k of the thread's team passes the checks of R178 that do not depend on the offset. -/
def CapPasses (s : State) (t : Thread) (q : Ask) (c : Cap) : Prop :=
  s.capOf t.id.tmid q.k = some c ∧ c.tenant = s.tenantOf t.id ∧ q.allowed = true

/-- The byte offset of an access (R178). -/
def Ask.off (q : Ask) (t : Thread) (c : Cap) : Int := ((t.src q.a).toNat * c.stride : Nat) + q.disp

/-- The operation that a lane issues for what it asks, at `sp`. -/
structure Operation (s : State) (t : Thread) (q : Ask) (sp : Space) (o : Op) : Prop where
  kind : o.kind = q.kind
  th : o.th = t.id
  iss : o.num = s.issue.num ∧ o.iss = s.issue.num
  space : o.space = sp
  size : o.size = q.bytes
  data : o.data = q.data
  dst : o.dst = q.dst.map Prod.fst
  ready : o.answer = none ∧ o.failed = none

/-- `s'` is `s1`, in which nothing of threads, groups and operations has changed since `s`, with the operation `o` issued:
it is in flight, it counts once more in the group (R184), and the thread is `t'`; the caches may have moved blocks. -/
structure IssuesOp (s s1 s' : State) (t t' : Thread) (cls : CountClass) (o : Op) : Prop where
  ops : s'.ops = s.ops ++ [o]
  rest : s' = { s1 with ops := s'.ops, threads := s'.threads, groups := s'.groups, cores := s'.cores, quads := s'.quads,
                        dies := s'.dies, clock := { s1.clock with fresh := s1.clock.fresh + 1 }, events := s'.events }
  thread : s'.thread? t.id = some t'
  others : ∀ k, k ≠ t.id → s'.thread? k = s.thread? k
  counts : ∀ g, s.group? t.id.gid = some g → (∀ x ∈ g.counts, x.iss ≠ s.issue.num) → ∃ g', s'.group? t.id.gid = some g' ∧
    g'.counts = g.counts ++ [{ iss := s.issue.num, cls := cls, left := 1 }]

/-- The lane faults at a counted access: it keeps its place in the count for the time when it executes again (R184). -/
def CountedFault (i : Instr) (s : State) (t : Thread) (info : RecInfo) : Prop :=
  ∃ s1 : State, exec i s = .next (s1.raise [laneFault s t info] none) ∧ s1 = { s with threads := s1.threads, groups := s1.groups } ∧
    s1.thread? t.id = some { t.sliced with counted := some s.issue.num } ∧ ∀ k, k ≠ t.id → s1.thread? k = s.thread? k

/-- Some consecutive registers, as zeroes. -/
def zeroWrites (d : Option (Nat × Nat)) : List (Nat × Word) :=
  match d with
  | some (r, n) => (List.range n).map fun i => (r + i, 0)
  | none => []

/-- The words that a load of some bytes leaves in its registers (R183, R185). -/
def arrived (k : OpKind) (bs : List Byte) : List Word :=
  let v := leNat bs
  match k with
  | .load .s8 _ => [W 32 (readEl true 8 v)]
  | .load .s16 _ => [W 32 (readEl true 16 v)]
  | .load .n8 _ | .load .n16 _ | .load .n32 _ | .atomic _ false _ _ _ => [BitVec.ofNat 32 v]
  | .load .n64 _ | .atomic _ true _ _ _ => (List.range 2).map fun i => BitVec.ofNat 32 (elemAt 32 v i)
  | .load .n128 _ => (List.range 4).map fun i => BitVec.ofNat 32 (elemAt 32 v i)
  | _ => (List.range 64).map fun i => BitVec.ofNat 32 (leNat ((bs.drop (4 * i)).take 4))

/-- A thread into which a result has arrived: its registers, and their form, poison and time. -/
def Receives (o : Op) (bs : List Byte) (u u' : Thread) : Prop :=
  ∃ ws, ws = ((List.range (arrived o.kind bs).length).map fun i => (o.dst.getD 0 + i, (arrived o.kind bs).getD i 0)) ∧
    (∀ r, u'.held r = if r = 0 then 0 else (written ws r).getD (u.held r)) ∧
    (∀ r, r ∈ u'.poisoned ↔ r ∈ u.poisoned ∧ ¬(r ≠ 0 ∧ (written ws r).isSome)) ∧
    u' = { u with regs := u'.regs, forms := u'.forms, poisoned := u'.poisoned, busy := u'.busy }

/-- The bytes of a load are present for a thread, with the words of the blocks that it allocated (R202, R205). -/
def imaged (s : State) (t : Thread) (keys fills : List Nat) : State := (s.imageAll t keys).fillBlock t fills

/-- The bytes that a core and its die's L2 may yet take to the device point. -/
def State.unpublished (s : State) (c : CoreId) : List Nat :=
  ((s.core c).writes.filter fun w => w.pub.isNone).map CoreWrite.addr ++ ((s.die c.die).l2.flatMap L2Line.dirty).map Dirty.addr

/-- A byte's frame has not been moved (R219), and none of some bytes lies in the frame's entry. -/
def State.frameStays (s : State) (ks : List Nat) (a : Nat) : Prop :=
  s.frameMoved a = false ∧ ∀ f, s.frameEntry a = some f → ∀ k ∈ ks, k < f ∨ f + 8 ≤ k

/-- The new value of an atomic's target of 32 or 64 bits (R187). -/
def atomVal (op : AtomOp) (w : Nat) (F : Fmt) (old sv cv : Nat) : Nat :=
  let a := BitVec.ofNat w old
  let b := BitVec.ofNat w cv
  match op with
  | .ld => old
  | .xchg => cv
  | .cas => if old = cv then sv else old
  | .add => (a + b).toNat
  | .smin => if S b < S a then cv else old
  | .smax => if S a < S b then cv else old
  | .nmin => if cv < old then cv else old
  | .nmax => if old < cv then cv else old
  | .and => (a &&& b).toNat
  | .or => (a ||| b).toNat
  | .xor => (a ^^^ b).toNat
  | .fadd => (F.add .rne false (F.dec old) (F.dec cv)).1

/-- A byte at the point where atomics of a scope perform (R73, R187): the core, the L2 of its die, the device. -/
def atPoint (s : State) (c : CoreId) (sc : AtomScope) (a : Nat) : Byte :=
  match sc with
  | .team => s.teamByte c a
  | .cluster => s.readL2 c.die a
  | _ => Memory.read s.mem a

/-- The access may take effect now: what it waits for has, its time has come, no other lane of its issue reaches its bytes,
and nothing holds it (R81 to R89, R182, R219, R344). -/
structure Effective (s : State) (o : Op) : Prop where
  here : s.op? o.id = some o
  due : s.depsDone o = true ∧ o.due ≤ s.clock.cycle ∧ o.stall = none ∧ o.failed = none ∧ o.answer = none
  alone : s.blockOf o = [o]
  frame : s.waitsLock o = false ∧ s.hitsMoved o = false
  clean : s.consumesPoison o = false

/-- A group's counts with one lane or command of an issue gone (R184). -/
def uncounted (iss : Nat) (l : List Count) : List Count :=
  (l.map fun x => if x.iss = iss then { x with left := x.left - 1 } else x).filter fun x => decide (x.left ≠ 0)

/-- The operation has left: it is no longer in flight, and its issue counts it no more (R184). -/
structure OpEnds (o : Op) (s s' : State) : Prop where
  ops : s'.ops = s.ops.filter fun x => decide (x.id ≠ o.id)
  groups : s'.groups = s.groups.map fun g => if g.id = o.th.gid then { g with counts := uncounted o.iss g.counts } else g

/-! ## Recipes (R154 to R168) -/

/-- The word of RCPST for a register: PINS, ENTRY, LOAD, BACKED, FORM (R168). -/
def rcpWord (g : Group) (t : Thread) (r : Nat) : Nat :=
  let f := tget RForm.value t.forms r
  let pins := t.pins g r
  let load : Bool := match g.entry? f.entry with | some e => e.cap.isSome | none => false
  if r = 0 then 0
  else (min pins 15) * 2 ^ 12 + (if f.recipe ∨ f.backed then f.entry * 2 ^ 4 else 0) +
    (if (f.recipe ∨ f.backed) ∧ load = true then 8 else 0) + (if f.backed then 4 else 0) +
    (if f.recipe then 1 else if pins = 0 then 0 else 2)

/-! ## Commands that act once for a group (R257, R292) -/

/-- The bundle is threads of one group, each executing its instruction for the first time: its leader, of lowest TID, and the
others. -/
structure OneGroup (s : State) (l : Thread) (rest : List Thread) : Prop where
  bundle : s.bundleThreads = l :: rest
  group : ∀ u ∈ rest, u.id.gid = l.id.gid
  distinct : ((l :: rest).map Thread.id).Nodup
  here : ∀ u ∈ l :: rest, s.thread? u.id = some u ∧ u.redo = []

/-- A thread of the group that retires with no effect: its retired work does not rise (R350). -/
def Thread.idled (t : Thread) (next : Nat) : Thread := { t with pc := next, regen := [], counted := none, stallAt := none }

/-- A matrix command as its instruction asks for it. -/
structure MtxAsk where
  kind : CmdKind
  target : Nat
  tile : Nat
  captured : Bool
  counted : Bool
  /-- It acts for every thread of the bundle, or for the group by its leader. -/
  every : Bool
  cw : Option Nat
  guard : Option (Nat × Nat)
  /-- What its issue does to a thread for which it acts: the draws of its generator (R117). -/
  draws : Thread → Nat

/-- What the issue of a matrix instruction asks, by leader l and the bundle's threads; none: it faults (R257 to R275). -/
def mtxAsk (s : State) (l : Thread) (ths : List Thread) (i : Instr) : Option MtxAsk :=
  let mode := s.fuseAtIssue l.core (s.partOf l.id)
  let own := s.groupThreads l.id.gid
  let latch := fun x : LatchTarget => match x with
    | .self => some l.quad
    | .quad q => if q ∈ fuseSet mode l.quad then some q else none
  let inReach := fun t : Nat => decide (t < 48 ∧ t / 12 ∈ fuseSet mode l.quad)
  let ask : CmdKind → Nat → Nat → Bool → MtxAsk := fun k q t c =>
    { kind := k, target := q, tile := t, captured := c, counted := true, every := false, cw := none, guard := none,
      draws := fun _ => 0 }
  let draw := fun (e : EpiDesc) (t : Thread) => if t.id = l.id ∧ e.rm = .sto then 64 * (e.nrow + 1) else 0
  match i with
  | .wld ty x f => (latch x).bind fun q => if kwOf ty = 0 then none else
      some (ask (.wld ty (own.map fun u => (u.id.tid, u.regsFrom (regNo l.wb f) (weightRegs ty)))) q 0 true)
  | .wlds x f => (latch x).bind fun q => ((s.quad (quadOn l.core q)).issuedFmt).bind fun ty =>
      let n := kwOf ty / 128
      if n < 2 ∨ s.regsOf l.id < regNo l.wb f + n then none
      else some (ask (.wlds n (own.map fun u => (u.id.tid, u.regsFrom (regNo l.wb f) n))) q 0 true)
  | .cbld f b =>
      let es := own.flatMap fun u => (u.regsFrom (regNo l.wb f) 4).zipIdx.map fun e => (b + 4 * u.id.tid + e.2, e.1.toNat)
      if es.any (fun e => decide (2 ^ 24 ≤ e.2)) then none
      else some (ask (.cbld (es.filter fun e => decide (e.1 < 256))) l.quad 0 true)
  | .tzero t => if inReach t then some (ask .tzero (t / 12) t false) else none
  | .trd ty rm sat d t => if inReach t then some
      { ask (.trd ty sat (regNo l.wb d) (ths.map fun u => (u.id, u.rm rm, u.rng))) (t / 12) t false with
        every := true, draws := fun u => if ty ≠ .f32 ∧ u.rm rm = .sto then 64 else 0 } else none
  | .twr ty t a => if inReach t then some
      { ask (.twr (ths.map fun u => (u.id.tid, rowWords ty (u.regsFrom (regNo l.wb a) (rowRegs ty))))) (t / 12) t true with
        every := true } else none
  | .tfuse m => if (fusedQuads m).all fun q => decide (quadOn l.core q ∈ (s.part (s.partOf l.id)).quads) then some
      { ask (.tfuse m) l.quad 0 false with counted := false } else none
  | .tstat clr d t => if inReach t then some
      { ask (.tstat clr (regNo l.wb d) (ths.map Thread.id)) (t / 12) t false with every := true, counted := false } else none
  | .tepi p =>
      let b := l.regsFrom (regNo l.wb p) 8
      let t := (b.getD 0 0).toNat % 64
      match s.epiDesc l b, s.guardFor l b with
      | .ok e, .ok g =>
        if (b.getD 0 0).toNat / 2 ^ 6 % 2 ^ 10 = 0 ∧ (b.getD 1 0).toNat / 2 ^ 10 = 0 ∧ epiOk b ∧ inReach t then some
          { ask (.tepi e) (t / 12) t true with cw := blkCw b, guard := g, draws := draw e } else none
      | _, _ => none
  | .tmm p =>
      let b := l.regsFrom (regNo l.wb p) 8
      let w0 := (b.getD 0 0).toNat
      let af := w0 / 2 ^ 24
      let n := if fuseVert mode l.quad then 2 else 1
      let e := if w0.testBit 16 then (s.epiDesc l b).toOption.map some else some none
      match afmtOf (w0 / 2 ^ 19 % 32), e, s.guardFor l b with
      | some a, some e, .ok g =>
        if w0 / 2 ^ 6 % 2 ^ 10 = 0 ∧ (b.getD 1 0).toNat / 2 ^ 10 = 0 ∧ (w0.testBit 16 → epiOk b) ∧ w0 % 64 / 12 = l.quad ∧
            (s.tmmPair l mode a (w0 / 2 ^ 18 % 2)).isSome ∧ 16 ≤ af ∧ af + n * (64 + scaleRegs a) ≤ s.regsOf l.id then some
          { ask (.tmm a (w0 / 2 ^ 18 % 2) (w0.testBit 17) (own.map fun u =>
              (u.id.tid, u.regsFrom af (64 * n), u.regsFrom (af + 64 * n) (scaleRegs a * n))) e) l.quad (w0 % 64) true with
            cw := blkCw b, guard := g, draws := fun t => (e.map fun d => draw d t).getD 0 }
        else none
      | _, _, _ => none
  | _ => none

/-- A new command with its fields, issued by leader l under the fusion mode of its issue (R256, R274). -/
structure MtxCommand (s : State) (l : Thread) (q : MtxAsk) (c : Cmd) : Prop where
  id : c.id = s.clock.fresh
  kind : c.kind = q.kind
  place : c.th = l.id ∧ c.core = l.core ∧ c.quad = l.quad ∧ c.target = q.target ∧ c.tile = q.tile
  st : c.st = if q.captured then .capture else .queued
  mode : c.bytes = s.fuseAtIssue l.core (s.partOf l.id)
  cw : c.cw = q.cw ∧ c.guard = q.guard ∧ c.counted = q.counted

/-- A command leaves: it is gone, its group counts it no more, and its counter rises with its status (R15, R301, R315). -/
structure CmdEnds (c : Cmd) (st : Nat) (s s' : State) : Prop where
  cmds : s'.cmds = s.cmds.filter fun x => decide (x.id ≠ c.id)
  groups : s'.groups = if c.counted then s.groups.map fun g =>
    if g.id = c.th.gid then { g with counts := uncounted c.id g.counts } else g else s.groups
  none : c.cw = none → s'.teams = s.teams
  counter : ∀ n t, c.cw = some n → s.team? c.th.tmid = some t → ∃ t', s'.team? c.th.tmid = some t' ∧
    t' = { t with w := t'.w, wstat := t'.wstat } ∧ tget 0 t'.w n = (tget 0 t.w n + 1) % 2 ^ 32 ∧
    (∀ m, m ≠ n → tget 0 t'.w m = tget 0 t.w m ∧ tget 0 t'.wstat m = tget 0 t.wstat m) ∧
    let v := tget 0 t.wstat n
    let v' := tget 0 t'.wstat n
    v'.extractLsb' 0 8 = BitVec.ofNat 8 st ∧
    (v'.extractLsb' 8 8).toNat = min 255 ((v.extractLsb' 8 8).toNat + if st = 2 then 1 else 0) ∧
    (v'.extractLsb' 16 8).toNat = min 255 ((v.extractLsb' 16 8).toNat + if st = 3 then 1 else 0)

/-- A command is held by a fault: it stays counted, and its record, which names it, waits in its core's die; its issuer owes
no park before that record is posted (R273, R297, R314). -/
structure CmdHeld (c : Cmd) (cause : Nat) (s s' : State) : Prop where
  cmd : ∃ c', s'.cmd? c.id = some c' ∧ (∃ a, c'.st = .held cause a) ∧ c'.kind = c.kind ∧ c'.counted = c.counted
  groups : s'.groups = s.groups
  record : ∃ r, (s'.die c.core.die).waiting = (s.die c.core.die).waiting ++ [r] ∧ r.q = .part c.part ∧
    r.word 0 / 2 ^ 24 = cause ∧ r.word 0 / 2 ^ 4 % 16 = 1 ∧ r.cmd = some c.id
  threads : s'.threads = s.threads

/-- The value of TSTAT (R275) from the engine's state: MISM, fusion mode, WFMT, held and used entries, EOF, ENV, INFS, NANS. -/
def tstatBits (q : Quad) (t : Tile) (mode : Nat) : Nat :=
  let n := fun p : EpiState → Bool => ((List.range 4).filter fun i => p (tget EpiEntry.free q.epi i).st).length
  min q.mism 255 * 2 ^ 24 + mode % 8 * 2 ^ 21 + ((q.issuedFmt.map Ty.code).getD 0x1F) * 2 ^ 16 +
    n (fun e => match e with | .held _ _ => true | _ => false) * 2 ^ 9 + n (fun e => match e with | .free => false | _ => true) * 2 ^ 6 +
    (if q.eof then 2 ^ 5 else 0) + (if q.env then 2 ^ 4 else 0) + (if t.infs then 2 else 0) + (if t.nans then 1 else 0)

/-- Element j of registers that hold codes of b bits, lowest first (R245). -/
def codeAt (b : Nat) (ws : List Word) (j : Nat) : Nat := elemAt b (ws.getD (j / (32 / b)) 0).toNat (j % (32 / b))

/-- Value i of eight, in quarters, of a codebook index (R248): magnitude from the entry that bits 15:8 name, sign from bits 7:1
(the eighth by their parity), and a quarter more where bit 0 is set. -/
def cb2Val (table : Nat → Nat) (x i : Nat) : Int :=
  let m := elemAt 3 (table (x / 2 ^ 8 % 2 ^ 8)) i
  let neg : Bool := if i < 7 then x.testBit (i + 1) else decide (((List.range 7).countP fun k => x.testBit (k + 1)) % 2 = 1)
  (if neg then -(2 * (m : Int)) else 2 * (m : Int)) + if x.testBit 0 then 1 else 0

/-- How long each command runs (R274, R275, R277). -/
def runTime : CmdKind → Nat
  | .wld .cb2 _ => 72
  | .wld _ _ => 64
  | .wlds _ _ | .cbld _ => 8
  | .tmm _ _ _ _ _ => 300
  | .trd _ _ _ _ => 24
  | .tfuse _ => 32
  | .tstat _ _ _ => 4
  | _ => 16

/-- A wait for the capture of a command (R261), and for the status of one (R292). -/
def isCapture (n : Nat) : Wait → Bool
  | .capture m => decide (m = n)
  | _ => false

/-! ## Tiles, slots, copies, barriers (R284 to R315) -/

/-- A team that is resident and owns tile entry m (R285). -/
def State.ownsTile (s : State) (t : TeamId) (m : Nat) : Prop := ∃ x : Team, s.team? t = some x ∧ m ∈ x.tiles ∧ x.saved = false

/-- What a TSET makes of an entry (R287): state, RW, EXPECT, ARRIVED; none: no row of the table. EMPTY, FILLING, READY are 0
to 2; `k` copies into the tile are in flight. -/
def tsetRow (i : Instr) (e : DWord) (k : Nat) : Option (Nat × Nat × Bool × Nat × Nat) :=
  let st := tState e
  match i with
  | .tsetFill m n rw => if st = 0 ∨ st = 2 then some (m, 1, rw, n, 0) else none
  | .tsetReady m => if st = 0 then some (m, 2, tRW e, tExpect e, tArrived e)
      else if st = 1 ∧ k = 0 then some (m, 2, tRW e, tExpect e, 0) else none
  | .tsetEmpty m => if st = 0 ∨ st = 2 then some (m, 0, tRW e, tExpect e, tArrived e)
      else if st = 1 ∧ k = 0 then some (m, 0, tRW e, tExpect e, 0) else none
  | _ => none

/-- The tile entry that a TSET names. -/
def tsetTile : Instr → Option Nat
  | .tsetFill m _ _ | .tsetReady m | .tsetEmpty m => some m
  | _ => none

/-- The whole group of the bundle retires. -/
def GroupPassed (l : Thread) (rest : List Thread) (s s' : State) : Prop :=
  (∀ u ∈ l :: rest, s'.thread? u.id = some (u.passed s.nextPc)) ∧
    ∀ k, (∀ u ∈ l :: rest, u.id ≠ k) → s'.thread? k = s.thread? k

/-- The command of a copy or collective as issued: it waits for its decision (R292). -/
structure CopyCommand (s : State) (l : Thread) (k : CmdKind) (b : List Word) (g : Option (Nat × Nat)) (d : Nat) (c : Cmd) : Prop where
  id : c.id = s.clock.fresh
  kind : c.kind = k
  place : c.th = l.id ∧ c.core = l.core ∧ c.quad = l.quad
  st : c.st = .decide ∧ c.counted = false ∧ c.dreg = regNo l.wb d
  cw : c.cw = (if (b.getD 1 0).getLsbD 9 then some ((b.getD 1 0).toNat % 16) else none) ∧ c.guard = g

/-- The leader is held at its instruction until the status is written; the others have retired with no effect (R292). -/
def HeldForStatus (l : Thread) (rest : List Thread) (n : Nat) (s s' : State) : Prop :=
  s'.thread? l.id = some { l with wait := .status n, regen := [], pc := s.issue.pc } ∧
    (∀ u ∈ rest, s'.thread? u.id = some (u.idled s.nextPc)) ∧ ∀ k, (∀ u ∈ l :: rest, u.id ≠ k) → s'.thread? k = s.thread? k

/-- A status is written: code in bits 3:0, the bound in hundreds of nanoseconds above (R292, R293); the leader retires past its
two words. -/
def StatusWritten (c : Cmd) (code units : Nat) (t t' : Thread) : Prop :=
  Wrote [(c.dreg, BitVec.ofNat 32 (units * 16 + code))]
    { Thread.passed { t with wait := .none } ((t.pc + 8) % 2 ^ 57) with nextAt := t'.nextAt } t'

/-- Arrivals of a team at a tag of TBAR. -/
def tbarHere (t : Team) (tag : Nat) : List ThreadId := ((t.tbar? tag).map TbarTeam.here).getD []

/-! ## Scheduling (R60 to R64, R210, R229 to R236) -/

/-- The values of QSTAT (R235): spawn-queue room, spawned entries done, priority, ACTIVE and resident groups of the quadrant,
free rows, words of the share left, groups of the grid without a place. -/
def qstatVal (s : State) (t : Thread) (sel : Nat) : Nat :=
  let q := s.chain (spawnChain (s.partOf t.id))
  let near := s.groups.filter fun g => decide (g.core = t.core ∧ g.quad = t.quad)
  match sel with
  | 0 => 4096 - (q.tail - q.done)
  | 1 => q.done
  | 2 => ((s.group? t.id.gid).map Group.prio).getD 0
  | 3 => near.countP fun g => decide (g.act = .active)
  | 4 => near.countP fun g => decide (g.act ≠ .saved)
  | 5 => 2048 - s.pressure t.qid
  | 6 => ((s.gridOf t.id).map fun g =>
      ((((4096 * g.l1share : Nat) : Int) - (s.lambda g t.core : Nat)) % 2 ^ 32).toNat).getD 0
  | _ => s.groups.countP fun g => decide (g.id.grid = t.id.grid ∧ (g.act = .swapped ∨ g.act = .saved))

/-- Waits at a named barrier whose generation is past (R306). -/
def isBarUpTo (b gen : Nat) : Wait → Bool
  | .bar b' g => decide (b' = b ∧ g ≤ gen)
  | _ => false

/-- A thread that arrives at a barrier and goes on past its two words, in a wait. -/
def Thread.arrives (t : Thread) (w : Wait) : Thread :=
  { Thread.passed { t with wait := .none } ((t.pc + 8) % 2 ^ 57) with wait := w }

/-- `s'` differs from `s` in one thread, in the way given, and in the parts that `f` takes from `s'`. -/
def OnlyThread (k : ThreadId) (t' : Thread) (s s' : State) : Prop :=
  s'.thread? k = some t' ∧ ∀ j, j ≠ k → s'.thread? j = s.thread? j
/-! ## One entry of one table -/

/-- `s'` differs from `s` in one chain, port, link, die, partition or virtual function, which is `x`. -/
def OnlyChain (c : Nat) (x : Chain) (s s' : State) : Prop :=
  s' = { s with chains := s'.chains } ∧ s'.chain c = x ∧ ∀ k, k ≠ c → s'.chain k = s.chain k
def OnlyPort (p : Nat) (x : Port) (s s' : State) : Prop :=
  s' = { s with ports := s'.ports } ∧ s'.port p = x ∧ ∀ k, k ≠ p → s'.port k = s.port k
def OnlyLink (l : Nat) (x : Link) (s s' : State) : Prop :=
  s' = { s with links := s'.links } ∧ s'.link l = x ∧ ∀ k, k ≠ l → s'.link k = s.link k
def OnlyDie (d : Nat) (x : Die) (s s' : State) : Prop :=
  s' = { s with dies := s'.dies } ∧ s'.die d = x ∧ ∀ k, k ≠ d → s'.die k = s.die k
def OnlyPart (p : Nat) (x : Part) (s s' : State) : Prop :=
  s' = { s with parts := s'.parts } ∧ s'.part p = x ∧ ∀ k, k ≠ p → s'.part k = s.part k
def OnlyVf (v : Nat) (x : Vf) (s s' : State) : Prop :=
  s' = { s with vfs := s'.vfs } ∧ s'.vf v = x ∧ ∀ k, k ≠ v → s'.vf k = s.vf k

/-- A command is refused with a status that is reported (R338), and does nothing else. -/
def RefusedCommand (s s' : State) : Prop :=
  ∃ n, s' = { s with root := { s.root with reports := (0x3F, n) :: s.root.reports } }

/-! ## Launch (R222 to R226) -/

/-- The grid that a kernel entry launches (R222). -/
def launched (s : State) (c : Nat) (e : Entry) (d : Desc) (tab : List Nat) : Grid :=
  let v := s.entryVf c e
  { id := s.clock.fresh, part := (s.vf v).part, vf := v, tenant := (s.vf v).tenant, reqtag := enTag e.raw, prio := enPrio e.raw,
    coop := enCoop e.raw, fast := enFast e.raw, half := s.fastHalf (s.vf v).part, l1share := enShare e.raw,
    nteams := enTeams e.raw, desc := d, capTab := tab, chain := c, entry := e.num, placed := 0, ended := 0, killed := false,
    purged := false, paused := false, complete := false, since := s.clock.tick }

/-- The entries of a chain, one of which stands at another stage. -/
def staged (ch : Chain) (e : Entry) (st : EntryStage) : Chain :=
  { ch with entries := ch.entries.map fun y => if y.num = e.num then { e with stage := st } else y }

/-- The dependence of an entry is satisfied by the word at DEPADDR (R225). -/
def DepSatisfied (s : State) (c : Nat) (e : Entry) : Prop :=
  e.stage = .waiting ∧ enDep e.raw = true ∧ e.depOk = false ∧
    ∃ w, s.feNat (chainDie c) (s.entryVf c e) (enDepAddr e.raw) 4 = some w ∧ (w + 2 ^ 32 - enDepVal e.raw) % 2 ^ 32 < 2 ^ 31

/-- What a thread is when its team starts (R45, R56, R79, R114, R138); its registers and predicates hold zero. -/
structure Starts (g : Grid) (y : Group) (t : Thread) : Prop where
  group : t.id.gid = y.id ∧ t.id.tid < g.desc.width
  place : t.core = y.core ∧ t.quad = y.quad ∧ t.lane = y.laneBase + t.id.tid
  pc : t.pc = g.desc.entry ∧ t.wb = g.desc.wb
  zero : t.regs = [] ∧ t.preds = 0 ∧ t.fpcsr = 0 ∧ t.forms = [] ∧ t.phaseno = 0 ∧ t.retired = 0
  goes : t.wait = .none ∧ t.park = none

/-- What a group is when its team starts (R150, R158, R229). -/
structure GroupStarts (g : Grid) (x : Team) (y : Group) : Prop where
  team : y.id.tmid = x.id ∧ y.core = x.core
  width : y.width = g.desc.width ∧ ∀ u, (y.mask 0).testBit u ↔ u < g.desc.width
  masks : ∀ n, 0 < n → y.mask n = 0
  waits : y.act = .waiting ∧ y.counts = [] ∧ y.recipes = [] ∧ y.prio = g.prio

/-! ## Pre-emption (R237, R238) -/

/-- A team that is stopped: it will be saved, in fast mode where `fast` holds, and placed again by itself where `back` holds. -/
def Stopped (back fast : Bool) (s : State) (t : Team) : Team := { t with
  stopping := true, fast := fast, stopped := some (s.clock.tick, t.core), saveStall := none, saveHeld := false, replace := t.replace || back }

/-- `s'` has each team of `s` that `hit` names and that is not saved yet stopped, and the others as they were. -/
def TeamsStop (back fast : Bool) (hit : Team → Prop) (s s' : State) : Prop :=
  s'.teams.length = s.teams.length ∧ ∀ (i : Nat) (t : Team), s.teams[i]? = some t → ∃ t', s'.teams[i]? = some t' ∧
    (hit t ∧ s.teamOut t = false → t' = Stopped back fast s t) ∧ (¬(hit t ∧ s.teamOut t = false) → t' = t)

/-- The threads of a group that are not parked park where they stand, as a count stop (R352). -/
def stopFaults (s : State) (g : GroupId) : List LaneFault :=
  (s.threads.filter fun t => decide (t.id.gid = g) && t.park.isNone).map fun t =>
    { th := t.id, info := { cause := 0x09, kind := 4, addr0 := t.pc, aux0 := s.retiredOf g }, resume := t.pc }

/-! ## The sweeper (R217, R218) -/

/-- A frame entry after a visit: accessed, its age is 0; else it is one older, up to 255, and a cold one is marked; what else
it holds stays. -/
structure SweptTo (e age : Nat) (room : Bool) (e' : Nat) (app : Bool) : Prop where
  fa : e'.testBit 39 = false
  young : e.testBit 39 = true → bitsAt e' 31 8 = 0 ∧ e'.testBit 40 = e.testBit 40 ∧ app = false
  old : e.testBit 39 = false → bitsAt e' 31 8 = min 255 (bitsAt e 31 8 + 1) ∧
    (app = true ↔ age ≤ min 255 (bitsAt e 31 8 + 1) ∧ e.testBit 40 = false ∧ room = true) ∧ e'.testBit 40 = (e.testBit 40 || app)
  rest : ∀ i, i < 31 ∨ 40 < i → e'.testBit i = e.testBit i

/-! ## Dies and the package root (R333 to R349) -/

/-- The module as reset leaves it, at the present time: nothing stays but the clock and what is still to come. -/
def AtReset (power : Bool) (s s' : State) : Prop :=
  s' = { State.reset with
    agenda := s.agenda, clock := s.clock, dies := s'.dies,
    root := { Root.reset with power := power, lastRoll := s.clock.cycle, poweredAt := s.clock.cycle } } ∧
  ∀ d, s'.die d = if d < 6 then { State.reset.die d with since := s.clock.cycle, scrubStart := s.clock.cycle } else State.reset.die d

/-- The root after a challenge of a die: where it was ATTEST's, the result is reported and the root is free (R338). -/
def challenged (d fail : Nat) (r : Root) : Root :=
  if r.busy = some (32 + d) then { r with busy := none, deferred := [], reports := (512 + d, fail) :: r.reports } else r

/-- A die with a reliability record: among those that wait to be posted, or held back while their store is full (R343). -/
def Die.told (full : Bool) (r : Record) (x : Die) : Die :=
  if full then { x with relHeld := x.relHeld ++ [r] } else { x with waiting := x.waiting ++ [r] }

/-- The acknowledgement of a reliability command: PURGE 1, RETIRE 2, CLEARPOISON 3, CLASSCLEAR 4 (R347). -/
def told (n : Nat) (r : Root) : Root := { r with reports := (0x3E, n) :: r.reports }

/-! ## Packets and ports (R316 to R320) -/

/-- The last packet of a port's outstanding ones, with the fields that its sender gives it (R317, R319). -/
structure SentPacket (s : State) (p : Nat) (ty : PktType) (dev : Nat) (k : Packet) : Prop where
  to_ : k.dest = dev ∧ k.src = Config.devid.toNat ∧ k.type = ty
  seq : k.seq = (s.port p).sendSeq ∧ k.kph = (s.port p).tx.send % 2
  ack : k.ackv = true ∧ k.ack = ((s.port p).recvSeq + 65535) % 65536

/-- A port once it has taken the acknowledgement that a packet carries, if it carries one: what that covers is no longer
outstanding, and the wait for the next one begins anew (R317). Only packets inside the window of 512 flits have been sent. -/
def acknowledged (now : Nat) (x : Port) (k : Packet) : Port :=
  let kept := x.onWire.filter fun u => decide (32768 ≤ (k.ack + 65536 - u.seq) % 65536)
  if k.ackv then
    if kept = x.onWire then x else { x with unacked := kept ++ x.unacked.drop x.onWire.length, sentAt := now }
  else x

/-- A packet that passes the checks of R317 and R319, is next in sequence, and that the dies and frames it reaches can serve
now (R18, R219). -/
structure Accepted (s : State) (p : Nat) (k : Packet) : Prop where
  up : (s.port p).st = .up16 ∨ ∃ h, (s.port p).st = .up8 h
  auth : k.authOk = true ∧ (s.port p).holdsKey k.kph = true
  seq : k.seq = (s.port p).recvSeq
  served : s.pktServed p k = true

/-- A port after it has accepted a packet: the next sequence number, and an acknowledgement due within 250 ns. -/
def Port.took (x : Port) (now : Nat) : Port :=
  { x with recvSeq := (x.recvSeq + 1) % 65536, bad := 0, ackDue := some (x.ackDue.getD (now + 350)) }

/-- The packets of a port as it sends them from now on: under its present key, and with its present acknowledgement. -/
def sentAgain (x : Port) : List Packet :=
  x.unacked.map fun k => { k with kph := x.tx.send % 2, ackv := true, ack := (x.recvSeq + 65535) % 65536 }

/-- A replay of what a port has outstanding (R317): it is sent again under the present key, with the present acknowledgement,
and counted; a port that has nothing outstanding, or no key, sends nothing. -/
def Replayed (p : Nat) (x : Port) (s s' : State) : Prop :=
  s' = { s with ports := s'.ports, events := s'.events } ∧ (∀ k, k ≠ p → s'.port k = s.port k) ∧
    s'.port p = if x.onWire = [] then x else { x with
      replays := x.replays + 1, sentAt := s.clock.cycle, ackDue := none, unacked := sentAgain x,
      tx := { x.tx with count := x.tx.count + x.onWire.length } }

/-- The state of a port after lanes of a mask fail (R318). -/
def laneFailed (st : PortState) (lanes now : Nat) : PortState :=
  let lo : Bool := decide (lanes % 256 ≠ 0)
  let hi : Bool := decide (lanes / 256 % 256 ≠ 0)
  match st with
  | .up16 => if lo && hi then .retrain 16 now else if lo then .degrading 1 now else if hi then .degrading 0 now else st
  | .degrading 0 _ => if lo then .retrain 16 now else st
  | .degrading _ _ => if hi then .retrain 16 now else st
  | .up8 0 => if lo then .retrain 8 now else st
  | .up8 _ => if hi then .retrain 8 now else st
  | _ => st

/-- The width at which a port trains, no wider than it was (R318). -/
def trainedTo (lanes w : Nat) : Option PortState :=
  let lo : Bool := decide (lanes % 256 = 255)
  let hi : Bool := decide (lanes / 256 % 256 = 255)
  if lo && hi && decide (w = 16) then some .up16 else if lo then some (.up8 0) else if hi then some (.up8 1) else none

/-! ## Records and bytes at the device point -/

/-- A record joins the waiting ones of a die, with its first words; everything else of `s1` stays. -/
def AddsRecord (d : Nat) (q : QueueRef) (w0 w11 aux0 : Nat) (s1 s' : State) : Prop :=
  ∃ r : Record, OnlyDie d { s1.die d with waiting := (s1.die d).waiting ++ [r] } s1 s' ∧ r.q = q ∧ r.word 0 = w0 ∧ r.word 11 = w11 ∧
    r.word 12 + 2 ^ 32 * r.word 13 = aux0 % 2 ^ 64

/-- Memory after bytes are written at keys, in order. -/
def wroteAt (m : List Host.Cell) (ks bs : List Nat) : List Host.Cell :=
  (List.zip ks bs).foldl (fun m e => Memory.write m e.1 (BitVec.ofNat 8 e.2)) m
end Sys2Proof.Machine
end

