-- ==== Sys2Proof/Certificates/Slice0/Obligations.lean ====
section
/-! DEFINITION. The statements for the provers. Each docstring names the rules of spec/ it rests on. -/

open Sys2Proof Sys2Proof.Machine Host


/-! ## Integer instructions -/

/-- R96 to R98: INT0, INT1, INT2 and MAXN on 32-bit registers, and their 64-bit forms on pairs (R93), each write their
destination and change nothing else. -/
def Obligations.IntegerTwoSource : Prop :=
  (∀ (i : Instr) (o : Int2) (d a b : Nat), int32 i = some (o, d, a, b) →
    ∀ s : State, WritesRegs i s fun t => one t d (int2 32 o (t.src a) (t.src b))) ∧
  ∀ (i : Instr) (o : Int2) (d a b : Nat), int64 i = some (o, d, a, b) →
    ∀ s : State, WritesRegs i s fun t => two t d (int2 64 o (t.srcPair a) (t.srcPair b))

/-- R100: CLZ, CTZ, FFS, POPC, BREV and ABS act on each element; SEXT and ZEXT widen the low bits. -/
def Obligations.BitCountsAndWidening : Prop :=
  (∀ (i : Instr) (o : Int3) (e : EWidth) (d a : Nat), int3Row i = some (o, e, d, a) →
    ∀ s : State, WritesRegs i s (int3Writes o e d a)) ∧
  (∀ (e : EWidth) (d a : Nat) (s : State), WritesRegs (.sext e d a) s (widenWrites true e d a)) ∧
  ∀ (e : EWidth) (d a : Nat) (s : State), WritesRegs (.zext e d a) s (widenWrites false e d a)

/-- R106: the packed instructions store each element clamped under saturation, wrapped without. -/
def Obligations.PackedArithmetic : Prop :=
  ∀ (i : Instr) (o : Pack2) (ty : PackTy) (sat : Bool) (d a b : Nat), packRow i = some (o, ty, sat, d, a, b) →
    ∀ s : State, WritesRegs i s fun t => one t d (packResult o ty sat (t.src a) (t.src b))

/-- R108: multiply-add, dot products and the sum of absolute differences. -/
def Obligations.MultiplyAdd : Prop :=
  ∀ (i : Instr), (madWrites (placeThread 0 0) i).isSome → ∀ s : State, WritesRegs i s fun t => (madWrites t i).getD []

/-- R110 to R113: bit fields, byte gathers, funnel shifts and bitwise tables. -/
def Obligations.BitFieldsAndTables : Prop :=
  ∀ (i : Instr), (bitFieldWrites (placeThread 0 0) i).isSome → i.wf = true →
    ∀ s : State, WritesRegs i s fun t => (bitFieldWrites t i).getD []

/-- R101: an immediate instruction has the effect of the two-source one with the immediate in place of b. R102 to R104: LI, LIU
and ADDL. -/
def Obligations.Immediates : Prop :=
  (∀ (i : Instr) (o : Int2) (d a : Nat) (v : Word), immRow i = some (o, d, a, v) →
    ∀ s : State, WritesRegs i s fun t => one t d (int2 32 o (t.src a) v)) ∧
  (∀ (i : Instr), (loadImmWrites (placeThread 0 0) i).isSome → ∀ s : State, WritesRegs i s fun t => (loadImmWrites t i).getD [])

/-! ## Floating point and conversions -/

/-- R120 to R123, R126: the arithmetic instructions deliver each element rounded once, in the mode of RM, with their flags and
their draws; FRND under DYN with MODE 5 raises NV and returns its source (R123; no draw is taken: log entry 9). -/
def Obligations.FloatArithmetic : Prop :=
  (∀ (i : Instr) (s : State), (∀ t ∈ s.threads, t.id ∈ s.issue.bundle → (arithRow t i).isSome) →
    (∃ t ∈ s.threads, t.id ∈ s.issue.bundle) →
    Lanewise i s fun t t' => ∃ ty d rm els, arithRow t i = some (ty, d, rm, els) ∧
      Delivers s.nextPc t (F1Ty.wide ty) (F1Ty.fmt ty).width d rm els t') ∧
  ∀ (ty : F1Ty) (d a : Nat) (s : State), (∀ t ∈ s.threads, t.id ∈ s.issue.bundle → modeUsed t .dyn = .sto) →
    Lanewise (.frnd ty .dyn d a) s fun t t' => Retired { t with pc := s.nextPc, fpcsr := t.fpcsr ||| 1 }
      (if F1Ty.wide ty then two t d (t.srcPair a) else one t d (t.src a)) t'

/-- R120, R126: FMIN, FMAX, the sign operations, FCLASS and FGETX. R124, R125: an approximate function is one fixed function of
the input bits, with the special values and flags of R125's table, and it never raises NX; on f32 and f64 it keeps R124's
error bound against the reference, and on an element type it is the f32 function widened into and rounded out of (the reference
and what the device's own bits may be: log entry 7). -/
def Obligations.FloatSelectAndApproximate : Prop :=
  (∀ (i : Instr) (f : Thread → List (Nat × Word) × Nat), pickRow i = some f → ∀ s : State,
    ∃ s', exec i s = .next s' ∧ Threadwise s.issues s s' fun t t' =>
      Retired { t with pc := s.nextPc, fpcsr := t.fpcsr ||| BitVec.ofNat 32 (f t).2 } (f t).1 t') ∧
  (∀ (i : Instr) (fn : ApproxFn) (ty : F1Ty) (d a : Nat), approxRow i = some (fn, ty, d, a) →
    ∃ g : Nat → Nat × Nat,
      (∀ x r, x < 2 ^ (F1Ty.fmt ty).width → specialOf (F1Ty.fmt ty) fn ((F1Ty.fmt ty).dec x) = some r → g x = r) ∧
      (∀ x, (g x).2 < 16) ∧
      (ty = .f32 ∨ ty = .f64 → ApproxWithin (F1Ty.fmt ty) fn g) ∧
      (ty = .f16x2 ∨ ty = .bf16x2 → ∃ g32, ApproxWithin .f32 fn g32 ∧ ThroughF32 (F1Ty.fmt ty) g32 g) ∧
      ∀ s : State, ∃ s', exec i s = .next s' ∧ Threadwise s.issues s s' fun t t' =>
        Delivers s.nextPc t (F1Ty.wide ty) (F1Ty.fmt ty).width d .rne (elsOf ty fun k _ => g (fltBits ty t a k)) t')

/-- R127 to R131: the conversions compute their elements in order under RM and write them as their type says. -/
def Obligations.Conversions : Prop :=
  ∀ (i : Instr) (rm : Rm) (els : Thread → List El) (f : Thread → List Nat → List (Nat × Word)), i.wf = true →
    cvtRow i = some (rm, els, f) → ∀ s : State, ∃ s', exec i s = .next s' ∧ Threadwise s.issues s s' fun t t' =>
      Retired { t with pc := s.nextPc,
                       fpcsr := t.fpcsr ||| BitVec.ofNat 32 (flagsOut (modeUsed t rm) t.rng (els t) % 32),
                       rng := rngOut (modeUsed t rm) t.rng (els t) }
        (f t ((List.range (els t).length).map fun k => (elementOut (modeUsed t rm) t.rng (els t) k).1)) t'

/-- R115, R117: a value that a format holds is delivered as it is, with no flag, in every mode. R115: NaN operands and the
invalid operations give the canonical NaN with NV as the table says, the sign of an exact zero sum, and division by zero, whose infinity saturation leaves (the model's choice, log entry 68). -/
def Obligations.FloatRules : Prop :=
  (∀ F ∈ [Fmt.f32, Fmt.f64, Fmt.f16, Fmt.bf16], ∀ (m : Mode) (sat : Bool) (x : Nat), x < 2 ^ F.width →
    ∀ neg k e, F.dec x = .fin neg k e → F.roundZ m sat (if neg then -(k : Int) else k) e neg = (x, 0)) ∧
  (∀ F ∈ [Fmt.f32, Fmt.f64, Fmt.f16, Fmt.bf16], ∀ (m : Mode) (sat : Bool) (x y : FV),
    ((x.isNan ∨ y.isNan) → ∀ op ∈ [F.add m sat x y, F.mul m sat x y, F.div m sat x y],
      op = (F.nanBits, if x.isSig ∨ y.isSig then 1 else 0)) ∧
    (∀ n, x = .inf n → y = .inf (!n) → F.add m sat x y = (F.nanBits, 1)) ∧
    (∀ n n' e, x = .inf n → y = .fin n' 0 e → F.mul m sat x y = (F.nanBits, 1) ∧ F.mul m sat y x = (F.nanBits, 1)) ∧
    (∀ n n' e e', x = .fin n 0 e → y = .fin n' 0 e' → F.div m sat x y = (F.nanBits, 1)) ∧
    (∀ n n', x = .inf n → y = .inf n' → F.div m sat x y = (F.nanBits, 1)) ∧
    (∀ n n' k e e', k ≠ 0 → x = .fin n k e → y = .fin n' 0 e' →
      F.div m sat x y = (F.signBit (n != n') + F.infBits.getD 0, 2)) ∧
    ∀ n k e, x = .fin n k e → y = .fin (!n) k e → F.add m sat x y = (F.signBit (decide (m = .rdn)), 0))

/-! ## Predicates and lanes -/

/-- R48 to R50, R115, R145: CMP and FCMP write the predicates their combining type says; FCMP adds NV as R115 says. R147, R148:
PLOG sets one predicate by its truth table; SEL picks a source by a predicate. -/
def Obligations.ComparesAndPredicates : Prop :=
  ((∀ (cc : IntCond) (ct : Ct) (ty : IntTy) (q1 q2 a : Nat) (b : CmpB) (s : State),
    Lanewise (.cmp cc ct ty q1 q2 a b) s fun t t' => Predicates s.nextPc t
      (afterCompare t ct q1 q2 (cmpHolds cc (IntTy.sg ty) _ (cmpReg (IntTy.w ty) t a) (cmpB ty t b))) 0 t') ∧
  ∀ (cc : FltCond) (ct : Ct) (ty : FltTy) (q1 q2 a : Nat) (b : CmpB) (s : State),
    Lanewise (.fcmp cc ct ty q1 q2 a b) s fun t t' =>
      let x := (FltTy.fmt ty).dec (cmpReg (FltTy.fmt ty).width t a).toNat
      let y := (FltTy.fmt ty).dec (fcmpB ty t b)
      Predicates s.nextPc t (afterCompare t ct q1 q2 (fcmpHolds cc (FV.cmp x y))) (if fcmpNv cc x y then 1 else 0) t') ∧
  ((∀ (qd qa qb tt : Nat) (s : State), Lanewise (.plog qd qa qb tt) s fun t t' => Predicates s.nextPc t
    (fun q => if q = qd then tt.testBit ((if t.q qa then 2 else 0) + (if t.q qb then 1 else 0)) else t.q q) 0 t') ∧
  ∀ (p d a b : Nat) (s : State), WritesRegs (.sel p d a b) s fun t => one t d (if t.q p then t.src a else t.src b))

/-- R133 to R135: LGET, CENSUS and PEERS, over the participants of each thread. R136: RED combines in a fixed tree over TID
positions, SCAN in ascending order; both add the flags of the additions that formed the result; the combination is the
operator's, on patterns of its width. R133: the participants of a thread are the live threads of its group that the named mask
and j0 both hold; a thread outside them acts alone. -/
def Obligations.CrossLane : Prop :=
  ((∀ (i : Instr) (dbl : Bool) (d a j : Nat) (src : Thread → Nat → Option Int), lgetRow i = some (dbl, d, a, j, src) →
    ∀ s : State, ∃ s', exec i s = .next s' ∧ Threadwise s.issues s s' fun t t' => Retired { t with pc := s.nextPc }
      (writes dbl t d (lgetVal dbl a (s.participants j t.id) t (src t (s.widthOf t.id)))) t') ∧
  (∀ (m : CensusMode) (d a j : Nat) (s : State), WritesRegs (.census m d a j) s fun t =>
    let r := censusVal m a (s.participants j t.id) t
    writes r.1 t d r.2) ∧
  ∀ (dbl : Bool) (d a j : Nat) (s : State), WritesRegs (.peers dbl d a j) s fun t =>
    two t d (BitVec.ofNat 64 (peersVal dbl a (s.participants j t.id) t))) ∧
  ((∀ (op : RedOp) (d a j : Nat) (s : State), Lanewise (.red op d a j) s fun t t' =>
    let ps := s.participants j t.id
    let r := redTree op (s.widthOf t.id) 7 fun u => if u < s.widthOf t.id then laneVal (redWide op) a ps u else none
    Retired { t with pc := s.nextPc, fpcsr := t.fpcsr ||| BitVec.ofNat 32 (r.2 % 32) }
      (writes (redWide op) t d (r.1.getD 0)) t') ∧
  (∀ (op : RedOp) (excl : Bool) (d a j : Nat) (s : State), Lanewise (.scan op excl d a j) s fun t t' =>
    let ps := (s.participants j t.id).filter fun u => if excl then decide (u.id.tid < t.id.tid) else decide (u.id.tid ≤ t.id.tid)
    let r := scanFold op (ps.map fun u => if redWide op then (u.srcPair a).toNat else (u.src a).toNat)
    Retired { t with pc := s.nextPc, fpcsr := t.fpcsr ||| BitVec.ofNat 32 (r.2 % 32) } (writes (redWide op) t d r.1) t') ∧
  ∀ (op : RedOp) (x y : Nat), op.wf = true → x < 2 ^ (if redWide op then 64 else 32) → y < 2 ^ (if redWide op then 64 else 32) →
    redApp op x y = redStep op x y) ∧
  (∀ (s : State) (j : Nat) (t : ThreadId) (g : Group), s.group? t.gid = some g → t.tid < g.width → ∀ u : Thread,
    s.thread? u.id = some u → u.id.gid = t.gid →
      (u ∈ s.participants j t ↔ if (g.mask j).testBit t.tid ∧ (g.mask 0).testBit t.tid
        then u.id.tid < g.width ∧ (g.mask j).testBit u.id.tid ∧ (g.mask 0).testBit u.id.tid else u.id.tid = t.tid))

/-! ## Control, exceptions, system registers -/

/-- R142: BR goes to its target in the lanes whose guard passes, on in the others. R143: JAL links in an anchor pair, field 0
without a link. R144, R326: JR jumps, links and faults lane by lane. -/
def Obligations.BranchesAndJumps : Prop :=
  (∀ (g : Guard) (off : Int) (s : State), Lanewise (.br g off) s fun t t' =>
    Retired { t with pc := if t.guardPasses g then branchTo s.issue.pc off else s.nextPc } [] t') ∧
  (∀ (d : Nat) (off : Int) (s : State), Lanewise (.jal d off) s fun t t' =>
    Retired { t with pc := branchTo s.issue.pc off }
      (if d = 0 then [] else [(d, BitVec.ofNat 32 s.nextPc), (d + 1, BitVec.ofNat 32 (s.nextPc / 2 ^ 32))]) t') ∧
  ∀ (g : Guard) (a l : Nat) (s : State), LaneLoop (.jr g a l) s (jrOut s g a l)

/-- R140, R149, R191: NOP, SLEEP, YIELD, WBASE and WAIT. SLEEP 0 waits for nothing; WBASE above 8 faults with cause 0x12. R140:
a SLEEP or YIELD whose cycles have passed is over, for its thread alone. -/
def Obligations.WaitsBeginAndEnd : Prop :=
  ((∀ s : State, Lanewise .nop s fun t t' => Retired { t with pc := s.nextPc } [] t') ∧
  (∀ (n : Nat) (s : State), Lanewise (.sleep n) s fun t t' =>
    Retired { t with pc := s.nextPc, wait := if n = 0 then t.wait else .sleep (s.clock.cycle + 16 * n) } [] t') ∧
  (∀ s : State, Lanewise .yield s fun t t' => Retired { t with pc := s.nextPc, wait := .yield (s.clock.cycle + 8) } [] t') ∧
  (∀ (b : Nat) (s : State), LaneLoop (.wbase b) s fun t =>
    if b > 8 then .error { cause := 0x12 } else .ok ({ t with pc := s.nextPc, wb := 16 * b }, [])) ∧
  ∀ (nl ns nc nt : Nat) (s : State), (∀ t ∈ s.threads, t.id ∈ s.issue.bundle → t.owed = []) →
    Lanewise (.wait nl ns nc nt) s fun t t' => Retired { t with pc := s.nextPc, wait := .counts nl ns nc nt } [] t') ∧
  ((∀ (k : ThreadId) (s : State), ∃ s', exec (.sleepExpiry k) s = .next s' ∧
    Threadwise (fun x => x = k) s s' fun t t' => t' = WaitOver (isSleepBy s.clock.cycle) s.clock.cycle t) ∧
  ∀ (k : ThreadId) (s : State) (g : Group) (t : Thread) (c : Nat), s.group? k.gid = some g → s.thread? k = some t →
    t.wait = .yield c → c ≤ s.clock.cycle → t.redo = [] → ∃ s', exec (.yieldRelease k) s = .next s' ∧
      Threadwise (fun x => x = k) s s' fun u u' => u' = WaitOver (isYieldBy s.clock.cycle) s.clock.cycle u)

/-- R214, R350: an instruction that retires counts in the thread's retired work; a lane that executed one instruction again goes
on from where it stood, the step trap of the instruction it has just done waiting for its wait to end (the kept point is the
model's, log entry 27). R140, R141: TRAP and BKPT retire (log entry 24), then every lane of the bundle parks, with cause 0x07 or
0x08, to resume after them. -/
def Obligations.RetirementAndTraps : Prop :=
  (∀ t : Thread,
    (t.redo = [] → t.retire = { t with retired := t.retired + 1, regen := [], counted := none, stallAt := none }) ∧
    ∀ r l, t.redo = r :: l → t.retire = { t with
      pc := r.pc, wb := r.wb, wait := r.wait, counted := r.counted, stepOwed := r.stepOwed, stepNow := t.stepOwed,
      redo := l, regen := [], stallAt := none }) ∧
  ((∀ (c : Nat) (s : State), ∃ s1, Threadwise s.issues s s1 (fun t t' => Retired { t with pc := s.nextPc } [] t') ∧
    exec (.trap c) s = .next (s1.raise (trapFaults s 0x07 c) none)) ∧
  ∀ s : State, ∃ s1, Threadwise s.issues s s1 (fun t t' => Retired { t with pc := s.nextPc } [] t') ∧
    exec .bkpt s = .next (s1.raise (trapFaults s 0x08 0) none))

/-- R36, R214, R342, R343, R361: taking an exception parks each thread of the list and leaves every other; the faults of one
group with one cause, reason and underlying cause make one record, which waits in the group's die with its fields of R342, the
lowest address among them; a lane whose address is its own keeps it; nothing else changes. What lanes share one record, and
which keep an address of their own, is the model's reading (log entry 37). -/
def Obligations.TakingException : Prop :=
  ∀ (fs : List LaneFault) (die : Option Nat) (s : State),
    (∃ ts ds, s.raise fs die = { s with threads := ts, dies := ds }) ∧
    (∀ k t, s.thread? k = some t → ∃ t', (s.raise fs die).thread? k = some t' ∧
      ((∀ f ∈ fs, f.th ≠ k) → t' = t) ∧
      ∀ f, fs.find? (fun x => decide (x.th = k)) = some f → ∃ low,
        t' = ParkedFrom t f.info.cause f.info.addr0 low f.resume ∧ (f.info.own = true → low = f.info.addr1) ∧
        (f.info.own = false → ∃ f' ∈ fs, f'.info.addr1 = low ∧ f'.th.gid = f.th.gid ∧ ∀ x ∈ fs, x.th.gid = f.th.gid →
          f.info.shares x.info = true → low ≤ x.info.addr1)) ∧
    ∀ (f : LaneFault) (rest : List LaneFault) (g : Group) (gr : Grid), fs = f :: rest → s.group? f.th.gid = some g →
      s.grid? g.id.grid = some gr → (∀ x ∈ rest, x.th.gid = f.th.gid ∧ f.info.shares x.info = true) →
      let d := (f.info.die.orElse fun _ => die).getD g.core.die
      (∀ e, e ≠ g.core.die → (s.raise fs die).die e = s.die e) ∧
      ∃ r : Record, (s.raise fs die).die g.core.die = { s.die g.core.die with waiting := (s.die g.core.die).waiting ++ [r] } ∧
        r.q = .part gr.part ∧ r.words.length = 16 ∧
        r.word 0 = f.info.cause * 2 ^ 24 + f.info.under * 2 ^ 16 + f.info.reason * 2 ^ 8 + f.info.kind * 2 ^ 4 ∧
        r.word 1 = gr.reqtag % 2 ^ 16 * 2 ^ 16 + gr.tenant % 2 ^ 16 ∧ r.word 2 = g.id.grid % 2 ^ 32 ∧
        r.word 3 = g.id.team % 2 ^ 24 * 2 ^ 8 + g.id.group % 2 ^ 4 * 2 ^ 4 ∧
        (∀ u, u < 64 → ((r.word 4 + 2 ^ 32 * r.word 5).testBit u ↔ ∃ x ∈ fs, x.th.tid = u)) ∧
        r.word 6 + 2 ^ 32 * r.word 7 = f.info.addr0 % 2 ^ 64 ∧
        (∃ x ∈ fs, r.word 8 + 2 ^ 32 * r.word 9 = x.info.addr1 % 2 ^ 64 ∧ ∀ y ∈ fs, x.info.addr1 ≤ y.info.addr1) ∧
        r.word 10 = d * 2 ^ 29 + DieState.code (s.die d).st * 2 ^ 27 + g.core.core * 2 ^ 21 + g.quad * 2 ^ 19 ∧
        r.word 11 = f.info.info % 2 ^ 32 ∧ r.word 12 + 2 ^ 32 * r.word 13 = f.info.aux0 % 2 ^ 64 ∧
        r.word 14 + 2 ^ 32 * r.word 15 = f.info.aux1 % 2 ^ 48

/-- R66, R150 to R152: EXIT ends the threads of the bundle: their bits leave every mask of their group; other threads may only
have a wait ended; registers, memory and accesses stay. -/
def Obligations.ExitEndsThreads : Prop :=
  ∀ s : State, ∃ s', exec .exit s = .next s' ∧
    s' = { s with threads := s'.threads, groups := s'.groups, teams := s'.teams, cores := s'.cores } ∧
    (∀ k ∈ s.issue.bundle, s'.thread? k = none) ∧
    (∀ k t, k ∉ s.issue.bundle → s.thread? k = some t → ∃ t', s'.thread? k = some t' ∧
      t' = { t with wait := t'.wait, nextAt := t'.nextAt, redo := t'.redo } ∧
      (t'.wait = t.wait ∨ t'.wait = .none)) ∧
    ∀ k g, s.group? k = some g → ∃ g', s'.group? k = some g' ∧
      g' = { g with masks := g'.masks, arrivals := g'.arrivals, retiredEnded := g'.retiredEnded } ∧
      ∀ n u, (g'.mask n).testBit u = true ↔ (g.mask n).testBit u = true ∧ ¬ s.inBundle k u

/-- R151: RJARM adds the bundle's threads to a mask and RJDROP takes them out of masks; RJWAIT lets its members arrive and wait,
and others pass; RJRD reads a mask. Each then has its groups evaluate their masks. R151: the evaluation of a mask releases every
waiter, and clears the arrivals, when all live members have arrived, and changes nothing otherwise. -/
def Obligations.Rejoin : Prop :=
  ((∀ (n : Nat) (s : State), ∃ s1, exec (.rjarm n) s = .next (evaluated s1) ∧
    Groupwise s.issues s s1 (fun t t' => Retired { t with pc := s.nextPc } [] t') fun g g' =>
      ∃ v, g' = { g with masks := g.masks.set n v } ∧
        ∀ u, v.testBit u = true ↔ (g.mask n).testBit u = true ∨ s.inBundle g.id u) ∧
  (∀ (l h : Nat) (s : State), ∃ s1, exec (.rjdrop l h) s = .next (evaluated s1) ∧
    Groupwise s.issues s s1 (fun t t' => Retired { t with pc := s.nextPc } [] t') fun g g' =>
      g' = { g with masks := g'.masks } ∧
        ∀ k u, (g'.mask k).testBit u = true ↔ (g.mask k).testBit u = true ∧ ¬(l ≤ k ∧ k ≤ h ∧ s.inBundle g.id u)) ∧
  (∀ (n : Nat) (s : State), ∃ s1, exec (.rjwait n) s = .next (evaluated s1) ∧
    Groupwise s.issues s s1 (fun t t' => Retired { t with
        pc := s.nextPc,
        wait := match s.group? t.id.gid with
          | some g => if (g.mask n).testBit t.id.tid ∧ (g.mask 0).testBit t.id.tid then .rejoin n else t.wait
          | none => t.wait } [] t') fun g g' =>
      ∃ v, g' = { g with arrivals := g.arrivals.set n v } ∧ ∀ u, v.testBit u = true ↔ (g.arrived n).testBit u = true ∨
        (s.inBundle g.id u ∧ (g.mask n).testBit u = true ∧ (g.mask 0).testBit u = true)) ∧
  ∀ (d n : Nat) (s : State), WritesRegs (.rjrd d n) s fun t =>
    two t d (BitVec.ofNat 64 (((s.group? t.id.gid).map fun g => g.mask n).getD 0))) ∧
  (∀ (s : State) (g : Group) (n : Nat), s.group? g.id = some g →
    let all := ∀ u, (g.mask n).testBit u = true → (g.mask 0).testBit u = true → (g.arrived n).testBit u = true
    (g.arrived n ≠ 0 → all → g.act ≠ .saved → g.act ≠ .swapped → Groupwise (fun k => k.gid = g.id ∧ (g.arrived n).testBit k.tid = true) s (s.evalMask g.id n)
      (fun t t' => t' = WaitOver (isRejoin n) (s.clock.cycle + 2) t)
      fun x x' => x' = if x.id = g.id then { x with arrivals := x.arrivals.set n 0 } else x) ∧
    (g.arrived n = 0 ∨ ¬ all ∨ g.act = .saved ∨ g.act = .swapped → s.evalMask g.id n = s))

/-- R52, R55, R114, R117: RSYS reads every system register below 0x40, CYCLELO latching CYCLEHI; WSYS writes FPCSR and OOBFLAG;
every other access, and a MODE of 6 or 7, faults with cause 0x01 and changes nothing. -/
def Obligations.SystemRegisters : Prop :=
  (∀ (d n : Nat) (s : State), n < 0x40 → Lanewise (.rsys d n) s fun t t' =>
    Retired { t with pc := s.nextPc, cyclehi := if n = 0x0E then s.clock.cycle / 2 ^ 32 % 2 ^ 32 else t.cyclehi }
      (writes (decide (n ∈ [0x10, 0x1D, 0x1E])) t d (sysVal s t n)) t') ∧
  (∀ (d n : Nat) (s : State), 0x40 ≤ n → LaneLoop (.rsys d n) s fun _ => .error { cause := 0x01 }) ∧
  ∀ (n a : Nat) (s : State), LaneLoop (.wsys n a) s (wsysOut s n a)

/-! ## Accesses and memory -/

/-- R178, R180: the bytes of an access lie in its segment and are aligned; without a swizzle they follow on from BASE plus the
offset; a swizzle is its own inverse and keeps the four low bits. R178 to R188: LD, ST, ATOM, LDF and STF issue one operation at
the translated bytes, or at the bytes of the device that the capability names, and retire; every byte of memory stays but what
the translation itself sets. -/
def Obligations.AccessIssue : Prop :=
  ((∀ (c : Cap) (off : Int) (z : Nat) (ps : List (Nat × Nat)), z ∈ [1, 2, 4, 8, 16, 256] → formAccess c off z = .ok ps →
    (pieceBytes ps).length = z ∧ (∀ p ∈ ps, p.1 % p.2 = 0) ∧ (∀ a ∈ pieceBytes ps, c.base ≤ a ∧ a < c.base + c.extent) ∧
    (c.swz = 0 → pieceBytes ps = (List.range z).map fun j => c.base + off.toNat + j)) ∧
  (∀ (c : Cap) (off : Int) (z : Nat), z ∈ [1, 2, 4, 8, 16, 256] → ((c.base + off) % (min z 16 : Nat) ≠ 0 →
      ∃ va, formAccess c off z = .misaligned va) ∧
    ((c.base + off) % (min z 16 : Nat) = 0 → (off < 0 ∨ off + z > c.extent) → ∃ va, formAccess c off z = .outside va)) ∧
  ∀ o v : Nat, v < 256 → swz (swz o v) v = o ∧ swz o v % 16 = o % 16) ∧
  ((∀ (i : Instr) (q : Ask) (c : Cap) (t : Thread) (s s1 : State) (ps ks : List (Nat × Nat)), OneLane s t →
    accessRow t c i = some q → CapPasses s t q c → Cap.remote c = false → q.guard = true →
    formAccess c (q.off t c) q.bytes = .ok ps →
    s.translateAll t.qid (s.vfOf t.id) (if q.writes then .wr else .rd) ps = (s1, .ok ks) →
    (∀ p ∈ ks, isRemote p.1 = true → s1.inDomain (remoteDev p.1) = true) →
    s1.gate (s1.routeOf t q.kind (pieceBytes ks)) = .go →
    ∃ s' o, exec i s = .next s' ∧ Operation s t q (.mem ks) o ∧ IssuesOp s s1 s' t (t.passed s.nextPc) q.cls o) ∧
  ∀ (i : Instr) (q : Ask) (c : Cap) (t : Thread) (s : State) (ps : List (Nat × Nat)), OneLane s t →
    accessRow t c i = some q → CapPasses s t q c → Cap.remote c = true → s.inDomain c.device = true → q.guard = true →
    formAccess c (q.off t c) q.bytes = .ok ps →
    let ks := ps.map fun p => (remoteKey c.device p.1, p.2)
    s.gate (s.routeOf t q.kind (pieceBytes ks)) = .go →
    ∃ s' o, exec i s = .next s' ∧ Operation s t q (.mem ks) o ∧ IssuesOp s s s' t (t.passed s.nextPc) q.cls o)

/-- R63, R178, R188, R213, R214: the capability faults with cause 0x04 (0x0D for a device outside the domain), a false guard
retires with no effect, a misaligned access faults with 0x06; out of bounds faults with 0x05 under TOOB, else the registers
become zero and OOBFLAG is set; a byte that does not translate holds the lane with cause 0x03. R18, R19: an access that would
leave the die waits where a die of its route is in Dusk, and its lane with it; where one is in Dawn or Midnight the lane is held
with cause 0x0C, naming the die. -/
def Obligations.AccessFaults : Prop :=
  (∀ (i : Instr) (q : Ask) (c : Cap) (t : Thread) (s : State), OneLane s t → accessRow t c i = some q →
    ((s.capOf t.id.tmid q.k = none ∨ s.capOf t.id.tmid q.k = some c ∧ (c.tenant ≠ s.tenantOf t.id ∨ q.allowed = false)) →
      exec i s = .next ((s.modThread t.id Thread.sliced).raise [laneFault s t { cause := 0x04, info := q.k }] none)) ∧
    (CapPasses s t q c →
      (Cap.remote c = true → s.inDomain c.device = false →
        exec i s = .next ((s.modThread t.id Thread.sliced).raise [laneFault s t { cause := 0x0D }] none)) ∧
      ((Cap.remote c = true → s.inDomain c.device = true) →
        (q.guard = false → Lanewise i s fun u u' => Retired { u with pc := s.nextPc } [] u') ∧
        (q.guard = true →
          (∀ va, formAccess c (q.off t c) q.bytes = .misaligned va → CountedFault i s t { cause := 0x06, addr1 := va }) ∧
          (∀ va, formAccess c (q.off t c) q.bytes = .outside va →
            (c.has 5 → CountedFault i s t { cause := 0x05, addr1 := va }) ∧
            (¬ c.has 5 → Lanewise i s fun u u' =>
              Retired { u with pc := s.nextPc, oobflag := true } (zeroWrites q.dst) u')) ∧
          (∀ ps s1 e, Cap.remote c = false → formAccess c (q.off t c) q.bytes = .ok ps →
            s.translateAll t.qid (s.vfOf t.id) (if q.writes then .wr else .rd) ps = (s1, .error e) →
            ∃ s', exec i s = .next s' ∧ s' = { s1 with threads := s'.threads, groups := s'.groups } ∧
              (∀ k, k ≠ t.id → s'.thread? k = s.thread? k) ∧
              s'.thread? t.id = some { t with regen := [], counted := some s.issue.num,
                                              wait := .fault s.issue.num 0x03 e.1 e.2 0 0 }))))) ∧
  (∀ (i : Instr) (q : Ask) (c : Cap) (t : Thread) (s s1 : State) (ps ks : List (Nat × Nat)), OneLane s t →
    accessRow t c i = some q → CapPasses s t q c → Cap.remote c = false → q.guard = true →
    formAccess c (q.off t c) q.bytes = .ok ps →
    s.translateAll t.qid (s.vfOf t.id) (if q.writes then .wr else .rd) ps = (s1, .ok ks) →
    (∀ p ∈ ks, isRemote p.1 = false) →
    let ds := s1.routeOf t q.kind (pieceBytes ks)
    let held := fun w : Wait => { t with regen := [], counted := some s.issue.num, wait := w }
    (∀ d, ds.find? (fun d => decide ((s1.die d).st = .dawn ∨ (s1.die d).st = .midnight)) = some d →
      ∃ s', exec i s = .next s' ∧ s'.ops = s.ops ∧ s'.mem = s1.mem ∧
        s'.thread? t.id = some (held (.fault s.issue.num 0x0C 0 ((ps.head?.map Prod.fst).getD 0) 0 d))) ∧
    ((∀ d ∈ ds, (s1.die d).st = .noon ∨ (s1.die d).st = .dusk) → (∃ d ∈ ds, (s1.die d).st = .dusk) →
      ∃ s' o, exec i s = .next s' ∧ Operation s t q (.mem ks) o ∧ o.stall = some s.clock.cycle ∧
        IssuesOp s s1 s' t (held (.dusk o.id)) q.cls o))

/-- R189, R190: LDS, STS and ATOMS reach the tile of the thread's own team, or of the team of the cluster that gC names, where
its entry is READY; otherwise cause 0x0E; misaligned, 0x06; outside the tile, the registers become zero and OOBFLAG is set. That
a misaligned lane outside the tile has cause 0x06 is the model's order (log entry 36). -/
def Obligations.ScratchpadAccess : Prop :=
  ∀ (i : Instr) (q : Ask) (cf : Nat) (t : Thread) (s : State), OneLane s t → spadRow t i = some (q, cf) →
    let off : Int := (t.src q.a).toNat + q.disp
    let own := fun (tm : TeamId) (x : Team) => s.team? tm = some x ∧ q.k ∈ x.tiles ∧ x.saved = false ∧
      tState (s.tile x.core q.k) = 2
    let reach := fun tm : TeamId => (cf = 0 ∧ tm = t.id.tmid) ∨ (cf ≠ 0 ∧ ∃ gr : Grid, s.grid? t.id.grid = some gr ∧
      (t.src cf).toNat < 12 ∧ (t.src cf).toNat < gr.desc.tpc ∧
      tm = { grid := t.id.grid, team := t.id.team / gr.desc.tpc * gr.desc.tpc + (t.src cf).toNat })
    (∀ tm x, reach tm → own tm x →
      (off % (q.bytes : Int) ≠ 0 → CountedFault i s t { cause := 0x06 }) ∧
      (off % (q.bytes : Int) = 0 → (off < 0 ∨ off + q.bytes > (16 * tSize (s.tile x.core q.k) : Nat)) →
        Lanewise i s fun u u' => Retired { u with pc := s.nextPc, oobflag := true } (zeroWrites q.dst) u') ∧
      (off % (q.bytes : Int) = 0 → 0 ≤ off → off + q.bytes ≤ (16 * tSize (s.tile x.core q.k) : Nat) →
        ∃ s' o, exec i s = .next s' ∧ Operation s t q (.spad tm (16 * tBase (s.tile x.core q.k) + off.toNat)) o ∧
          IssuesOp s s s' t (t.passed s.nextPc) q.cls o)) ∧
    ((∀ tm x, reach tm → ¬ own tm x) → (cf ≠ 0 → (s.grid? t.id.grid).isSome) →
      (cf = 0 → exec i s = .next ((s.modThread t.id Thread.sliced).raise [laneFault s t { cause := 0x0E, info := q.k }] none)) ∧
      (cf ≠ 0 → CountedFault i s t { cause := 0x0E, info := q.k }))

/-- R184, R186, R205: the value of a load, or the old value of an atomic, arrives in its registers and the operation is
complete; memory and every other thread stay. R75, R205, R209: a byte that no core write, image or L2 line holds is read from
memory; a plain load returns the core's latest write that is not yet published; a PST load does not see a write performed in its
phase. -/
def Obligations.LoadArrival : Prop :=
  ((∀ (s : State) (o : Op) (t : Thread) (x : Team) (tm : TeamId) (off : Nat), Effective s o →
    (OpKind.cls o.kind = .ld) → o.space = .spad tm off → s.team? tm = some x → s.thread? o.th = some t → o.dst.isSome →
    ∃ s', exec (.loadResultArrival o.id) s = .next s' ∧ OpEnds o s s' ∧
      s' = { s with ops := s'.ops, groups := s'.groups, threads := s'.threads } ∧
      (∀ k, k ≠ o.th → s'.thread? k = s.thread? k) ∧
      ∃ t', s'.thread? o.th = some t' ∧ Receives o (Memory.readN x.spad off o.size) t t') ∧
  (∀ (s : State) (o : Op) (t : Thread) (ps : List (Nat × Nat)), Effective s o → (OpKind.cls o.kind = .ld) →
    o.space = .mem ps → Space.remote o.space = false → s.thread? o.th = some t → o.dst.isSome →
    let keys := pieceBytes ps
    let s1 := imaged s t keys o.fills
    ∃ s', exec (.loadResultArrival o.id) s = .next s' ∧ OpEnds o s s' ∧
      s' = { s1 with ops := s'.ops, groups := s'.groups, threads := s'.threads } ∧ s'.mem = s.mem ∧
      (∀ k, k ≠ o.th → s'.thread? k = s.thread? k) ∧
      ∃ t', s'.thread? o.th = some t' ∧ Receives o
        (keys.map fun k => s1.loadByte t (match o.kind with | .load _ p => p | _ => o.pst) k) { t with observed := t'.observed } t') ∧
  ∀ (s : State) (o : Op) (t : Thread) (bs : List Byte), s.op? o.id = some o → (OpKind.cls o.kind = .at_) → o.answer = some bs →
    s.opDue o = true → s.thread? o.th = some t → o.dst.isSome →
    ∃ s', exec (.loadResultArrival o.id) s = .next s' ∧ OpEnds o s s' ∧
      s' = { s with ops := s'.ops, groups := s'.groups, threads := s'.threads } ∧
      (∀ k, k ≠ o.th → s'.thread? k = s.thread? k) ∧ ∃ t', s'.thread? o.th = some t' ∧ Receives o bs t t') ∧
  (∀ (s : State) (t : Thread) (a : Nat), isRemote a = false →
    let c := s.core t.core
    ((∀ w ∈ c.writes, w.addr ≠ a) → (∀ x ∈ c.images, x.word ≠ a / 16) → (s.die t.core.die).line? (a / 128) = none →
      ∀ pst, (imaged s t [a] []).loadByte t pst a = Memory.read s.mem a) ∧
    (∀ w, (c.writes.filter fun w => decide (w.addr = a)).getLast? = some w → w.pub = none →
      (imaged s t [a] []).loadByte t false a = w.val) ∧
    ((∀ w ∈ c.writes, w.addr = a → t.acqAt < w.perf ∧ w.pub = none) → (∀ x ∈ c.images, x.word ≠ a / 16) →
      (s.die t.core.die).line? (a / 128) = none → (imaged s t [a] []).loadByte t true a = Memory.read s.mem a))

/-- R74, R182, R189: a store writes its bytes at the core, or in the scratchpad, and is complete; a store to another device
stays in flight until it is acknowledged (R188); every other byte stays. R80, R182, R187, R190: an atomic reads and writes its
target at its point in one step, after the blocks it allocated have their words (R202); the old value comes back where it has a
destination, else it is complete; every other byte stays. -/
def Obligations.StoreAndAtomicPerform : Prop :=
  (∀ (s : State) (o : Op), Effective s o → o.kind = .store →
    (∀ tm off x, o.space = .spad tm off → s.team? tm = some x → o.data.length = o.size →
      ∃ s', exec (.storePerform o.id) s = .next s' ∧ OpEnds o s s' ∧
        s' = { s with ops := s'.ops, groups := s'.groups, teams := s'.teams } ∧
        (∀ k, k ≠ tm → s'.team? k = s.team? k) ∧ ∃ x', s'.team? tm = some x' ∧ x' = { x with spad := x'.spad } ∧
        ∀ a, Memory.read x'.spad a = if off ≤ a ∧ a < off + o.size then o.data.getD (a - off) 0 else Memory.read x.spad a) ∧
    ∀ ps, o.space = .mem ps → (pieceBytes ps).Nodup → o.data.length = (pieceBytes ps).length →
      ∃ s', exec (.storePerform o.id) s = .next s' ∧
        s' = { s with ops := s'.ops, groups := s'.groups, cores := s'.cores } ∧
        (∀ c, CoreId.idx c ≠ CoreId.idx o.core → s'.core c = s.core c) ∧
        (∃ ws, s'.core o.core = { s.core o.core with writes := (s.core o.core).writes ++ ws } ∧
          ws.map CoreWrite.addr = pieceBytes ps ∧ ws.map CoreWrite.val = o.data ∧
          ∀ w ∈ ws, w.perf = s.clock.tick ∧ w.pub = none ∧ w.engine = none) ∧
        (∀ j, j < (pieceBytes ps).length → s'.teamByte o.core ((pieceBytes ps).getD j 0) = o.data.getD j 0) ∧
        (∀ a, a ∉ pieceBytes ps → s'.teamByte o.core a = s.teamByte o.core a) ∧
        (Space.remote o.space = false → OpEnds o s s') ∧
        (Space.remote o.space = true → s'.groups = s.groups ∧
          s'.ops = (s.ops.filter fun x => decide (x.id ≠ o.id)) ++ [{ o with answer := some [] }])) ∧
  (∀ (s : State) (o : Op) (op : AtomOp) (dbl : Bool) (sc : AtomScope) (sv cv : Nat), Effective s o →
    o.kind = .atomic op dbl sc sv cv → o.size = (if dbl then 8 else 4) → Space.remote o.space = false →
    sv < 2 ^ (8 * o.size) → cv < 2 ^ (8 * o.size) → s.gate (s.lateRoute o) = .go →
    let new := fun old : List Byte => natLE o.size (atomVal op (8 * o.size) (if dbl then Fmt.f64 else Fmt.f32) (leNat old) sv cv)
    let ends := fun (old : List Byte) (s' : State) => if o.dst.isSome
      then s'.groups = s.groups ∧
        s'.ops = s.ops.map fun x => if x.id = o.id then { x with answer := some old, due := s.clock.cycle } else x
      else OpEnds o s s'
    (∀ ps, o.space = .mem ps → (pieceBytes ps).Nodup → (pieceBytes ps).length = o.size →
      let s1 := s.atomFill o
      let old := (pieceBytes ps).map (atPoint s1 o.core sc)
      ∃ s', exec (.atomicPerform o.id) s = .next s' ∧ ends old s' ∧
        (∀ j, j < o.size → atPoint s' o.core sc ((pieceBytes ps).getD j 0) = (new old).getD j 0) ∧
        (∀ a, a ∉ pieceBytes ps → atPoint s' o.core sc a = atPoint s1 o.core sc a) ∧
        (sc = .team ∨ sc = .cluster → s'.mem = s.mem) ∧
        s' = { s with ops := s'.ops, groups := s'.groups, threads := s'.threads, cores := s'.cores, dies := s'.dies, mem := s'.mem }) ∧
    ∀ tm off x, o.space = .spad tm off → s.team? tm = some x →
      let old := Memory.readN x.spad off o.size
      ∃ s', exec (.atomicPerform o.id) s = .next s' ∧ ends old s' ∧
        (∃ x', s'.team? tm = some x' ∧ x' = { x with spad := x'.spad } ∧
          ∀ a, Memory.read x'.spad a = if off ≤ a ∧ a < off + o.size then (new old).getD (a - off) 0 else Memory.read x.spad a) ∧
        (∀ k, k ≠ tm → s'.team? k = s.team? k) ∧ s'.mem = s.mem)

/-- R76 to R81, R192, R193: PHASE.REL goes on as a release in flight, PHASE.ACQ and PHASE.AR hold their thread; FENCE makes
later operations of one class wait for the earlier ones of the other that have still to take effect. R76, R78, R90, R188: a
release completes: the core's latest unpublished writes are present at its point (also those not joined, log entry 25), and no
byte that the core has not written changes. R72, R77, R205: an acquire completes: the thread is in its next phase, holds no image, and goes on. -/
def Obligations.PhasesAndReleases : Prop :=
  ((∀ (s : State) (t : Thread) (sc : Scope), OneLane s t →
    ∀ p ∈ [(Instr.phaseRel sc, OpKind.rel sc), (.phaseAcq sc, .acq sc), (.phaseAr sc, .relacq sc false)],
      ∃ s' o, exec p.1 s = .next s' ∧ s'.ops = s.ops ++ [o] ∧ o.kind = p.2 ∧ o.th = t.id ∧ o.core = t.core ∧
        s' = { s with ops := s'.ops, threads := s'.threads, clock := { s.clock with fresh := s.clock.fresh + 1 } } ∧
        (∀ x ∈ s.ops, x.th = t.id → x.id < s.clock.fresh → mustPrecede t.core x p.2 .none = true → x.id ∈ o.deps) ∧
        (∀ k, k ≠ t.id → s'.thread? k = s.thread? k) ∧
        s'.thread? t.id = some (Thread.passed { t with wait := if p.2 = .rel sc then t.wait else .phase o.id } s.nextPc)) ∧
  ∀ (e l : ClassSet) (s : State), Lanewise (.fence e l) s fun t t' => ∃ ids : List Nat,
    (∀ n, n ∈ ids ↔ ∃ o ∈ s.ops, o.id = n ∧ o.th = t.id ∧ ClassSet.has e (OpKind.cls o.kind) = true ∧
      s.tookEffect n = false) ∧
    Retired { t with pc := s.nextPc, fences := if ids = [] then t.fences else t.fences ++ [(l, s.clock.fresh, ids)] } [] t') ∧
  ((∀ (s : State) (t : ThreadId) (o : Op), s.relOf t = some o → s.gate (s.lateRoute o) = .go → s.waitsLock o = false →
    (o.kind.scope = .domain → o.sent = true ∧ ∀ m ∈ o.marks, s.unackedAt m = false) →
    ∃ s', exec (.phaseRelComplete t) s = .next s' ∧
      s'.ops = (match o.kind with
        | .rel _ => s.ops.filter fun x => decide (x.id ≠ o.id)
        | _ => s.ops.map fun x => if x.id = o.id then
            { x with kind := .relacq o.kind.scope true, due := s.clock.cycle + 1 } else x) ∧
      s' = { s with ops := s'.ops, threads := s'.threads, cores := s'.cores, dies := s'.dies, mem := s'.mem, poison := s'.poison } ∧
      (o.kind.scope = .cluster → s'.mem = s.mem) ∧
      (∀ a w, isRemote a = false → ((s.core o.core).writes.filter fun x => decide (x.addr = a)).getLast? = some w → w.pub = none →
        w.engine = none →
        (o.kind.scope = .cluster → s'.readL2 o.core.die a = w.val) ∧
        (o.kind.scope = .device ∨ o.kind.scope = .domain → s.frameStays (s.unpublished o.core) a → Memory.read s'.mem a = w.val)) ∧
      ∀ a, (∀ w ∈ (s.core o.core).writes, w.addr = a → w.pub ≠ none) →
        (∀ l ∈ (s.die o.core.die).l2, ∀ e ∈ l.dirty, e.addr ≠ a) → Memory.read s'.mem a = Memory.read s.mem a) ∧
  ∀ (s : State) (t : Thread) (g : Group) (o : Op), s.thread? t.id = some t → s.group? t.id.gid = some g → t.park = none →
    s.ops.find? (fun x => decide (x.th = t.id) && s.opDue x && (match x.kind with
      | .acq _ => true
      | .relacq _ true => true
      | _ => false)) = some o → t.loadRecipes g = [] → t.redo = [] →
    ∃ s', exec (.phaseAcqComplete t.id) s = .next s' ∧ s'.mem = s.mem ∧
      s'.ops = s.ops.filter (fun x => decide (x.id ≠ o.id)) ∧ (∀ k, k ≠ t.id → s'.thread? k = s.thread? k) ∧
      s'.thread? t.id = some { t with
        phaseno := (t.phaseno + 1) % 2 ^ 32, acqScope := o.kind.scope, acqAt := s.clock.tick,
        wait := if t.wait = .phase o.id then .none else t.wait,
        nextAt := if t.wait = .phase o.id then max t.nextAt (s.clock.cycle + 2) else t.nextAt, stallAt := none } ∧
      ∀ c ∈ s'.cores, ∀ x ∈ c.2.images, ∀ h ∈ x.holders, h.1 ≠ t.id)

/-- R194, R195: CMAINT issues its maintenance of the range within EXTENT and retires; beyond it, cause 0x05 under TOOB, else
OOBFLAG. PREF never faults and has no effect on registers, and on memory none but what its translation sets. A CMAINT at level 3 leaves the latest bytes of its range at the
device, and changes no byte outside it. R202, R206 to R208, R219: a block that leaves the L1, and a line that leaves the L2,
take no written byte with them: memory stays, or takes the bytes that the die had published no later than the line's own. A line
stays while one of those bytes waits at a locked frame, or a die on the way to its home is not in Noon (R18). -/
def Obligations.CacheMaintenance : Prop :=
  ((∀ (op : MaintOp) (lv k a b : Nat) (t : Thread) (s : State) (c : Cap), OneLane s t → s.capOf t.id.tmid k = some c →
    c.tenant = s.tenantOf t.id → (c.has 1 ∨ op = .clean ∧ c.has 0) → Cap.remote c = false →
    let off := (t.srcPair a).toNat
    let n := (t.srcPair b).toNat
    let r := rangePieces c off n
    (r.2 = true → c.has 5 → ∃ va, exec (.cmaint op lv k a b) s =
      .next ((s.modThread t.id Thread.sliced).raise [laneFault s t { cause := 0x05, addr1 := va }] none)) ∧
    (n = 0 → Lanewise (.cmaint op lv k a b) s fun u u' => Retired { u with pc := s.nextPc } [] u') ∧
    (n ≠ 0 → (r.2 = true → ¬ c.has 5) → ∀ s1 ks, s.translateAll t.qid (s.vfOf t.id) .either r.1 = (s1, .ok ks) →
      ∃ s' o, exec (.cmaint op lv k a b) s = .next s' ∧ s'.ops = s.ops ++ [o] ∧ o.kind = .cmaint op lv ks ∧ o.th = t.id ∧
        s' = { s1 with ops := s'.ops, threads := s'.threads, clock := { s1.clock with fresh := s1.clock.fresh + 1 } } ∧
        (∀ j, j ≠ t.id → s'.thread? j = s.thread? j) ∧
        s'.thread? t.id = some (Thread.passed { t with oobflag := t.oobflag || r.2 } s.nextPc))) ∧
  (∀ (lv k a : Nat) (t : Thread) (s : State), OneLane s t → ∃ s', exec (.pref lv k a) s = .next s' ∧
    s'.ops = s.ops ∧ s'.teams = s.teams ∧ s'.thread? t.id = some (t.passed s.nextPc) ∧
    (∀ j, j ≠ t.id → s'.thread? j = s.thread? j) ∧ (s.capOf t.id.tmid k = none → s'.mem = s.mem) ∧
    ∀ c, s.capOf t.id.tmid k = some c → s'.mem = s.mem ∨ s'.mem = (s.translate t.qid (s.vfOf t.id) .rd
      (c.base + swz ((t.src a).toNat * c.stride) c.swz)).1.mem) ∧
  ∀ (s : State) (o : Op) (op : MaintOp) (lv : Nat) (bs : List (Nat × Nat)), s.op? o.id = some o → o.kind = .cmaint op lv bs →
    s.opDue o = true → s.gate (s.lateRoute o) = .go → s.waitsLock o = false →
    ∃ s', exec (.cmaintComplete o.id) s = .next s' ∧ s'.ops = s.ops.filter (fun x => decide (x.id ≠ o.id)) ∧
      s'.threads = s.threads ∧ s'.teams = s.teams ∧
      (∀ a, a ∉ pieceBytes bs → Memory.read s'.mem a = Memory.read s.mem a) ∧
      ∀ a ∈ pieceBytes bs, isRemote a = false → lv = 3 → s.frameStays (pieceBytes bs) a →
        let held := ((s.die o.core.die).l2.flatMap L2Line.dirty).filter fun e => decide (e.addr = a)
        (∀ w, ((s.core o.core).writes.filter fun x => decide (x.addr = a)).getLast? = some w → w.pub = none → w.engine = none →
          held = [] → Memory.read s'.mem a = w.val) ∧
        ∀ e, (∀ w ∈ (s.core o.core).writes, w.addr ∈ pieceBytes bs → w.pub ≠ none) → held = [e] → Memory.read s'.mem a = e.val) ∧
  ((∀ (d c addr : Nat) (s : State), ∃ s', exec (.l1Eviction d c addr) s = .next s' ∧
    s' = { s with cores := s'.cores, dies := s'.dies, quads := s'.quads, groups := s'.groups } ∧
    let k : CoreId := { die := d, core := c }
    (∀ b, (s.core k).blocks.find? (fun b => b.covers (addr / 128) (addr / 16 % 8)) = some b →
      (s'.core k).blocks = (s.core k).blocks.filter fun y => decide (¬(y.line = b.line ∧ y.first = b.first))) ∧
    ((∀ b ∈ (s.core k).blocks, b.covers (addr / 128) (addr / 16 % 8) = false) → s' = s)) ∧
  ∀ (d addr : Nat) (s : State), ∃ s', exec (.l2Eviction d addr) s = .next s' ∧
    s' = { s with dies := s'.dies, mem := s'.mem, poison := s'.poison } ∧
    (∀ e, e ≠ d → s'.die e = { s.die e with cached := (s'.die e).cached }) ∧
    ((s.die d).line? (addr / 128) = none → s' = s) ∧
    ∀ l, (s.die d).line? (addr / 128) = some l →
      let all := (s.die d).l2.flatMap L2Line.dirty
      let goes := all.filter fun e => l.dirty.any fun x => decide (e.pub ≤ x.pub)
      (l.dirty = [] → s'.mem = s.mem ∧ (s'.die d).line? (addr / 128) = none) ∧
      let way := fun e : Dirty => s.gate (route d (homeDie e.addr))
      (l.dirty ≠ [] → ((∃ e ∈ goes, s.frameLocked e.addr = true ∨ way e ≠ .go) → s' = s) ∧
        ((∀ e ∈ goes, s.frameLocked e.addr = false ∧ way e = .go) → (all.map Dirty.addr).Nodup →
          (∀ e ∈ goes, s.frameStays (goes.map Dirty.addr) e.addr → Memory.read s'.mem e.addr = e.val) ∧
          ∀ a, (∀ e ∈ goes, e.addr ≠ a) → Memory.read s'.mem a = Memory.read s.mem a)))

/-- R173 to R177, R196, R197: CAPLD reads a well-formed table entry and its write takes effect later; CAPNAR narrows, CAPSWZ
sets the swizzle, CAPDROP clears, each from the end of its cycle on; a write that takes effect gives its register its value;
CAPQ reads a field; LEASE declares the group's words. Faults: cause 0x04 naming the register,
0x05 for a narrowing beyond EXTENT. R172, R173: a capability of 256 bits is well formed when its reserved bits are zero, its
segment ends within 2^57, PST comes without W and A, and DEVICE is zero without REM; its fields are those of the layout. -/
def Obligations.Capabilities : Prop :=
  ((∀ (x j : Nat) (t : Thread) (s : State), OneLane s t → (s.capEntry t j = none →
      exec (.capld x j) s = .next ((s.modThread t.id Thread.sliced).raise [laneFault s t { cause := 0x04, info := x }] none)) ∧
    ∀ c y, s.capEntry t j = some c → s.team? t.id.tmid = some y → ∃ s', exec (.capld x j) s = .next s' ∧
      s' = { s with threads := s'.threads, teams := s'.teams } ∧ s'.thread? t.id = some (t.passed s.nextPc) ∧
      s'.team? t.id.tmid = some { y with capWrites := y.capWrites ++ [(x, some c, s.clock.cycle + 8)] }) ∧
  (∀ (k : TeamId) (y : Team) (s : State), s.team? k = some y → ∃ s', exec (.capWriteEffect k) s = .next s' ∧
    s' = { s with teams := s'.teams } ∧ (∀ j, j ≠ k → s'.team? j = s.team? j) ∧ ∃ y', s'.team? k = some y' ∧
      y' = { y with caps := y'.caps, capWrites := y.capWrites.filter fun w => decide (s.clock.cycle < w.2.2) } ∧
      ∀ r, s'.capOf k r =
        ((y.capWrites.filter fun w => decide (w.2.2 ≤ s.clock.cycle) && decide (w.1 = r)).getLast?.map fun w => w.2.1).getD
          (s.capOf k r)) ∧
  (∀ (i : Instr) (x y : Nat) (f : Cap → Cap) (t : Thread) (s : State),
    (match i with
      | .capnar x' y' a b m => x' = x ∧ y' = y ∧ f = fun c => { c with
          base := c.base + (t.srcPair a).toNat, extent := (t.srcPair b).toNat, perm := c.perm &&& (m ||| 0x10) }
      | .capswz x' y' v => x' = x ∧ y' = y ∧ f = fun c => { c with swz := v }
      | _ => False) → OneLane s t →
    ((∀ c, s.capOf t.id.tmid y = some c → ¬ c.has 7) →
      exec i s = .next ((s.modThread t.id Thread.sliced).raise [laneFault s t { cause := 0x04, info := y }] none)) ∧
    ∀ c z, s.capOf t.id.tmid y = some c → c.has 7 → s.team? t.id.tmid = some z →
      (∀ x' y' a b m, i = .capnar x' y' a b m → (t.srcPair a).toNat + (t.srcPair b).toNat > c.extent →
        exec i s = .next ((s.modThread t.id Thread.sliced).raise [laneFault s t { cause := 0x05 }] none)) ∧
      ((∀ x' y' a b m, i = .capnar x' y' a b m → (t.srcPair a).toNat + (t.srcPair b).toNat ≤ c.extent) →
        ∃ s', exec i s = .next s' ∧ s' = { s with threads := s'.threads, teams := s'.teams } ∧
          s'.thread? t.id = some (t.passed s.nextPc) ∧ (∀ k, k ≠ t.id → s'.thread? k = s.thread? k) ∧
          (∀ k, k ≠ t.id.tmid → s'.team? k = s.team? k) ∧
          s'.team? t.id.tmid = some { z with capWrites := z.capWrites ++ [(x, some (f c), s.clock.cycle + 1)] })) ∧
  (∀ (x : Nat) (t : Thread) (z : Team) (s : State), OneLane s t → s.team? t.id.tmid = some z → ∃ s', exec (.capdrop x) s = .next s' ∧
    s' = { s with threads := s'.threads, teams := s'.teams } ∧ s'.thread? t.id = some (t.passed s.nextPc) ∧
    (∀ k, k ≠ t.id.tmid → s'.team? k = s.team? k) ∧
    s'.team? t.id.tmid = some { z with capWrites := z.capWrites ++ [(x, none, s.clock.cycle + 1)] }) ∧
  (∀ (f : CapField) (d y : Nat) (s : State), WritesRegs (.capq f d y) s fun t =>
    writes (decide (f = .base) || decide (f = .extent)) t d (match s.capOf t.id.tmid y with
      | none => 0
      | some c => match f with
        | .base => c.base | .extent => c.extent | .stride => c.stride | .swz => c.swz | .tenant => c.tenant
        | .perm => c.perm | .device => c.device | .valid => 1)) ∧
  ∀ (a : Nat) (t : Thread) (g : Group) (s : State), OneLane s t → s.group? t.id.gid = some g →
    ∃ s', exec (.lease a) s = .next s' ∧ s' = { s with threads := s'.threads, groups := s'.groups } ∧
      s'.thread? t.id = some (t.passed s.nextPc) ∧
      s'.group? t.id.gid = some { g with declared := if t.src a = 0 then none else some (min (t.src a).toNat 98304) }) ∧
  (∀ v : Nat, v < 2 ^ 256 →
    let f := fun lo n : Nat => v / 2 ^ lo % 2 ^ n
    let ok := f 57 7 = 0 ∧ f 189 67 = 0 ∧ f 0 57 + f 64 48 ≤ 2 ^ 57 ∧ (v.testBit 166 = true → v.testBit 161 = false ∧ v.testBit 162 = false) ∧
      (v.testBit 164 = false → f 168 21 = 0)
    (ok → capOfBits v = some
      { base := f 0 57, extent := f 64 48, tenant := f 112 16, stride := f 128 24, swz := f 152 8, perm := f 160 8,
        device := f 168 21 }) ∧
    (¬ ok → capOfBits v = none))

/-- R19, R214: the lanes of an issue that were held for a fault park together, each at its instruction. R18, R361, R219:
accesses stalled 20 µs in Dusk (cause 0x0C), of a port that is down (0x0D, with zeroes owed to the destination), and 100 µs at a
locked frame (0x03, reason 3) park their threads; the last keeps its place and its count until it is executed again (R184).
That a failed lane stands at its access again with the later point kept is the model's reading (log entry 27), and a slice that
had it as a member has ended (R157). R217, R219: a migration request that is performed returns the entry as it was and takes the lock where it is free; the move sets
MOVED and DEST and frees the lock in one update. -/
def Obligations.FaultsInFlight : Prop :=
  ((∀ (iss c r d : Nat) (s : State), (∀ o ∈ s.ops, o.num ≠ iss) → (∀ t ∈ s.threads, t.park = none → ∀ c' r' a' u' d',
      t.wait = .fault iss c' r' a' u' d' → c' = c ∧ r' = r ∧ d' = d) → (∃ t ∈ s.threads, t.park = none ∧ ∃ a u, t.wait = .fault iss c r a u d) →
    let fs := s.threads.filterMap fun t => match t.wait with
      | .fault n c r a u _ => if n = iss ∧ t.park = none then
          some { th := t.id, info := { cause := c, reason := r, under := u, addr0 := t.pc, addr1 := a }, resume := t.pc } else none
      | _ => none
    exec (.dataFaultPark iss) s = .next ((fs.foldl (fun st f => st.modThread f.th Thread.sliced) s).raise fs
      (if c = 0x0C then some d else none))) ∧
  (∀ (o : Op) (t : Thread) (s : State), s.op? o.id = some o → s.thread? o.th = some t → s.remoteFails o = true →
    s.matesOf o s.remoteFails = [o] → ∃ s1 : State, exec (.remoteAccessFailure o.id) s = .next (s1.raise
      [{ th := o.th, info := { cause := 0x0D, addr0 := o.addr0, addr1 := o.vaddr }, resume := t.pc }] none) ∧
      s1.ops = s.ops.filter (fun x => decide (x.id ≠ o.id)) ∧ s1.mem = s.mem ∧ (∀ k, k ≠ o.th → s1.thread? k = s.thread? k) ∧
      ∃ fs sl, (∀ r, t.slice = some r → r.num < o.id → sl = none) ∧ s1.thread? o.th = some { t with
        forms := fs, slice := sl,
        zeroes := t.zeroes ++ [(o.dst.map fun r => (o.iss, r, (o.size + 3) / 4)).getD (o.iss, 0, 0)] }) ∧
  (∀ (o : Op) (t : Thread) (s : State), s.op? o.id = some o → s.thread? o.th = some t → t.park = none → t.redo = [] →
    t.wait = .dusk o.id → o.num = o.iss → s.duskLate o = true → s.matesOf o s.duskLate = [o] →
    exec (.duskStallTimeout o.id) s = .next
      (((s.setOps (s.ops.filter fun x => decide (x.id ≠ o.id))).modThread o.th Thread.sliced).raise
        [{ th := o.th, info := { cause := 0x0C, addr0 := o.addr0, addr1 := o.vaddr }, resume := o.addr0 }]
        (s.duskOn (s.stallRoute o)))) ∧
  ∀ (o : Op) (t : Thread) (s : State) (c : Nat), s.op? o.id = some o → s.thread? o.th = some t → s.mayPark o.th = true →
    o.stall = some c → c + 140000 ≤ s.clock.cycle → s.waitsLock o = true → s.ops.filter (fun x => decide (x.num = o.num)) = [o] →
    o.num = o.iss → o.kind.counted = true → t.wait = .none →
    ∃ s1 : State, exec (.migrationWriteTimeout o.id) s = .next (s1.raise
      [{ th := o.th, info := { cause := 0x03, reason := 3, addr0 := o.addr0, addr1 := o.vaddr }, resume := o.addr0 }] none) ∧
      s1.mem = s.mem ∧
      s1.ops = s.ops.map (fun x => if x.id = o.id then { x with failed := some 0x03, stall := none } else x) ∧
      ∃ fs sl, s1.thread? o.th = some { t with
        forms := fs, slice := sl, counted := some o.iss, pc := o.addr0, wb := o.wb, wait := .none, stepOwed := none, stallAt := none,
        redo := { op := o.id, pc := t.pc, wb := t.wb, wait := .none, counted := t.counted, stepOwed := t.stepOwed } :: t.redo }) ∧
  (∀ (frame agent : Nat) (s : State), s.root.frameTable ≠ 0 → agent < 2 ^ 21 →
    let at_ := s.root.frameTable + 8 * frame
    let e := s.dev64 at_
    exec (.migrationRequest frame agent) s =
      .next { s with root := { s.root with requests := s.root.requests ++ [(frame, agent)] } } ∧
    (let s' := s.request (frame, agent);
      s'.root.reports = (0x30, e) :: s.root.reports ∧
      s' = { s with root := { s.root with reports := s'.root.reports }, mem := s'.mem } ∧
      (e.testBit 63 = true → s'.mem = s.mem) ∧
      (e.testBit 63 = false → (s'.dev64 at_).testBit 63 = true ∧ s'.dev64 at_ / 2 ^ 42 % 2 ^ 21 = agent ∧
        s'.dev64 at_ % 2 ^ 42 = e % 2 ^ 42) ∧
      ∀ a, a < at_ ∨ at_ + 8 ≤ a → Memory.read s'.mem a = Memory.read s.mem a) ∧
    ∀ dest, dest < 2 ^ 31 → e.testBit 63 = true → e / 2 ^ 42 % 2 ^ 21 = agent → (∀ o ∈ s.ops, s.waitsLock o = false) →
      ∃ s', exec (.migrationMoveComplete frame agent dest) s = .next s' ∧ s' = { s with mem := s'.mem } ∧
        (s'.dev64 at_).testBit 63 = false ∧ (s'.dev64 at_).testBit 41 = true ∧ s'.dev64 at_ % 2 ^ 31 = dest ∧
        ∀ a, a < at_ ∨ at_ + 8 ≤ a → Memory.read s'.mem a = Memory.read s.mem a)

/-! ## Recipes and the matrix engine -/

/-- R156, R160, R168: SLICE begins a slice of n members in each thread; RCPST reads the state of a register; RCPPOL sets the
threshold of each group of the bundle. R155, R164, R167: MATZ turns a recipe into its regenerated value and leaves no register
Backed that it names; values stay. R159: a conversion changes the form of the named value and of no other, and no register's
contents; it happens where the group may convert it. R165: a refill takes free rows, or a cooperative group's own, up to 8, and
the threads that waited for it go on where the further rows that they need are free. -/
def Obligations.Recipes : Prop :=
  ((∀ (d n : Nat) (s : State), Lanewise (.slice d n) s fun t t' => ∃ r : SliceRun, r.left = n ∧ r.d = regNo t.wb d ∧
    r.addr = s.issue.pc ∧ r.members = [] ∧ r.inputs = [] ∧ Retired { t with pc := s.nextPc, slice := some r } [] t') ∧
  (∀ (d a : Nat) (s : State), WritesRegs (.rcpst d a) s fun t => one t d (BitVec.ofNat 32
    (((s.group? t.id.gid).map fun g => rcpWord g t (regNo t.wb a)).getD 0))) ∧
  ∀ (x : Nat) (s : State), ∃ s', exec (.rcppol x) s = .next s' ∧
    Groupwise s.issues s s' (fun t t' => Retired { t with pc := s.nextPc } [] t') fun g g' =>
      ((∃ u, s.inBundle g.id u) → g' = { g with thresh := x }) ∧ ((∀ u, ¬ s.inBundle g.id u) → g' = g)) ∧
  ((∀ (d : Nat) (t : Thread) (g : Group) (s : State), OneLane s t → s.group? t.id.gid = some g → (∀ f ∈ t.forms, f.2.recipe = false) →
    ∃ s' t', exec (.matz d) s = .next s' ∧ s' = { s with threads := s'.threads } ∧
      (∀ k, k ≠ t.id → s'.thread? k = s.thread? k) ∧ s'.thread? t.id = some t' ∧
      t' = { t.passed s.nextPc with forms := t'.forms } ∧
      ∀ r, r < 256 → (d = 0 ∨ r = regNo t.wb d) → tget RForm.value t'.forms r = RForm.value) ∧
  ∀ (d : Nat) (t : Thread) (g : Group) (s s1 : State) (e : REntry) (v : List (Nat × Word) × Nat), OneLane s t → d ≠ 0 →
    s.group? t.id.gid = some g → g.reserve = 8 → t.entriesOf g [regNo t.wb d] = [e] → regNo t.wb d ∈ REntry.dests e →
    s.regenEntry e t = (s1, .ok v) → s1.thread? t.id = some t → (s1.group? t.id.gid).isSome →
    ∃ s' t', exec (.matz d) s = .next s' ∧ s'.thread? t.id = some t' ∧ t'.pc = s.nextPc ∧ t'.retired = t.retired + 1 ∧
      tget RForm.value t'.forms (regNo t.wb d) = RForm.value ∧
      ∀ r, t'.held r = if r = 0 then 0 else (written v.1 r).getD (t.held r)) ∧
  ((∀ (k : GroupId) (x : Nat) (s : State), ∃ s', exec (.recipeConversion k x) s = .next s' ∧ s' = { s with threads := s'.threads } ∧
    ∀ j t, s.thread? j = some t → ∃ t', s'.thread? j = some t' ∧ t' = { t with forms := t'.forms } ∧
      ∀ r, tget RForm.value t'.forms r ≠ tget RForm.value t.forms r → j.gid = k ∧ ∃ g e, s.group? k = some g ∧
        g.entry? (tget RForm.value t.forms x).entry = some e ∧ x ∈ REntry.dests e ∧ r ∈ REntry.dests e ∧
        (tget RForm.value t.forms x).backed = true ∧ (tget RForm.value t.forms x).recipe = false ∧
        ∀ y ∈ REntry.dests e, t.pins g y = 0) ∧
  (∀ (k : GroupId) (x : Nat) (g : Group) (e : REntry) (t : Thread) (s : State), s.group? k = some g →
    s.thread? t.id = some t → t.id.gid = k → s.groupThreads k = [t] → g.entry? (tget RForm.value t.forms x).entry = some e →
    s.mayConvert g x t = true → g.reserve = 8 → g.thresh ≠ 0 → g.thresh * 128 < s.pressure (Group.qid g) →
    ∃ s' t', exec (.recipeConversion k x) s = .next s' ∧ s'.thread? t.id = some t' ∧
      ∀ r ∈ REntry.dests e, (tget RForm.value t'.forms r).recipe = true) ∧
  ∀ (k : GroupId) (g : Group) (s : State), s.group? k = some g → Group.holdsRows g = true →
    let free := fun st : State => st.freeRows (Group.qid g) k.grid g.laneBase g.width
    let room := free (s.refill k) + ((s.refill k).ownRows g - (s.refill k).groupRows { g with reserve := 8 })
    ∃ s' g', exec (.reserveRefill k) s = .next s' ∧ s' = { s with threads := s'.threads, groups := s'.groups } ∧
      s'.group? k = some g' ∧
      g' = { g with reserve := min 8 (g.reserve + free s + (s.ownRows g - s.groupRows g)) } ∧
      ∀ j t, s.thread? j = some t → ∃ t', s'.thread? j = some t' ∧
        (∀ n, g'.reserve = 8 → j.gid = k → t.wait = .refill n → n ≤ room →
          t' = { t with wait := .none, nextAt := max t.nextAt s.clock.cycle }) ∧
        (g'.reserve < 8 ∨ j.gid ≠ k ∨ (∀ n, t.wait = .refill n → room < n) → t' = t))

/-- R15, R256 to R275: a matrix instruction adds its command to the queue, with its captured operands, and counts it; a thread
whose registers are captured is held until the capture ends; the others of the group retire, with no effect where the leader
acts for all. R266 to R275: a matrix instruction whose operands R259, R266 to R268 or R274 refuse parks every thread of its
group with cause 0x0F. -/
def Obligations.MatrixIssue : Prop :=
  (∀ (i : Instr) (q : MtxAsk) (l : Thread) (rest : List Thread) (s : State), OneGroup s l rest → mtxAsk s l (l :: rest) i = some q →
    ∃ s' c, exec i s = .next s' ∧ s'.cmds = s.cmds ++ [c] ∧ MtxCommand s l q c ∧
      s' = { s with threads := s'.threads, groups := s'.groups, cmds := s'.cmds, quads := s'.quads,
                    clock := { s.clock with fresh := s.clock.fresh + 1 } } ∧
      (∀ k, (∀ u ∈ l :: rest, u.id ≠ k) → s'.thread? k = s.thread? k) ∧
      (∀ u ∈ l :: rest, s'.thread? u.id = some (
        if q.every ∨ u = l then Thread.passed { u with
          rng := rngAdv (q.draws u) u.rng, wait := if q.captured then .capture c.id else u.wait } s.nextPc
        else u.idled s.nextPc)) ∧
      (∀ g, s.group? l.id.gid = some g → ∃ g', s'.group? l.id.gid = some g' ∧
        g' = { g with counts := if q.counted then g.counts ++ [{ iss := c.id, cls := .nt, left := 1 }] else g.counts }) ∧
      ∀ ty x f, i = .wld ty x f → (s'.quad (quadOn l.core q.target)).issuedFmt = some ty) ∧
  (∀ (i : Instr) (l : Thread) (rest : List Thread) (s : State), OneGroup s l rest → mtxAsk s l (l :: rest) i = none →
    (match i with
      | .wld _ _ _ | .cbld _ _ | .tzero _ | .trd _ _ _ _ _ | .twr _ _ _ | .tfuse _ | .tstat _ _ _ => True
      | .tepi p => (l.regsFrom (regNo l.wb p) 8).getD 1 0 ≥ 1024
      | .tmm p => (l.regsFrom (regNo l.wb p) 8).getD 1 0 ≥ 1024
      | .wlds t _ => s.latchTarget l t = none
      | _ => False) →
    exec i s = .next (s.raise ((l :: rest).map fun u => laneFault s u { cause := 0x0F }) none))

/-- R261, R264, R265, R274, R277: the capture ends and its threads go on; a command begins when it may and then runs for its
time; it does not begin while an earlier one of its queue that is not released uses its tile. -/
def Obligations.MatrixCommandStart : Prop :=
  (∀ (c : Cmd) (s : State), s.cmd? c.id = some c → c.isMatrix = true → c.st = .capture → c.due ≤ s.clock.cycle →
    ∃ s', exec (.matrixCaptureEnd c.id) s = .next s' ∧ s' = { s with cmds := s'.cmds, threads := s'.threads } ∧
      s'.cmd? c.id = some { c with st := .queued, regs := [] } ∧ (∀ n, n ≠ c.id → s'.cmd? n = s.cmd? n) ∧
      s'.threads = s.threads.map (WaitOver (isCapture c.id) s.clock.cycle)) ∧
  (∀ (c : Cmd) (s : State), s.cmd? c.id = some c → s.mayBegin c = true →
    ∃ s', exec (.matrixCommandBegin c.id) s = .next s' ∧ s' = { s with cmds := s'.cmds } ∧
      (∀ n, n ≠ c.id → s'.cmd? n = s.cmd? n) ∧ s'.cmd? c.id = some { c with
        st := match c.kind with | .tepi _ => .copyOut | _ => .running, due := s.clock.cycle + runTime c.kind }) ∧
  ∀ (c e : Cmd) (s : State), s.cmd? c.id = some c → e ∈ s.cmds → e.id < c.id → e.isMatrix = true → e.core = c.core →
    e.part = c.part → s.teamSaved e.th.tmid = false → (∃ t ∈ e.tiles, t ∈ c.tiles) →
    e.st ∈ [.capture, .queued, .running, .copyWait, .copyOut] → exec (.matrixCommandBegin c.id) s = .next s

/-- R248, R251, R267 to R270, R274 to R276: what each command leaves when it completes; it is then gone, uncounted, and its
counter has risen. A TMM with an epilogue stays: it copies its tile, or waits for a free entry (R271). That TSTAT reads the
quadrant of the tile it names, where an entry is in use from the end of its copy, is the model's reading (log entry 35). R251 to R254: one group of 32 products is summed
exactly, scaled and rounded once to f32, and added to the element with RNE; a NaN scale gives the canonical NaN. -/
def Obligations.MatrixCommandEffects : Prop :=
  ((∀ (c : Cmd) (s : State), s.cmd? c.id = some c → s.mayComplete c = true → (∀ a k z r e, c.kind ≠ .tmm a k z r (some e)) →
    (∀ ty sat d ths, c.kind = .trd ty sat d ths → (s.accTile c.core c.target (c.tile % 12)).poison = false) →
    ∃ s', exec (.matrixCommandComplete c.id) s = .next s' ∧ CmdEnds c 1 (s.latchFirst c) s' ∧ s'.mem = s.mem ∧
      (∀ ty cols, c.kind = .wld ty cols → let la := (s'.quad (quadOn c.core c.target)).latch
        la.fmt = some ty ∧ la.scales = [] ∧ ∀ n ws, cols.find? (fun e => decide (e.1 = n)) = some (n, ws) →
          ∃ vs, la.cols.find? (fun e => decide (e.1 = n)) = some (n, vs) ∧
            (ty = .cb2 → ∀ j, j < 16 * ws.length → vs.getD j 0 =
              cb2Val (fun k => tget 0 (s.core c.core).codebook (256 * c.part + k)) (codeAt 16 ws (j / 8)) (j % 8)) ∧
            (ty ≠ .cb2 → ∀ j, j < 32 / codeBits ty * ws.length → vs.getD j 0 = codeAt (codeBits ty) ws j)) ∧
      (∀ n cols, c.kind = .wlds n cols → let la := (s'.quad (quadOn c.core c.target)).latch
        la.fmt = (s.quad (quadOn c.core c.target)).latch.fmt ∧ la.cols = (s.quad (quadOn c.core c.target)).latch.cols ∧
        ∀ m ws, cols.find? (fun e => decide (e.1 = m)) = some (m, ws) → ∃ vs, la.scales.find? (fun e => decide (e.1 = m)) = some (m, vs) ∧
          ∀ j, j < 4 * ws.length → vs.getD j 0 = codeAt 8 ws j) ∧
      (∀ ents, c.kind = .cbld ents → (ents.map Prod.fst).Nodup → (∀ e ∈ ents, e.1 < 256) →
        (∀ e ∈ ents, tget 0 (s'.core c.core).codebook (256 * c.part + e.1) = e.2) ∧
        ∀ k, (∀ e ∈ ents, k ≠ 256 * c.part + e.1) → tget 0 (s'.core c.core).codebook k = tget 0 (s.core c.core).codebook k) ∧
      (c.kind = .tzero → s'.accTile c.core c.target (c.tile % 12) = Tile.zero) ∧
      (∀ rows, c.kind = .twr rows → (rows.map Prod.fst).Nodup → (∀ r ∈ rows, r.2.length = 64) →
        let t := s'.accTile c.core c.target (c.tile % 12)
        t.nans = false ∧ t.infs = false ∧ ∀ n m, m < 64 → tget 0 t.els (64 * n + m) =
          match rows.find? (fun r => decide (r.1 = n)) with
          | some r => r.2.getD m 0
          | none => tget 0 (s.accTile c.core c.target (c.tile % 12)).els (64 * n + m)) ∧
      (∀ sat d ths, c.kind = .trd .f32 sat d ths → (ths.map Prod.fst).Nodup → ∀ x ∈ ths, ∀ u, s.thread? x.1 = some u →
        ∃ u', s'.thread? x.1 = some u' ∧ ∀ r, u'.held r = if r = 0 then 0 else if d ≤ r ∧ r < d + 64 then
          tget 0 (s.accTile c.core c.target (c.tile % 12)).els (64 * x.1.tid + (r - d)) else u.held r) ∧
      (∀ clr d ths, c.kind = .tstat clr d ths →
        (∀ k ∈ ths, ∀ u, s.thread? k = some u → d ≠ 0 → ∃ u', s'.thread? k = some u' ∧ u'.held d = BitVec.ofNat 32 (tstatBits
          (s.quad (quadOn c.core c.target)) (s.accTile c.core c.target (c.tile % 12)) (tget 0 (s.core c.core).fuse c.part))) ∧
        (clr = true → (s'.quad (quadOn c.core c.target)).env = false ∧ (s'.quad (quadOn c.core c.target)).eof = false)) ∧
      ∀ a kh za rows, c.kind = .tmm a kh za rows none → c.bytes = 0 → c.moved = 0 →
        (∀ r ∈ rows, r.2.1.length = 64 ∧ r.2.2.length = scaleRegs a) →
        let old := if za then Tile.zero else s.accTile c.core c.quad (c.tile % 12)
        ∀ n m, n < 64 → m < 64 → tget 0 (s'.accTile c.core c.quad (c.tile % 12)).els (64 * n + m) =
          match rows.find? (fun r => decide (r.1 = n)) with
          | none => tget 0 old.els (64 * n + m)
          | some r =>
            let k := 64 * (32 / codeBits a)
            let w := (s.quad (quadOn c.core c.quad)).latch.column k kh m
            BitVec.ofNat 32 (tmmElem ((List.range k).map fun j => elemVal a (codeAt (codeBits a) r.2.1 j)) w.1
              (if scaleRegs a = 0 then List.replicate (k / 32) 127 else (List.range (4 * r.2.2.length)).map (codeAt 8 r.2.2)) w.2
              (tget 0 old.els (64 * n + m)).toNat).bits) ∧
  (∀ (c : Cmd) (s : State) (a : Ty) (k : Nat) (z : Bool) (r : List (Nat × List Word × List Word)) (e : EpiDesc),
    s.cmd? c.id = some c → s.mayComplete c = true → c.kind = .tmm a k z r (some e) →
    ∃ s' c', exec (.matrixCommandComplete c.id) s = .next s' ∧ s'.cmd? c.id = some c' ∧
      c' = (if s.epiRoom (quadOn c.core (c.tile / 12)) then { c with st := .copyOut, due := s.clock.cycle + 16 }
        else { c with st := .copyWait }) ∧ s'.groups = s.groups ∧ s'.teams = s.teams) ∧
  ∀ (c : Cmd) (m : Nat) (s : State), s.cmd? c.id = some c → c.kind = .tfuse m → c.st = .running → c.due ≤ s.clock.cycle →
    ∃ s', exec (.tfuseEffect c.id) s = .next s' ∧ s' = { s with cores := s'.cores, cmds := s'.cmds } ∧
      s'.cmds = s.cmds.filter (fun x => decide (x.id ≠ c.id)) ∧ tget 0 (s'.core c.core).fuse c.part = m ∧
      ∀ p, p ≠ c.part → tget 0 (s'.core c.core).fuse p = tget 0 (s.core c.core).fuse p) ∧
  (∀ (xs ys : List Int) (ea eb acc : Nat), xs.length = 32 → ys.length = 32 → ea ≤ 255 → eb ≤ 255 →
    let fin := fun v : Int => FV.fin (decide (v < 0)) v.natAbs 0
    let total := ((List.range 32).map fun j => xs.getD j 0 * ys.getD j 0).sum
    let r := tmmElem (xs.map fin) (ys.map fin) [ea] [eb] acc
    (ea = 255 ∨ eb = 255 → r.bits = (Fmt.f32.add .rne false (Fmt.f32.dec acc) (Fmt.f32.dec Fmt.f32.nanBits)).1) ∧
    (ea < 255 → eb < 255 → total ≠ 0 → r.bits = (Fmt.f32.add .rne false (Fmt.f32.dec acc)
      (Fmt.f32.dec (Fmt.f32.roundZ .rne false total (ea + eb - 254 : Int) (decide (total < 0))).1)).1))

/-- R271 to R273: the epilogue copies its tile into the lowest free entry and is released; an entry whose rows are all stored,
those in another device acknowledged, ends its command, and an access of it that faults holds it with cause 0x10 at its row, as
does a row that another device refuses (R17); a resolved entry drains on, a killed one ends with its command's status 3. -/
def Obligations.Epilogue : Prop :=
  (∀ (c : Cmd) (e : EpiDesc) (j : Nat) (s : State), s.cmd? c.id = some c → c.epi = some e → c.st = .copyOut → c.due ≤ s.clock.cycle →
    let q := quadOn c.core (c.tile / 12)
    (s.epiAt q j).st = .free → j < 4 → (∀ k, k < j → (s.epiAt q k).st ≠ .free) →
    ∃ s', exec (.epilogueCopy c.id) s = .next s' ∧ s' = { s with quads := s'.quads, cmds := s'.cmds } ∧
      s'.cmd? c.id = some { c with st := .draining } ∧ (s'.epiAt q j).st = .draining ∧ (s'.epiAt q j).cmd = c.id ∧
      (s'.epiAt q j).image = s.accTile c.core (c.tile / 12) (c.tile % 12) ∧ (s'.epiAt q j).row = 0 ∧
      ∀ k, k ≠ j → s'.epiAt q k = s.epiAt q k) ∧
  (∀ (q : QuadId) (j : Nat) (c : Cmd) (e : EpiDesc) (s : State), s.cmd? (s.epiAt q j).cmd = some c → c.epi = some e →
    ((s.epiAt q j).st = .draining → e.nrow < (s.epiAt q j).row →
      ((∀ m ∈ (s.epiAt q j).marks, s.unackedAt m.2 = false) → ∃ s', exec (.epilogueDrainComplete q j) s = .next s' ∧
        CmdEnds c 1 s s' ∧ (s'.epiAt q j).st = .free ∧ s'.mem = s.mem ∧ ∀ t, s.thread? c.th = some t →
          s'.thread? c.th = some { t with oobflag := t.oobflag || (s.epiAt q j).oob }) ∧
      ((∃ m ∈ (s.epiAt q j).marks, s.unackedAt m.2 = true) → exec (.epilogueDrainComplete q j) s = .next s)) ∧
    (∀ row k r va die, s.epiFault q j = some (c, row, .fault k r va die) → k ≠ 0 → k < 256 → r < 256 →
      ∃ s', exec (.epilogueEntryFault q j) s = .next s' ∧ CmdHeld c 0x10 s s' ∧ s'.teams = s.teams ∧
        (s'.epiAt q j).st = .held k va ∧ (s'.epiAt q j).row = ((s.epiAt q j).unstored row).row) ∧
    ∀ m, s.epiFault q j = none → (s.epiAt q j).st = .draining → (s.epiAt q j).marks.find? (fun m => s.unackedAt m.2) = some m →
      ∃ s' va, exec (.epilogueEntryFault q j) s = .next s' ∧ CmdHeld c 0x10 s s' ∧ s'.teams = s.teams ∧
        (s'.epiAt q j).st = .held 0x0D va ∧ (s'.epiAt q j).row = ((s.epiAt q j).unstored m.1).row) ∧
  (∀ (q : QuadId) (j k va : Nat) (c : Cmd) (e : EpiDesc) (s : State), (s.epiAt q j).st = .held k va → s.cmd? (s.epiAt q j).cmd = some c →
    c.epi = some e → ∃ s', exec (.epilogueEntryResolve q j) s = .next s' ∧ s' = { s with
        quads := s'.quads, cmds := s'.cmds, threads := s'.threads } ∧
      (s'.epiAt q j).st = .draining ∧ (s'.epiAt q j).row = (s.epiAt q j).row ∧ s'.cmd? c.id = some { c with st := .draining } ∧
      ∀ t, s.thread? c.th = some t → s'.thread? c.th = some { t with owed := t.owed.filter fun o => decide (o.1 ≠ c.id) }) ∧
  ∀ (q : QuadId) (j k va : Nat) (c : Cmd) (s : State), (s.epiAt q j).st = .held k va → s.cmd? (s.epiAt q j).cmd = some c →
    ∃ s', exec (.epilogueEntryKill q j) s = .next s' ∧ CmdEnds c 3 s s' ∧ (s'.epiAt q j).st = .free ∧ s'.mem = s.mem

/-! ## Tiles, copies, synchronisation -/

/-- R287: a TSET makes the transition of its table's row and leaves owner, size and base; a transition without a row, or an
entry that the team does not own, parks the team's threads with cause 0x0E and changes nothing. R297, R300: TWAIT waits for a
tile that the thread's team owns, else cause 0x0E; a thread that owes a park for a held command parks instead, with no second
record. TQRY reads a tile entry, a counter's status word, which .clr clears, or a slot with the number of commands bound to it.
R298, R299: GSLOT opens a new generation, faults with cause 0x13 on an unresolved one, and waits while the old generation holds
a command; GRES resolves by its leader's predicate, by any or by all, and faults on any other slot. -/
def Obligations.TilesAndSlots : Prop :=
  (∀ (i : Instr) (m : Nat) (l : Thread) (rest : List Thread) (s : State), i.wf = true → tsetTile i = some m → OneGroup s l rest →
    let e := s.tile l.core m
    let row := tsetRow i e (s.copiesInto l.core m)
    (∀ st rw ex ar, s.ownsTile l.id.tmid m → row = some (m, st, rw, ex, ar) →
      ∃ s', exec i s = .next s' ∧ GroupPassed l rest s s' ∧ s' = { s with threads := s'.threads, cores := s'.cores } ∧
        let e' := s'.tile l.core m
        tState e' = st ∧ tRW e' = rw ∧ tExpect e' = ex ∧ tArrived e' = ar ∧ tOwner e' = tOwner e ∧ tSize e' = tSize e ∧
        tBase e' = tBase e ∧ ∀ c n, (CoreId.idx c ≠ CoreId.idx l.core ∨ n ≠ m) → s'.tile c n = s.tile c n) ∧
    ((row = none ∨ ¬ s.ownsTile l.id.tmid m) →
      exec i s = .next (s.raise ((l :: rest).map fun u => laneFault s u { cause := 0x0E, info := m }) none))) ∧
  ((∀ (m : Nat) (s : State), (∀ t ∈ s.threads, t.id ∈ s.issue.bundle → t.owed = []) → ∀ own : ThreadId → Bool,
    (∀ k, own k = true ↔ s.ownsTile k.tmid m) → LaneLoop (.twait m) s fun t =>
      if own t.id then .ok ({ t with pc := s.nextPc, wait := .tile m }, []) else .error { cause := 0x0E, info := m }) ∧
  (∀ (m n cause addr : Nat) (t : Thread) (c : Cmd) (s : State), OneLane s t → t.owed = [(n, cause, addr)] →
    cause ≠ 0x10 → s.cmd? n = some c → (∃ x y, c.st = .held x y) →
    ∃ s', exec (.twait m) s = .next s' ∧ s' = { s with threads := s'.threads, issue := s'.issue } ∧
      s'.thread? t.id = some { ParkedFrom t cause s.issue.pc addr s.issue.pc with owed := [] } ∧
      ∀ k, k ≠ t.id → s'.thread? k = s.thread? k) ∧
  (∀ (d m : Nat) (s : State) (own : ThreadId → Bool), (∀ k, own k = true ↔ s.ownsTile k.tmid m) →
    LaneLoop (.tqry .tile d m) s fun t => if own t.id then .ok ({ t with pc := s.nextPc }, two t d (s.tile t.core m))
      else .error { cause := 0x0E, info := m }) ∧
  (∀ (clr : Bool) (d n : Nat) (s : State), ∃ s', exec (.tqry (.cnt clr) d n) s = .next s' ∧
    s' = { s with threads := s'.threads, teams := s'.teams } ∧
    (∀ k t, s.thread? k = some t → ∃ t', s'.thread? k = some t' ∧ (k ∉ s.issue.bundle → t' = t) ∧ (k ∈ s.issue.bundle →
      Retired { t with pc := s.nextPc } (one t d (((s.team? k.tmid).map fun x => tget 0 x.wstat n).getD 0)) t')) ∧
    ∀ k x, s.team? k = some x → ∃ x', s'.team? k = some x' ∧ x' = { x with wstat := x'.wstat } ∧
      ∀ j, tget 0 x'.wstat j = if clr ∧ j = n ∧ (∃ t ∈ s.threads, t.id ∈ s.issue.bundle ∧ t.id.tmid = k) then 0 else tget 0 x.wstat j) ∧
  ∀ (d y : Nat) (s : State), WritesRegs (.tqry .slot d y) s fun t => one t d (BitVec.ofNat 32 (((s.team? t.id.tmid).map fun x =>
    (match (x.guardSlot y).st with | .free => 0 | .unresolved => 1 | .true => 2 | .false => 3) +
      2 ^ 8 * min 255 (s.cmds.countP fun c =>
        decide (c.th.tmid = x.id ∧ c.guard = some (y, (x.guardSlot y).gen) ∧ c.st ≠ .decide))).getD 0))) ∧
  ((∀ (y : Nat) (l : Thread) (rest : List Thread) (x : Team) (s : State), OneGroup s l rest → s.team? l.id.tmid = some x →
    ((x.guardSlot y).st = .unresolved →
      exec (.gslot y) s = .next (s.raise ((l :: rest).map fun u => laneFault s u { cause := 0x13 }) none)) ∧
    ((x.guardSlot y).st ≠ .unresolved → s.slotWaits x.id y (x.guardSlot y).gen = false →
      ∃ s' x', exec (.gslot y) s = .next s' ∧ GroupPassed l rest s s' ∧ s' = { s with threads := s'.threads, teams := s'.teams } ∧
        s'.team? l.id.tmid = some x' ∧ x'.guardSlot y = { st := .unresolved, gen := (x.guardSlot y).gen + 1 } ∧
        ∀ z, z ≠ y → x'.guardSlot z = x.guardSlot z) ∧
    ((x.guardSlot y).st ≠ .unresolved → s.slotWaits x.id y (x.guardSlot y).gen = true →
      ∃ s', exec (.gslot y) s = .next s' ∧ s' = { s with threads := s'.threads } ∧
        s'.thread? l.id = some { l with wait := .gslot y, regen := [] })) ∧
  (∀ (m : GresMode) (n p : Nat) (neg : Bool) (l : Thread) (rest : List Thread) (x : Team) (s : State), OneGroup s l rest →
    s.team? l.id.tmid = some x →
    ((x.guardSlot n).st ≠ .unresolved →
      exec (.gres m n p neg) s = .next (s.raise ((l :: rest).map fun u => laneFault s u { cause := 0x13 }) none)) ∧
    ((x.guardSlot n).st = .unresolved →
      let cs := (l :: rest).map fun u => u.q p != neg
      let v := match m with | .lead => l.q p != neg | .any => decide (true ∈ cs) | .all => decide (false ∉ cs)
      ∃ s' x', exec (.gres m n p neg) s = .next s' ∧ GroupPassed l rest s s' ∧
        s' = { s with threads := s'.threads, teams := s'.teams } ∧ s'.team? l.id.tmid = some x' ∧
        x'.guardSlot n = { st := if v then .true else .false, gen := (x.guardSlot n).gen } ∧
        ∀ z, z ≠ n → x'.guardSlot z = x.guardSlot z)) ∧
  ∀ (k : TeamId) (y : Nat) (x : Team) (u : Thread) (s : State), s.team? k = some x → s.thread? u.id = some u → u.redo = [] →
    (s.teamThreads k).find? (fun t => decide (t.wait = .gslot y) && t.park.isNone) = some u →
    (x.guardSlot y).st ≠ .unresolved → s.slotWaits k y (x.guardSlot y).gen = false →
    ∃ s' x', exec (.gslotGenerationAdvance k y) s = .next s' ∧ s' = { s with threads := s'.threads, teams := s'.teams } ∧
      s'.team? k = some x' ∧ x'.guardSlot y = { st := .unresolved, gen := (x.guardSlot y).gen + 1 } ∧
      s'.thread? u.id = some { Thread.passed { u with wait := .none } ((u.pc + 8) % 2 ^ 57) with nextAt := s.clock.cycle + 4 })

/-- R292, R312: CPY, CPYR and CRED pass their checks at issue and become a command that waits for its decision; the leader is
held for its status. A capability that fails its check parks the leader alone. R21, R288 to R294, R312: the decision of each of
the three writes the leader's status. Status 2 refuses a bad block or descriptor, 3 a core with 64 admitted commands, 1 a bound
beyond the deadline, each with no other effect; status 0 admits the command, counted, with the bound of R294 (of a CRED, a
collective within the device). -/
def Obligations.CopyIssue : Prop :=
  ((∀ (remote : Bool) (d p : Nat) (l : Thread) (rest : List Thread) (a dst y f : Cap) (g : Option (Nat × Nat))
      (ps ks : List (Nat × Nat)) (s : State), OneGroup s l rest →
    let i : Instr := if remote then .cpyr d p else .cpy d p
    let b := l.regsFrom (regNo l.wb p) (if remote then 10 else 8)
    s.copyCaps l remote b = .ok (a, dst, y, f) → (remote = true → ∀ k ∈ [dst, a, y], Cap.remote k = true → s.inDomain k.device = true) →
    s.copyTiles l.id l.core remote b = .ok () → s.guardFor l b = .ok g →
    (copyBlkOk remote b = true → dscPieces y b = .ok ps ∧ (s.dscKeys y l.qid (s.vfOf l.id) ps).2 = .ok ks) →
    ∃ s' c, exec i s = .next s' ∧ s'.cmds = s.cmds ++ [c] ∧
      CopyCommand s l (if remote then .cpyr b a dst y f else .cpy b a dst y) b g d c ∧ HeldForStatus l rest c.id s s' ∧
      s' = { s with cmds := s'.cmds, threads := s'.threads, clock := { s.clock with fresh := s.clock.fresh + 1 } }) ∧
  (∀ (remote : Bool) (d p : Nat) (l : Thread) (rest : List Thread) (e : RecInfo) (s : State), OneGroup s l rest →
    s.copyCaps l remote (l.regsFrom (regNo l.wb p) (if remote then 10 else 8)) = .error e →
    ∃ s1 : State, exec (if remote then .cpyr d p else .cpy d p) s = .next (s1.raise [laneFault s l e] none) ∧
      s1 = { s with threads := s1.threads } ∧ s1.thread? l.id = some l ∧
      ∀ u ∈ rest, s1.thread? u.id = some (u.idled s.nextPc)) ∧
  ∀ (d p : Nat) (l : Thread) (rest : List Thread) (a w : Cap) (g : Option (Nat × Nat)) (s : State), OneGroup s l rest →
    let b := l.regsFrom (regNo l.wb p) 8
    s.blockCap l ((b.getD 0 0).toNat / 2 ^ 28) 0 = .ok a → s.blockCap l ((b.getD 0 0).toNat / 2 ^ 24 % 16) 1 = .ok w →
    ¬ a.has 4 → ¬ w.has 4 → s.guardFor l b = .ok g →
    ∃ s' c, exec (.cred d p) s = .next s' ∧ s'.cmds = s.cmds ++ [c] ∧ CopyCommand s l (.cred b a w) b g d c ∧
      HeldForStatus l rest c.id s s' ∧
      s' = { s with cmds := s'.cmds, threads := s'.threads, clock := { s.clock with fresh := s.clock.fresh + 1 } }) ∧
  (∀ (c : Cmd) (b : List Word) (a d y : Cap) (t : Thread) (s : State), s.cmd? c.id = some c → c.st = .decide → c.due ≤ s.clock.cycle →
    s.thread? c.th = some t → t.wait = .status c.id → t.redo = [] → s.admittedLater c = false → s.earlierDone c = true →
    let gone := fun (st : State) (code units : Nat) => ∃ s', exec (.commandAdmission c.id) s = .next s' ∧
      s' = { st with cmds := s'.cmds, threads := s'.threads } ∧ s'.cmds = s.cmds.filter (fun x => decide (x.id ≠ c.id)) ∧
      (∀ k, k ≠ c.th → s'.thread? k = s.thread? k) ∧ ∃ u t', st.thread? c.th = some u ∧ u = { t with observed := u.observed } ∧
        s'.thread? c.th = some t' ∧ StatusWritten c code units u t'
    let kept := fun (st : State) (units n : Nat) => ∃ s' c', exec (.commandAdmission c.id) s = .next s' ∧
      s'.cmds = s.cmds.filter (fun x => decide (x.id ≠ c.id)) ++ [c'] ∧ c'.id = c.id ∧ c'.kind = c.kind ∧ c'.st = .queued ∧
      c'.bytes = n ∧ c'.counted = true ∧ (∃ u t', st.thread? c.th = some u ∧ u = { t with observed := u.observed } ∧
        s'.thread? c.th = some t' ∧ StatusWritten c 0 units u t') ∧
      (∀ g, st.group? c.th.gid = some g → ∃ g', s'.group? c.th.gid = some g' ∧
        g' = { g with counts := g.counts ++ [{ iss := c.id, cls := .nc, left := 1 }] }) ∧ s'.mem = st.mem
    let here := s.cmds.filter fun x => !x.isMatrix && decide (x.core = c.core) && decide (x.st ≠ .decide) && !(s.teamSaved x.th.tmid)
    let full := here.length ≥ 64
    let ahead := (here.map Cmd.bytes).foldl (· + ·) 0
    let limit := (if (b.getD 1 0).toNat / 2 ^ 16 = 0 then 65535 else (b.getD 1 0).toNat / 2 ^ 16) * 224000
    let moves := fun n : Nat => (160 * (ahead + n) + 127) / 128
    let copies := fun (remote : Bool) (bound : Nat → Nat) =>
      (copyBlkOk remote b = false → gone s 2 0) ∧
      ∀ s1 x, copyBlkOk remote b = true → s.readDsc c b y = (s1, .ok (some x)) →
        let bd := bound (Dsc.bytes x)
        (dscOk b y x = false → gone s1 2 0) ∧
        (dscOk b y x = true → s1.endsIn c b a d x = (true, true) →
          (full → gone s1 3 (boundUnits bd)) ∧ (¬ full → bd > limit → gone s1 1 (boundUnits bd)) ∧
          (¬ full → bd ≤ limit → s1.copyTiles c.th c.core remote b = .ok () → kept s1 (boundUnits bd) (Dsc.bytes x)))
    (c.kind = .cpy b a d y → copies false fun n => 2000 * 224 + moves n) ∧
    (∀ f dev, c.kind = .cpyr b a d y f → s.domain.find? (fun e => decide (e.1 = d.device)) = some dev → copies true fun n =>
      (5200 + dev.2.latency) * 224 + moves n + s.portLoad dev.2.port + n + 64 * ((n + 255) / 256)) ∧
    (c.kind = .cred b a d →
      (credOk b = false → gone s 2 0) ∧
      (credOk b = true → credSpan b = 0 → credOut a (blk64 b 2) (credBytes b) (credElem b) = false →
        credOut d (blk64 b 4) (credBytes b) (credElem b) = false →
        (full → gone s 3 (boundUnits (4000 * 224))) ∧ (¬ full → kept s (boundUnits (4000 * 224)) (credBytes b)))))

/-- R289, R295, R287: a local copy whose elements all move ends with status 1: each element of the source, zeroes where it is out
of bounds, stands at its place in the destination, in a tile or in memory; a FILLING destination counts an arrival and a DRAINING
source is empty. Where the destination tile has no row for the arrival the copy is held with cause 0x0E (log entry 73). -/
def Obligations.CopyCompletes : Prop :=
  ∀ (c : Cmd) (b : List Word) (a d y : Cap) (m : Moved) (s : State), s.dueCopy c.id = some (c, m) → m.whole = true →
    c.kind = .cpy b a d y → (s.noArrival c b = true → ∃ s', exec (.copyComplete c.id) s = .next s' ∧ CmdHeld c 0x0E m.st s') ∧
    (s.noArrival c b = false →
    ∃ s', exec (.copyComplete c.id) s = .next s' ∧ s'.cmds = s.cmds.filter (fun x => decide (x.id ≠ c.id)) ∧
      s'.threads = m.st.threads ∧ s'.groups = (if c.counted then m.st.groups.map fun g =>
        if g.id = c.th.gid then { g with counts := uncounted c.id g.counts } else g else m.st.groups) ∧
      (∀ n x, c.cw = some n → s.team? c.th.tmid = some x → ∃ x', s'.team? c.th.tmid = some x' ∧
        tget 0 x'.w n = (tget 0 x.w n + 1) % 2 ^ 32 ∧ (tget 0 x'.wstat n).extractLsb' 0 8 = 1) ∧
      (s.teamSaved c.th.tmid = false →
        let e := s.tile c.core (blkDM b)
        (blkDT b = true → tArrived e + 1 < tExpect e → tArrived (s'.tile c.core (blkDM b)) = tArrived e + 1) ∧
        (blkDT b = true → tArrived e + 1 = tExpect e → tState (s'.tile c.core (blkDM b)) = 2) ∧
        (blkDrain b = true → tState (s.tile c.core (blkSM b)) = 3 → tState (s'.tile c.core (blkSM b)) = 0)) ∧
      (Cmd.untouched c = true → ∀ x, s.team? c.th.tmid = some x →
        let offs := copyOffsets b c.regs
        let z := Dsc.z c.regs
        let at_ := fun k p : Nat => 16 * tBase (s.tile c.core k) + p
        let src := fun n => if blkST b then placed (offs.getD n (0, 0)).1 z (16 * tSize (s.tile c.core (blkSM b))) (Dsc.sswz c.regs)
          else placed (offs.getD n (0, 0)).1 z a.extent a.swz
        let dst := fun n => if blkDT b then placed (offs.getD n (0, 0)).2 z (16 * tSize (s.tile c.core (blkDM b))) (Dsc.dswz c.regs)
          else placed (offs.getD n (0, 0)).2 z d.extent d.swz
        m.puts.length = offs.length ∧
        (∀ n, n < offs.length → ∃ (st : State) (v : List Byte), (st.core c.core).writes = (s.core c.core).writes ∧
          (src n = none → v = List.replicate z 0) ∧
          (∀ p, src n = some p → blkST b = true → v = Memory.readN x.spad (at_ (blkSM b) p) z) ∧
          (∀ p, src n = some p → blkST b = false → ∃ ks, (st.copyKeys c a false p z).2 = .ok ks ∧
            v = ((st.copyKeys c a false p z).1.engRead c ks).2) ∧
          (dst n = none → m.puts[n]? = some .drop) ∧
          (∀ q, dst n = some q → blkDT b = true →
            m.puts[n]? = some (.spad (v.zipIdx.map fun e => (at_ (blkDM b) q + e.2, e.1)))) ∧
          ∀ q, dst n = some q → blkDT b = false → ∃ (st' : State) (ks : List Nat), (st'.copyKeys c d true q z).2 = .ok ks ∧
            m.puts[n]? = some (.mem (List.zip ks v))) ∧
        (∀ (n : Nat) (bs : List (Nat × Byte)) (k : Nat) (w : Byte), m.puts[n]? = some (.mem bs) → (bs.filter fun e => decide (e.1 = k)).getLast? = some (k, w) →
          (∀ (n' : Nat) (bs' : List (Nat × Byte)), n < n' → m.puts[n']? = some (.mem bs') → ∀ e ∈ bs', e.1 ≠ k) → isRemote k = false →
          s'.teamByte c.core k = w) ∧
        ∃ x', s'.team? c.th.tmid = some x' ∧ (blkST b = true → blkDT b = true →
          ∀ n p q, n < offs.length → src n = some p → dst n = some q →
            (∀ n' q', n < n' → n' < offs.length → dst n' = some q' → q' + z ≤ q ∨ q + z ≤ q') →
            ∀ k, k < z → Memory.read x'.spad (at_ (blkDM b) q + k) = Memory.read x.spad (at_ (blkSM b) p + k))))

/-- R296, R297: a copy whose element faults is held there, and what it has moved is not moved again; a CPYR that has left is
acknowledged and ends with status 1, or fails with cause 0x0D. R289, R295, R296: a transfer that passes its check and reaches a
FILLING tile with RW writes its bytes, each at its place through DSWZ, and counts an arrival. -/
def Obligations.CopyFaultsAndTransfers : Prop :=
  (∀ (c : Cmd) (m : Moved) (k r va : Nat) (die : Option Nat) (s : State), s.dueCopy c.id = some (c, m) →
    (∃ n, m.stop = some (n, .fault k r va die)) → k < 256 → r < 256 →
    ∃ s' c', exec (.copyFaultHold c.id) s = .next s' ∧ CmdHeld c k m.st s' ∧ s'.cmd? c.id = some c' ∧ ∀ b a d y, c.kind = .cpy b a d y →
      ∀ n, (n < c'.moved ∨ n ∈ c'.ahead) ↔ (n < c.moved ∨ n ∈ c.ahead ∨ n ∈ m.done)) ∧
  (∀ (c : Cmd) (b : List Word) (a d y f : Cap) (s : State), s.cmd? c.id = some c → c.kind = .cpyr b a d y f → c.st = .running →
    c.contrib.isSome → d.device ≠ Config.devid.toNat →
    (s.teamSaved c.th.tmid = false → ∃ s', exec (.cpyrAcknowledge c.id) s = .next s' ∧ CmdEnds c 1 s s' ∧ s'.mem = s.mem ∧
      s'.threads = s.threads ∧
      (blkDrain b = true → tState (s.tile c.core (blkSM b)) = 3 → tState (s'.tile c.core (blkSM b)) = 0)) ∧
    ∃ s', exec (.copyFaultHold c.id) s = .next s' ∧ CmdHeld c 0x0D s s' ∧ s'.mem = s.mem) ∧
  ∀ (x : Transfer) (t : Team) (s : State), x.toTile = true → x.flag = none → x.got = x.bytes.length →
    (∀ e ∈ s.root.inbound, Transfer.same e.x x = false) → s.arriveOkAll x (portDie x.port) = true → s.arriveTile x none = some t →
    s.team? t.id = some t →
    ∃ s' t', exec (.cpyrArrival x) s = .next s' ∧ s' = { s with teams := s'.teams, cores := s'.cores } ∧
      s'.team? t.id = some t' ∧ t' = { t with spad := t'.spad } ∧
      let e := s.tile t.core x.tile
      (tArrived e + 1 < tExpect e → tArrived (s'.tile t.core x.tile) = tArrived e + 1) ∧
      (tArrived e + 1 = tExpect e → tState (s'.tile t.core x.tile) = 2) ∧
      let place := fun n => swz (x.bytes.getD n (0, 0)).1 x.swz
      ∀ n, n < x.bytes.length → place n < 16 * tSize e →
        (∀ n', n < n' → n' < x.bytes.length → place n' ≠ place n) →
        Memory.read t'.spad (16 * tBase e + place n) = BitVec.ofNat 8 (x.bytes.getD n (0, 0)).2

/-- R313, R314: a collective whose participants are all there, and whose other members' values have come where it spans the
domain, ends with status 1 in every team, with its result written; the result combines the contributions element by element.
Participants that disagree, or a tag without a span (log entry 17), have their command held with cause 0x14. -/
def Obligations.Collectives : Prop :=
  (∀ (c : Cmd) (b : List Word) (a d : Cap) (others : List (Nat × List Nat)) (s s1 : State)
      (ws : List (Cmd × List (List (Nat × Byte)))), s.cmd? c.id = some c →
    c.kind = .cred b a d → (credSpan b = 1 → c.contrib.isSome) → s.credReady c b = true →
    s.credRun c b others = some (s1, .ok (ws, [])) →
    ∃ s', exec (.credInstanceComplete c.id others) s = .next s' ∧
      (∀ e ∈ ws, s'.cmd? e.1.id = none) ∧ s'.threads = s1.threads ∧ s'.mem = s1.mem ∧
      ∀ w, ws = [w] → (∀ p ∈ w.2, ∀ x ∈ p, isRemote x.1 = false) → (∀ x ∈ (s1.core w.1.core).writes, x.engine ≠ some w.1.id) →
        CmdEnds w.1 1 s1 s' ∧ ∃ new, (s'.core w.1.core).writes = (s1.core w.1.core).writes ++ new ∧
          new.map (fun x => (x.addr, x.val)) = w.2.flatten ∧ ∀ x ∈ new, x.pub = none ∧ x.engine = none ∧ x.perf = s1.clock.tick) ∧
  (∀ (op : RedOp) (z n : Nat) (x y : List Byte) (j : Nat), z = (if redWide op then 8 else 4) → x.length = z * n → y.length = z * n → j < n →
    let at_ := fun l : List Byte => leNat ((l.drop (z * j)).take z)
    ((credCombine op z (z * n) [x, y]).drop (z * j)).take z = natLE z (redApp op (at_ x) (at_ y)).1) ∧
  ∀ (c : Cmd) (b : List Word) (a d : Cap) (s : State), s.cmd? c.id = some c → c.kind = .cred b a d → c.st = .running → s.credMates c = [c] →
    s.credBad c b = true → ∃ s', exec (.credInstanceFailure c.id) s = .next s' ∧ CmdHeld c 0x14 s s' ∧ s'.mem = s.mem

/-- R306, R307: a BAR arrival with nothing pending counts in its generation, and the last one releases the waiters 4 cycles
later; an arrival of the wrong form or count faults with cause 0x14; one with an access pending waits at the instruction;
BAR.wait waits for the generation at issue to pass. R297, R315: SEQW waits for a counter's value; SEQRD reads the counter. -/
def Obligations.BarriersAndCounters : Prop :=
  ((∀ (b a : Nat) (sync : Bool) (t : Thread) (x : Team) (s : State), OneLane s t → s.team? t.id.tmid = some x →
    let i : Instr := if sync then .barSync b a else .barArrive b a
    let bar := tget Barrier.reset x.bars b
    let n := (t.src a).toNat
    let live := s.threads.countP fun u => decide (u.id.tmid = t.id.tmid)
    let e := if bar.c = 0 then (if a = 0 then live else n) else bar.e
    let wrong := if bar.c = 0 then a ≠ 0 ∧ ¬(1 ≤ n ∧ n ≤ 1024) else (a ≠ 0 ↔ bar.live = true) ∨ (a ≠ 0 ∧ n ≠ bar.e)
    let w : Wait := if sync then .bar b bar.gen else .none
    (s.accessPending t.id = true → ∃ s', exec i s = .next s' ∧ s' = { s with threads := s'.threads } ∧
      OnlyThread t.id { t with wait := .barArrive b (decide (a ≠ 0)) n sync, regen := [] } s s') ∧
    (s.accessPending t.id = false → ¬ wrong → bar.c + 1 ≠ e → ∃ s' x', exec i s = .next s' ∧
      s' = { s with threads := s'.threads, teams := s'.teams } ∧ OnlyThread t.id (t.arrives w) s s' ∧
      s'.team? t.id.tmid = some x' ∧ x' = { x with bars := x'.bars } ∧ (tget Barrier.reset x'.bars b).c = bar.c + 1 ∧
      (tget Barrier.reset x'.bars b).e = e ∧ (tget Barrier.reset x'.bars b).gen = bar.gen ∧
      ∀ k, k ≠ b → tget Barrier.reset x'.bars k = tget Barrier.reset x.bars k) ∧
    (s.accessPending t.id = false → ¬ wrong → bar.c + 1 = e → ∃ s' x', exec i s = .next s' ∧
      s' = { s with threads := s'.threads, teams := s'.teams } ∧ s'.team? t.id.tmid = some x' ∧
      (tget Barrier.reset x'.bars b).c = 0 ∧ (tget Barrier.reset x'.bars b).gen = bar.gen + 1 ∧
      s'.thread? t.id = some (WaitOver (isBarUpTo b bar.gen) (s.clock.cycle + 4) (t.arrives w)) ∧
      ∀ k u, k ≠ t.id → s.thread? k = some u → s'.thread? k = some
        (if k.tmid = t.id.tmid then WaitOver (isBarUpTo b bar.gen) (s.clock.cycle + 4) u else u)) ∧
    (s.accessPending t.id = false → wrong → ∃ s1 : State, s1 = { s with threads := s1.threads } ∧
      exec i s = .next (s1.raise [{ th := t.id, info := { cause := 0x14, addr0 := t.pc, own := true }, resume := t.pc }] none) ∧
      OnlyThread t.id { t with wait := .barArrive b (decide (a ≠ 0)) n sync, regen := [] } s s1)) ∧
  ∀ (b : Nat) (s : State), Lanewise (.barWait b) s fun t t' => Retired { t with
    pc := s.nextPc, wait := .bar b (((s.team? t.id.tmid).map fun x => (tget Barrier.reset x.bars b).gen).getD 0) } [] t') ∧
  ((∀ (n : Nat) (v : SeqSrc) (s : State), (∀ t ∈ s.threads, t.id ∈ s.issue.bundle → t.owed = []) →
    Lanewise (.seqw n v) s fun t t' => Retired { t with
      pc := s.nextPc, wait := .seq n (match v with | .reg a => (t.src a).toNat | .imm x => x) } [] t') ∧
  ∀ (d n : Nat) (s : State), WritesRegs (.seqrd d n) s fun t => one t d (BitVec.ofNat 32
    (((s.team? t.id.tmid).map fun x => tget 0 x.w n).getD 0)))

/-- R308, R309: TBAR arrives at its tag, of cluster span or of device span in a cooperative grid, at .ar after a release at the
tag's scope, and waits; a disabled tag, a device tag outside a cooperative grid, and a form that differs from that of the team's
first arrival fault with cause 0x14. R310: when every team has arrived, none of them is saved by a command, and their dies are in
Noon, the instance is released: its waiters go on, those of .ar to an acquire. -/
def Obligations.TreeBarriers : Prop :=
  (∀ (tag : Nat) (t : Thread) (x : Team) (s : State), OneLane s t → s.team? t.id.tmid = some x →
    let m := s.tagMode (s.partOf t.id) tag
    let coop := ((s.gridOf t.id).map Grid.coop).getD false
    let spans := m = 1 ∨ m = 2 ∧ coop = true
    let mixed := fun ar : Bool => ∃ b, x.tbar? tag = some b ∧ b.here ≠ [] ∧ b.ar ≠ ar
    (∀ ar, m = 0 ∨ (m = 2 ∧ coop = false) ∨ mixed ar →
      exec (.tbar tag ar) s = .next (s.raise [laneFault s t { cause := 0x14 }] none)) ∧
    (spans → ¬ mixed false → s.accessPending t.id = false → ∃ s' x', exec (.tbar tag false) s = .next s' ∧
      s' = { s with threads := s'.threads, teams := s'.teams } ∧ OnlyThread t.id (t.arrives (.tbar tag false)) s s' ∧
      s'.team? t.id.tmid = some x' ∧ tbarHere x' tag = tbarHere x tag ++ [t.id]) ∧
    (spans → ¬ mixed true → ∃ s' o, exec (.tbar tag true) s = .next s' ∧
      s'.ops = s.ops ++ [o] ∧ o.kind = .rel (if m = 1 then .cluster else .device) ∧ o.th = t.id ∧ s'.teams = s.teams ∧
      s'.mem = s.mem ∧ OnlyThread t.id { t with wait := .tbarArrive tag true, regen := [] } s s')) ∧
  ∀ (g cl tag last : Nat) (gr : Grid) (s : State), s.grid? g = some gr →
    let m := s.tagMode gr.part tag
    let ts := s.tbarTeams g cl m
    (m = 1 ∨ m = 2) → s.tbarLast ts tag = some last → (∀ x ∈ ts, (x.saved = true → x.stopped = none) ∧ (x.saved = false → (s.die x.core.die).st = .noon)) →
    (∃ x ∈ ts, (x.tbar? tag).isSome) → last + (if m = 1 then 24 else 96) ≤ s.clock.cycle →
    ∃ s', exec (.tbarRelease g cl tag) s = .next s' ∧ s'.mem = s.mem ∧ s'.groups = s.groups ∧
      (∀ x ∈ ts, ∀ y, s'.team? x.id = some y → tbarHere y tag = []) ∧
      ∀ k u, s.thread? k = some u → u.redo = [] → (∃ x ∈ ts, x.id = k.tmid) → ∃ u', s'.thread? k = some u' ∧
        (u.wait = .tbar tag false → u'.wait = .none) ∧ (u.wait = .tbar tag true → ∃ o ∈ s'.ops, u'.wait = .phase o.id ∧
          o.th = k ∧ o.kind = .acq (if m = 1 then .cluster else .device)) ∧
        ((∀ ar, u.wait ≠ .tbar tag ar) → u' = u)

/-! ## Scheduling and launch -/

/-- R234: SPAWN checks its capabilities and its offset, then waits for its result; the result is the entry's number and status 0
with the entry appended, status 7 where the queue is full (it holds what is appended and not complete, log entry 57), and 3 for
an entry that R222 refuses. R235: QSTAT reads the value
that its selector names; PRIO sets the priority of its groups, at most that of their entry. -/
def Obligations.SpawningAndPriority : Prop :=
  ((∀ (d k x a : Nat) (t : Thread) (s : State), OneLane s t →
    let off := (t.srcPair a).toNat
    ((∀ e, s.capOf t.id.tmid k = some e → e.tenant ≠ s.tenantOf t.id ∨ ¬ e.has 0) → (s.capOf t.id.tmid x).isSome →
      exec (.spawn d k x a) s = .next (s.raise [laneFault s t { cause := 0x04, info := k }] none)) ∧
    ∀ e c, s.capOf t.id.tmid k = some e → s.capOf t.id.tmid x = some c → e.tenant = s.tenantOf t.id → e.has 0 →
      (c.tenant ≠ s.tenantOf t.id ∨ ¬ c.has 3 →
        exec (.spawn d k x a) s = .next (s.raise [laneFault s t { cause := 0x04, info := x }] none)) ∧
      (c.tenant = s.tenantOf t.id → c.has 3 →
        (off % 64 ≠ 0 → ∃ va, exec (.spawn d k x a) s = .next (s.raise [laneFault s t { cause := 0x06, addr1 := va }] none)) ∧
        (off % 64 = 0 → off + 64 > e.extent →
          ∃ va, exec (.spawn d k x a) s = .next (s.raise [laneFault s t { cause := 0x05, addr1 := va }] none)) ∧
        (off % 64 = 0 → off + 64 ≤ e.extent → ∃ s', exec (.spawn d k x a) s = .next s' ∧ s' = { s with threads := s'.threads } ∧
          OnlyThread t.id { t with wait := .spawn (regNo t.wb d) e c off (s.clock.cycle + 300), regen := [] } s s'))) ∧
  ∀ (t : Thread) (d : Nat) (e c : Cap) (off due raw : Nat) (s s1 : State), s.thread? t.id = some t → t.wait = .spawn d e c off due →
    t.park = none → t.redo = [] → due ≤ s.clock.cycle → s.spawnFirst t due = true → s.accessesDone t.id = true →
    s.readSpawn t e off = (s1, .ok raw) →
    let p := s.partOf t.id
    let refused := enOk (s.part p) raw = false ∨ (enKind raw = 0 ∧ ¬(c.base ≤ enKdesc raw ∧ enKdesc raw < c.base + c.extent))
    let q := s.chain (spawnChain p)
    let pair := fun (count code : Nat) (s' : State) => ∃ u t', u = { t with observed := u.observed } ∧ s1.thread? t.id = some u ∧
      s'.thread? t.id = some t' ∧ Wrote [(d, BitVec.ofNat 32 code), (d + 1, BitVec.ofNat 32 count)] (u.arrives .none) t'
    (refused → ∃ s', exec (.spawnResult t.id) s = .next s' ∧ s' = { s1 with threads := s'.threads } ∧ pair 0 3 s') ∧
    (¬ refused → q.tail - q.done ≥ 4096 → ∃ s', exec (.spawnResult t.id) s = .next s' ∧ s' = { s1 with threads := s'.threads } ∧
      pair 0 7 s') ∧
    (¬ refused → q.tail - q.done < 4096 → ∃ s', exec (.spawnResult t.id) s = .next s' ∧
      s' = { s1 with threads := s'.threads, chains := s'.chains } ∧ pair (q.tail + 1) 0 s' ∧
      (s'.chain (spawnChain p)).tail = q.tail + 1 ∧ (s'.chain (spawnChain p)).queue.length = q.queue.length + 1 ∧
      ∀ k, k ≠ spawnChain p → s'.chain k = s.chain k)) ∧
  ((∀ (d sel : Nat) (s : State), WritesRegs (.qstat d sel) s fun t => one t d (BitVec.ofNat 32 (qstatVal s t sel))) ∧
  ∀ (p : Nat) (s : State), ∃ s', exec (.prio p) s = .next s' ∧
    Groupwise s.issues s s' (fun t t' => Retired { t with pc := s.nextPc } [] t') fun g g' =>
      ((∃ u, s.inBundle g.id u) → g' = { g with prio := min p (((s.grid? g.id.grid).map Grid.prio).getD 7) }) ∧
      ((∀ u, ¬ s.inBundle g.id u) → g' = g))

/-- R60, R61, R219: where no thread may issue the cycle ends: which threads are ready is noted, the counts of the watchdog go
up, the time that R294 does not charge a command is added up for it, and the migration requests of the cycle are performed, where
there are any; otherwise the next quadrant's picker takes its
turn, and the bundle that it issues is of threads of that quadrant at one address. -/
def Obligations.PickerTurn : Prop :=
  ∀ s : State, (s.nextQuad = none → ∃ s', exec .pickBundle s = .next s' ∧ s'.clock = { s.clock with cycle := s.clock.cycle + 1, turn := 0 } ∧
      s' = { s with
        clock := s'.clock, groups := s'.groups, events := s'.events, threads := s'.threads, mem := s'.mem, root := s'.root,
        cmds := s'.cmds } ∧ (∃ f : Cmd → Nat, s'.cmds = s.cmds.map fun c => { c with lost := f c }) ∧
      (s.root.requests = [] → s'.mem = s.mem ∧ s'.root = s.root) ∧
      (∀ k t, s.thread? k = some t → ∃ b n, s'.thread? k = some { t with ready := b, readySince := n }) ∧
      ∀ k g, s.group? k = some g → ∃ g', s'.group? k = some g' ∧
        (g' = g ∨ g' = { g with hang := g.hang + 1 } ∨ g' = { g with remote := g.remote + 1 })) ∧
    ∀ q, s.nextQuad = some q → ∃ s', exec .pickBundle s = .next s' ∧ s'.clock.turn = QuadId.idx q + 1 ∧
      s'.clock.cycle = s.clock.cycle ∧ (s'.issue.slot.isSome → s.issue.slot = none → s'.issue.bundle ≠ [] ∧
        ∀ k ∈ s'.issue.bundle, ∃ t ∈ s.threads, t.id = k ∧ t.qid = q ∧ t.pc = s'.issue.pc)

/-- R229 to R232: a group that is next and passes its tests becomes ACTIVE with a reserve of 8 rows; 40 µs after it became
eligible a group is urgent; a lane move takes 16 cycles and one for each register held as a value. R210, R211, R231: a lease
window ends every 4,096 cycles: each group's measured words and lost locality are those of the window, and the counts start
again. R216, R232: a swap saves a group of which no load is outstanding: its rows are free and it waits again; R236: a group
that has not issued for HANG_LIMIT cycles parks with cause 0x11 at the lowest pc. -/
def Obligations.GroupScheduling : Prop :=
  ((∀ (g : Group) (s : State), s.group? g.id = some g → s.nextActive g = true → ∃ s' g', exec (.groupActivation g.id) s = .next s' ∧
    s'.group? g.id = some g' ∧ g' = { g with
      act := .active, actSince := s.clock.cycle, eligSince := s.clock.cycle, started := true, urgent := false,
      reserve := if g.act = .held then g.reserve else 8, winWords := g'.winWords } ∧
    (∀ k, k ≠ g.id → ∃ w : Group → Nat, s'.group? k = (s.group? k).map fun x => { x with winWords := w x }) ∧ s'.mem = s.mem) ∧
  (∀ (g : Group) (s : State), s.group? g.id = some g → s.eligible g = true → g.eligSince + 56000 ≤ s.clock.cycle → g.urgent = false →
    s.leaseTest g = true → ∃ s', exec (.groupUrgent g.id) s = .next s' ∧ s' = { s with groups := s'.groups } ∧
      s'.group? g.id = some { g with urgent := true } ∧ ∀ k, k ≠ g.id → s'.group? k = s.group? k) ∧
  ∀ (t : Thread) (g : Group) (lane : Nat) (s : State), s.thread? t.id = some t → s.group? t.id.gid = some g → lane < 64 →
    g.wideAt + 256 ≤ s.clock.cycle → g.wideAt < g.lastIssue → s.laneCount t.qid lane < 32 →
    (s.quad t.qid).migrating = none → Group.holdsRows g = true → s.fixed t = false →
    (∀ u ∈ s.threads, u.id.gid = t.id.gid → u.lane ≠ lane) → (∀ f ∈ t.forms, f.2.recipe = false) →
    let done := s.clock.cycle + 16 + s.regsOf t.id
    ∃ s', exec (.laneMigration t.id lane) s = .next s' ∧ s'.mem = s.mem ∧
      OnlyThread t.id { t with lane := lane, moveUntil := done } s s' ∧
      (s'.quad t.qid).migrating = some done) ∧
  (∀ s : State, (s.clock.cycle < 4096 * (s.clock.windows + 1) → exec .leaseWindowEnd s = .next s) ∧
    (4096 * (s.clock.windows + 1) ≤ s.clock.cycle → (∀ g ∈ s.groups, g.act = .active) →
      (∀ g ∈ s.groups, g.lostloc ≤ (s.part (((s.grid? g.id.grid).map Grid.part).getD 0)).threshold) →
      ∃ s', exec .leaseWindowEnd s = .next s' ∧ s'.clock = { s.clock with windows := s.clock.windows + 1 } ∧
        s'.threads = s.threads ∧ s'.mem = s.mem ∧ s'.ops = s.ops ∧
        s'.groups = (s.groups.map fun g => { g with
          measured := max 1 (min 98304 (s.windowWords g)), winWords := 0, lostPrev := g.lostloc, lostloc := 0 }) ∧
        ∀ c ∈ s'.cores, ∀ b ∈ c.2.blocks, b.winTouched = [])) ∧
  ((∀ (g : Group) (s : State), s.group? g.id = some g → s.swapDue g = true → s.loadsOut (fun t => decide (t.gid = g.id)) = false →
    (∀ t ∈ s.threads, t.id.gid = g.id → t.loadRecipes g = [] ∧ s.materialising t = false) →
    (∃ x, s.team? g.id.tmid = some x ∧ s.saveGate x = .go) →
    ∃ s' g', exec (.groupSwap g.id) s = .next s' ∧ s'.group? g.id = some g' ∧
      g'.act = (if g.fetchHeld then .swapped else .waiting) ∧ g'.reserve = 0 ∧ g'.eligSince = s.clock.cycle ∧ g'.urgent = false ∧
      s'.threads = (s.threads.map fun t => if t.id.gid = g.id then { t with stallAt := none } else t) ∧ s'.mem = s.mem ∧
      ∀ c ∈ s'.cores, ∀ x ∈ c.2.images, ∀ h ∈ x.holders, h.1.gid = g.id → s.thread? h.1 = none) ∧
  ∀ (g : Group) (s : State), s.group? g.id = some g → (s.part (((s.grid? g.id.grid).map Grid.part).getD 0)).hangLimit ≤ g.hang →
    s.ovFull g.core = false → (∃ t ∈ s.threads, t.id.gid = g.id ∧ t.park = none) →
    ∃ (s1 : State) (low : Nat), exec (.hangWatchdogExpiry g.id) s = .next (s1.raise ((s.threads.filter fun t =>
        decide (t.id.gid = g.id) && t.park.isNone).map fun t =>
          { th := t.id, info := { cause := 0x11, addr0 := low }, resume := t.pc }) none) ∧
      s1 = { s with groups := s1.groups } ∧ s1.group? g.id = some { g with hang := 0, remote := 0 } ∧
      (∀ t ∈ s.threads, t.id.gid = g.id → t.park = none → low ≤ t.standsAt) ∧
      (∃ t ∈ s.threads, t.id.gid = g.id ∧ t.park = none ∧ t.standsAt = low))

/-- R222 to R226, R328: a doorbell raises TAIL; the front end reads the next entry; a kernel entry whose conditions hold starts
its grid, or is refused with STATUS 3 where its KDESC is none that a code object's header names, with STATUS 4 for its shape and
with STATUS 2 when a cooperative grid does not fit; a satisfied dependence
is noted, among the first 4,096 words by the watch and beyond them by the poll. R225, R226, R356: a marker completes with STATUS
1; DONE rises over a completed entry: its STATUS word is written, then the completion word where COMPADDR names one, then the
host is notified. R19, R226: a read of the front end that faults waits as one record, of cause 0x03 where its address does not
translate, 0x0C where a die on its route has left Noon. -/
def Obligations.Launch : Prop :=
  ((∀ (c tail : Nat) (s : State), (c < 128 → ∃ s', exec (.doorbellWrite c tail) s = .next s' ∧
    OnlyChain c { s.chain c with tail := max (s.chain c).tail tail } s s') ∧
    (128 ≤ c → exec (.doorbellWrite c tail) s = .next s)) ∧
  (∀ (c raw : Nat) (s : State), c < 128 → s.walked c = true →
    (∀ e ∈ (s.chain c).entries, ¬(enKind e.raw = 0 ∧ s.entryFree c e = true)) →
    let ch := s.chain c
    let addr := if ch.read = 0 then ch.first else ch.next
    ch.halted = false → ch.read < ch.tail → s.feNat (chainDie c) ch.vf addr 64 = some raw →
    ∃ s' e, exec (.launchEntryStart c) s = .next (s'.feTouch ch.vf [addr]) ∧ e.num = ch.read + 1 ∧ e.addr = addr ∧ e.raw = raw ∧
      e.depOk = false ∧
      e.stage = (if enOk (s.part (s.vf ch.vf).part) raw then .waiting else .completed 3) ∧ OnlyChain c { ch with
        read := ch.read + 1, next := enNext raw, halted := decide (enNext raw % 64 ≠ 0), queue := ch.queue.drop 1,
        entries := ch.entries ++ [e] } s s') ∧
  (∀ (s : State) (die v kdesc base n off : Nat), s.feNat die v (base + 8) 4 = some n → s.feNat die v (base + 24) 4 = some off →
    (s.isKernel die v kdesc base = some true ↔ ∃ i, i < n % 512 ∧ kdesc = base + off + 64 * i)) ∧
  (∀ (c : Nat) (e : Entry) (s : State), s.walked c = true →
    (s.chain c).entries.find? (fun e => s.entryFree c e && decide (enKind e.raw = 0)) = some e →
    let v := s.entryVf c e
    let at_ := (s.part (s.vf v).part).codeBase (enKdesc e.raw)
    (at_ = none ∨ ∃ base, at_ = some base ∧ s.isKernel (chainDie c) v (enKdesc e.raw) base = some false) →
    ∃ s', exec (.launchEntryStart c) s = .next s' ∧ OnlyChain c (staged (s.chain c) e (.completed 3)) s s') ∧
  (∀ (c base : Nat) (e : Entry) (d : Desc) (tab : List Nat) (s : State), s.walked c = true →
    (s.chain c).entries.find? (fun e => s.entryFree c e && decide (enKind e.raw = 0)) = some e →
    let v := s.entryVf c e
    (s.part (s.vf v).part).codeBase (enKdesc e.raw) = some base →
    s.isKernel (chainDie c) v (enKdesc e.raw) base = some true → s.readDesc (chainDie c) v (enKdesc e.raw) base = some d →
    s.readCapTab (chainDie c) v e.raw = some tab →
    let g := launched s c e d tab
    let s0 := s.feTouch v (s.startReads (chainDie c) v e.raw base)
    (g.coop = true → s.partRefilling (s.vf v).part = false) →
    (s.shapeOk g = false → ∃ s', exec (.launchEntryStart c) s = .next s' ∧ OnlyChain c (staged (s.chain c) e (.completed 4)) s0 s') ∧
    (s.shapeOk g = true → g.coop = false → ∃ s', exec (.launchEntryStart c) s = .next s' ∧ s' = { s0 with
      grids := s.grids ++ [g], chains := s'.chains, clock := { s.clock with fresh := s.clock.fresh + 1 } } ∧
      s'.chain c = staged (s.chain c) e (.grid g.id) ∧ ∀ k, k ≠ c → s'.chain k = s.chain k) ∧
    (s.shapeOk g = true → g.coop = true → ∃ s', exec (.launchEntryStart c) s = .next s' ∧
      (OnlyChain c (staged (s.chain c) e (.completed 2)) s0 s' ∨
        s'.chain c = staged (s.chain c) e (.grid g.id) ∧ ∀ t ∈ s.teams, t ∈ s'.teams))) ∧
  ∀ (c : Nat) (poll : Bool) (s : State), s.walked c = true →
    ∃ s', exec (if poll then .dependencePoll c else .dependenceSatisfied c) s = .next s' ∧
      s' = { s with chains := s'.chains, mem := s'.mem } ∧
      (∀ k, k ≠ c → s'.chain k = s.chain k) ∧ s'.chain c = { s.chain c with entries := (s'.chain c).entries } ∧
      (s'.chain c).entries.length = (s.chain c).entries.length ∧
      ∀ (i : Nat) (e : Entry), (s.chain c).entries[i]? = some e → ∃ e', (s'.chain c).entries[i]? = some e' ∧
        (DepSatisfied s c e ∧ (poll = true ↔ 4096 ≤ s.watchRank c e) → e' = { e with depOk := true, faulted := none }) ∧
        (¬(DepSatisfied s c e ∧ (poll = true ↔ 4096 ≤ s.watchRank c e)) → e' = e)) ∧
  ((∀ (c : Nat) (e : Entry) (s : State), s.walked c = true →
    (s.chain c).entries.find? (fun e => decide (enKind e.raw = 1) && decide (e.stage = .waiting) &&
      (!(enSer e.raw) || decide (e.num ≤ (s.chain c).done + 1)) && (!(enDep e.raw) || e.depOk)) = some e →
    ∃ s', exec (.markerCompletion c) s = .next s' ∧ OnlyChain c (staged (s.chain c) e (.completed 1)) s s') ∧
  (∀ (c code k : Nat) (e : Entry) (s : State), c < 128 → (s.chain c).entries = [e] → e.num = (s.chain c).done + 1 →
    e.stage = .completed code → e.spawned = none → s.hostWalk (s.chain c).vf .wr (e.addr + 48) = some k →
    let ch := s.chain c
    let waits := s.feWaits (chainDie c) ch.vf
    waits (e.addr + 48) = false → (ch.compaddr ≠ 0 → waits ch.compaddr = false) →
    let s1 := (s.hostTranslate ch.vf .wr (e.addr + 48)).1
    let m := Memory.writeN s1.mem k (natLE 4 code)
    ∃ s', exec (.chainDoneAdvance c) s = .next s' ∧
      s' = { s with mem := s'.mem, chains := s'.chains, root := { s.root with
        hostOut := (ch.notify, (natLE 8 (ch.done + 1)).map BitVec.toNat) :: s.root.hostOut } } ∧
      s'.chain c = { ch with done := ch.done + 1, entries := [] } ∧ (∀ j, j ≠ c → s'.chain j = s.chain j) ∧
      (ch.compaddr = 0 → s'.mem = m) ∧
      ∀ s2 k2, ch.compaddr ≠ 0 → State.hostTranslate ch.vf .wr ch.compaddr { s1 with mem := m } = (s2, some k2) →
        s'.mem = Memory.writeN s2.mem k2 (natLE 4 ((ch.done + 1) % 2 ^ 32))) ∧
  ∀ (c : Nat) (i : RecInfo) (e : Entry) (s : State), s.feFault c e = some i → e.faulted ≠ some i.addr1 →
    (s.chain c).entries.find? (fun y => decide (y.stage = .waiting) && (match s.feFault c y with
      | some j => decide (y.faulted ≠ some j.addr1)
      | none => false)) = some e →
    let d := chainDie c
    let v := s.vf (s.entryVf c e)
    ∃ s' r, exec (.frontEndReadFault c) s = .next s' ∧ s' = { s with chains := s'.chains, dies := s'.dies } ∧
      s'.chain c = { s.chain c with entries := (s.chain c).entries.map fun y =>
        if y.num = e.num then { e with faulted := some i.addr1 } else y } ∧
      s'.die d = { s.die d with waiting := (s.die d).waiting ++ [r] } ∧ (∀ j, j ≠ d → s'.die j = s.die j) ∧
      r.q = .part v.part ∧ (i.cause = 0x03 ∨ i.cause = 0x0C) ∧ r.word 0 = i.cause * 2 ^ 24 + i.reason * 2 ^ 8 ∧
      i.reason = (if i.cause = 0x03 then s.hostReason (s.entryVf c e) .rd i.addr1 else 0) ∧
      ((∃ va, va ∈ s.entryReads c e ∧ s.hostWalk (s.entryVf c e) .rd va = none) ∨ i.cause = 0x0C) ∧
      r.word 1 = enTag e.raw % 2 ^ 16 * 2 ^ 16 + v.tenant % 2 ^ 16 ∧ r.word 8 + 2 ^ 32 * r.word 9 = i.addr1 % 2 ^ 64)

/-- R56, R57, R227, R286: where a core has room for the next team of a grid, the team starts there, with its groups waiting, its
threads at the entry point, and its tile entries READY as the template has them; the L1 gives up the blocks that it has no room
for any more, whose words of the window their groups count (R201, R210). Registers and predicates start at zero: the
model's choice, log entry 1. R67: a group ends when no thread of it is left and its counts are empty; a team when its groups
have ended and no command names its counters, slots or tiles: its tile entries are then EMPTY; a grid when its last team has
ended: every write that a core has performed has then left for the device point and its entry completes, with STATUS 5 if it was
killed; a write to a frame that migration has locked holds that back. Until then none of them ends. -/
def Obligations.TeamsStartAndEnd : Prop :=
  (∀ (g : Grid) (c : CoreId) (s : State), s.grid? g.id = some g → g.placed < g.nteams → g.coop = false → g.purged = false →
    g.paused = false → s.vfOn g.vf = true → s.awaitsRestore g.part = false → g.desc.tpc = 1 → 0 < g.desc.width →
    s.coreFor g (fun _ => true) = some c →
    ∃ s' x gs ts, exec (.teamPlacement g.id) s = .next s' ∧ s' = { s with
        teams := s.teams ++ [x], groups := s'.groups, threads := s.threads ++ ts, grids := s'.grids, cores := s'.cores,
        dies := s'.dies, quads := s'.quads } ∧
      (∃ w : Group → Nat, s'.groups = (s.groups ++ gs).map fun y => { y with winWords := w y }) ∧
      s'.grid? g.id = some { g with placed := g.placed + 1 } ∧ (∀ k, k ≠ g.id → s'.grid? k = s.grid? k) ∧
      x.id = { grid := g.id, team := g.placed } ∧ x.core = c ∧ x.caps = [] ∧ x.w = [] ∧ x.y = [] ∧ x.bars = [] ∧ x.spad = [] ∧
      x.tiles = g.desc.tiles.map TileTmpl.m ∧ gs.map (fun y => y.id.group) = List.range g.desc.ngroups ∧
      (∀ y ∈ gs, GroupStarts g x y ∧ ∀ u, u < g.desc.width → ∃ t ∈ ts, t.id.gid = y.id ∧ t.id.tid = u) ∧
      (∀ t ∈ ts, ∃ y ∈ gs, Starts g y t) ∧
      ((g.desc.tiles.map TileTmpl.m).Nodup → ∀ m ∈ g.desc.tiles, m.size < 2 ^ 17 → m.off < 2 ^ 17 → s'.tile c m.m = tMake 2 false x.slot 0 0 m.size m.off)) ∧
  ((∀ (g : Group) (s : State), s.group? g.id = some g →
    (g.counts = [] → (∀ t ∈ s.threads, t.id.gid ≠ g.id) → ∃ s', exec (.groupEnd g.id) s = .next s' ∧ s' = { s with
      groups := s.groups.filter fun x => decide (x.id ≠ g.id), quads := s'.quads, cores := s'.cores }) ∧
    (g.counts ≠ [] ∨ (∃ t ∈ s.threads, t.id.gid = g.id) → exec (.groupEnd g.id) s = .next s)) ∧
  (∀ (t : Team) (s : State), s.team? t.id = some t → t.saved = false →
    ((∀ g ∈ s.groups, g.id.tmid ≠ t.id) → (∀ c ∈ s.cmds, ¬(c.th.tmid = t.id ∧ c.namesTeam = true)) →
      ∃ s', exec (.teamEnd t.id) s = .next s' ∧ s' = { s with
        teams := s.teams.filter fun x => decide (x.id ≠ t.id), cores := s'.cores,
        grids := s.grids.map fun g => if g.id = t.id.grid then { g with ended := g.ended + 1 } else g } ∧
      (∀ m ∈ t.tiles, s'.tile t.core m = 0) ∧ ∀ m, m ∉ t.tiles → s'.tile t.core m = s.tile t.core m) ∧
    ((∃ g ∈ s.groups, g.id.tmid = t.id) ∨ (∃ c ∈ s.cmds, c.th.tmid = t.id ∧ c.namesTeam = true) →
      exec (.teamEnd t.id) s = .next s)) ∧
  ∀ (g : Grid) (e : Entry) (s : State), s.grid? g.id = some g → (s.chain g.chain).entries.find? (fun x => decide (x.num = g.entry)) = some e →
    (g.placed = g.ended → g.nteams = g.placed → s.publishWaits = false → ∃ s', exec (.gridCompletion g.id) s = .next s' ∧
      s' = { s with
        grids := s.grids.filter fun x => decide (x.id ≠ g.id), chains := s'.chains, mem := s'.mem, dies := s'.dies, cores := s'.cores,
        poison := s'.poison } ∧
      s'.chain g.chain = staged (s.chain g.chain) e (.completed (if g.killed then 5 else 1)) ∧
      ∀ c ∈ s'.cores, ∀ w ∈ c.2.writes, isRemote w.addr = false → w.engine = none → w.pub.isSome) ∧
    (g.placed ≠ g.ended ∨ s.publishWaits = true → exec (.gridCompletion g.id) s = .next s))

/-- R237, R238, R351: a pre-emption stops the teams of its target; a restore puts a saved team back with its registers and
counters, and its SLEEPs go on; a shrink takes the quadrants and stops the teams on them, and is refused where a cooperative grid would no longer fit
unless it is forced; disabling a virtual function stops its teams and cancels its copies that have moved nothing; enabling it
lets the chains that the disable turned off be walked again; a due checkpoint stops its partition. Which teams a command stops
and which return by themselves is log entry 40, what a disable cancels and an enable turns on log entry 41. -/
def Obligations.Preemption : Prop :=
  (∀ (x : PreemptTarget) (fast : Bool) (s : State), ∃ s', exec (.preemptCommand x fast) s = .next s' ∧
    s' = { s with teams := s'.teams, grids := s'.grids } ∧ TeamsStop false fast (fun t => match x with
      | .grid g => t.id.grid = g
      | .vf v => s.teamVf t = v
      | .partition p => s.teamPart t = p) s s' ∧
    ∀ k g, s.grid? k = some g → ∃ b, s'.grid? k = some { g with paused := b }) ∧
  (∀ (t : Team) (g : Grid) (ps : List (Nat × Nat)) (s : State), s.team? t.id = some t → s.grid? t.id.grid = some g → g.coop = false →
    s.restorable t g = true → s.clustersOf g t = [[t]] → t.core.die < 4 → t.core.core < 48 →
    let g1 := { g with half := s.halfBack g }
    let s1 := s.modGrid g.id fun x => { x with half := g1.half }
    s1.roomOn g1 t.core = true → s1.gate (route t.core.die (homeDie (s1.part g1.part).saveBase)) = .go →
    s1.placeFixed g1 t.core (s1.teamGroups t.id) [] = some ps →
    ∃ s' t', exec (.preemptRestore t.id) s = .next s' ∧ (t'.core = t.core → s'.mem = s.mem) ∧ s'.team? t.id = some t' ∧ t'.saved = false ∧
      t'.stopping = false ∧ t'.caps = t.caps ∧ t'.w = t.w ∧ t'.wstat = t.wstat ∧ t'.y = t.y ∧ t'.bars = t.bars ∧ t'.spad = t.spad ∧
      (∀ k, k ≠ t.id → s'.team? k = s.team? k) ∧
      (∀ k u, s.thread? k = some u → ∃ u', s'.thread? k = some u' ∧ (k.tmid ≠ t.id → u' = u) ∧ (k.tmid = t.id →
        u' = { u with core := t'.core, lane := u'.lane, nextAt := u'.nextAt, wait := u'.wait, redo := u'.redo } ∧
        ((∀ n, u.wait ≠ .sleep n ∧ u.wait ≠ .rejoin n) → u'.wait = u.wait ∧ u'.nextAt = s.clock.cycle) ∧
        (∀ n, u.wait = .sleep n → u'.wait = .sleep (s.clock.cycle + n)) ∧
        ∀ n, u.wait = .rejoin n → u'.wait = u.wait ∨ (u'.wait = .none ∧ u'.nextAt = s.clock.cycle + 2))) ∧
      ∀ k y, s.group? k = some y → k.tmid = t.id → ∃ y', s'.group? k = some y' ∧ y'.act = .waiting ∧ y'.core = t'.core ∧
        y' = { y with
          core := y'.core, laneBase := y'.laneBase, act := y'.act, eligSince := y'.eligSince, arrivals := y'.arrivals,
          winWords := y'.winWords }) ∧
  (∀ (p : Nat) (gone : List QuadId) (force : Bool) (s : State),
    let i : Instr := if force then .partitionShrinkForce p gone else .partitionShrink p gone
    let lost := s.coopLost p ((s.part p).quads.filter fun q => decide (q ∉ gone))
    (force = false → lost ≠ [] → ∃ s', exec i s = .next s' ∧ RefusedCommand s s') ∧
    (force = true ∨ lost = [] → ∃ s', exec i s = .next s' ∧ s' = { s with teams := s'.teams, parts := s'.parts } ∧
      (s'.part p).quads = (s.part p).quads.filter (fun q => decide (q ∉ gone)) ∧ (∀ k, k ≠ p → s'.part k = s.part k) ∧
      TeamsStop true false (fun t => s.teamPart t = p ∧ (t.id.grid ∈ lost ∨ ∃ g, s.grid? t.id.grid = some g ∧ ∃ c ∈ s.clustersOf g t,
        ∃ x ∈ c, ∃ y ∈ s.groups, y.id.tmid = x.id ∧ Group.qid y ∈ gone)) s s')) ∧
  (∀ (vs : List Nat) (s : State), ∃ s', exec (.vfDisable vs) s = .next s' ∧
    (∀ v, s'.vf v = if v ∈ vs then { s.vf v with disabling := (s.vf v).enabled } else s.vf v) ∧
    (∀ c ∈ s.cmds, c.unmoved = true → s.vfOf c.th ∈ vs → (s.vf (s.vfOf c.th)).enabled = true → s'.cmd? c.id = none) ∧
    ((∀ c ∈ s.cmds, c.isMatrix = true) → s' = { s with vfs := s'.vfs, teams := s'.teams } ∧
      TeamsStop true false (fun t => s.teamVf t ∈ vs) s s')) ∧
  (∀ (v : Nat) (s : State), ∃ s', exec (.vfEnable v) s = .next s' ∧ s' = { s with vfs := s'.vfs, chains := s'.chains } ∧
    s'.vf v = { s.vf v with enabled := true, disabling := false } ∧ (∀ k, k ≠ v → s'.vf k = s.vf k) ∧
    s'.chains.length = s.chains.length ∧ ∀ (i : Nat) (c : Nat × Chain), s.chains[i]? = some c → 
      (c.2.vf = v ∧ c.2.off = true → s'.chains[i]? = some (c.1, { c.2 with enable := true, off := false })) ∧
      (¬(c.2.vf = v ∧ c.2.off = true) → s'.chains[i]? = some c)) ∧
  ∀ (p : Nat) (r : Replay) (s : State), (s.part p).replay = some r → r.nextAt ≤ s.clock.cycle → r.asked = false →
    ∃ s', exec (.replayCheckpoint p) s = .next s' ∧ s' = { s with teams := s'.teams, parts := s'.parts } ∧
      s'.part p = { s.part p with replay := some { r with asked := true } } ∧ (∀ k, k ≠ p → s'.part k = s.part k) ∧
      TeamsStop true false (fun t => s.teamPart t = p) s s'

/-- R350 to R352: a group whose retired work has reached its stop parks with cause 0x09 after its last instruction; a replay to
a recorded count puts memory and the partition's work back to the first recorded state that has it, and parks the group there; a
count beyond the record becomes a stop ahead. That the work is put back whole from a record is the model's: log entry 30. -/
def Obligations.CountStopsAndReplay : Prop :=
  (∀ (g : Group) (n : Nat) (s : State), s.group? g.id = some g → g.stopAt = some n →
    (n ≤ s.retiredOf g.id → exec (.countStop g.id) s = .next { s.raise (stopFaults s g.id) none with
      groups := s.groups.map fun x => if x.id = g.id then { x with stopAt := none } else x }) ∧
    (s.retiredOf g.id < n → exec (.countStop g.id) s = .next s)) ∧
  ∀ (p n : Nat) (k : GroupId) (r : Replay) (c : Saved) (s : State), (s.part p).replay = some r → r.ckpt = some c →
    let xs := c :: r.log.map Prod.fst
    (∀ (i : Nat) (x : Saved), xs[i]? = some x → n ≤ x.retiredOf k → (∀ y ∈ xs.take i, y.retiredOf k < n) →
      ∃ s1 : State, exec (.replayStop p k n) s = .next (s1.raise (stopFaults s1 k) none) ∧
        s1.mem = ((r.log.drop i).reverse.flatMap Prod.snd).foldl (fun m e => Memory.write m e.1 e.2) s.mem ∧
        (∀ t, t ∈ x.threads → t ∈ s1.threads) ∧ (∀ y, y ∈ x.groups → y ∈ s1.groups) ∧ (∀ t, t ∈ x.teams → t ∈ s1.teams) ∧
        (∀ o, o ∈ s1.ops ↔ o ∈ x.ops ∨ o ∈ s.ops ∧ o.part ≠ p) ∧ (∀ o, o ∈ s1.cmds ↔ o ∈ x.cmds ∨ o ∈ s.cmds ∧ o.part ≠ p) ∧
        (∀ o, o ∈ s1.grids ↔ o ∈ x.grids ∨ o ∈ s.grids ∧ o.part ≠ p)) ∧
    ((∀ y ∈ xs, y.retiredOf k < n) → exec (.replayStop p k n) s = .next { s with
      groups := s.groups.map fun x => if x.id = k then { x with stopAt := some n } else x })

/-! ## Supervisors, links, dies -/

/-- R141, R214, R361: a resume lets the parked threads of the mask go on, at their points of resumption or where it directs
them, with FAULTCAUSE and the addresses from their records and the registers of failed remote accesses zero; where none is
parked, a held copy of theirs is taken up again (log entry 42); a redirected thread is in no wait, and drops the point that it
kept (log entry 27). R66, R153, R213: a kill ends the thread as EXIT does, leaves its mask and marks
its grid as killed; the step bit of a group is written; an invalidation removes every cached translation of the function that
reaches into the range, and no other (a table lists each key once). R217, R218: a visit of the sweeper ages its frame's entry or
makes it young, and appends a frame that has grown cold to the die's queue; CONSUMED rises to a value in range; a new base
empties the queue, and a length out of range is refused. That a frame table or a cold queue at 0 is none is log entry 29. -/
def Obligations.SupervisorActions : Prop :=
  ((∀ (g : GroupId) (tids : Nat) (pc : Option Nat) (s : State), (s.threads.map Thread.id).Nodup →
    let named := fun t : Thread => t.id.gid = g ∧ tids.testBit t.id.tid = true
    (∃ t ∈ s.threads, named t ∧ t.park.isSome) →
    ∃ s', exec (.faultResume g tids pc) s = .next s' ∧ s' = { s with threads := s'.threads, groups := s'.groups, ops := s'.ops } ∧
      (pc = none → s'.ops = s.ops) ∧
      ∀ k t, s.thread? k = some t → ∃ t', s'.thread? k = some t' ∧
        (∀ p, named t → t.park = some p → t'.park = none ∧ t'.pc = pc.getD p.resume ∧ t'.faultCause = p.cause ∧
          t'.faultAddr0 = p.addr0 ∧ t'.faultAddr1 = p.addr1) ∧
        ((∀ n, t.wait ≠ .rejoin n) → (∀ e ∈ t.redo, ∀ n, e.wait ≠ .rejoin n) → (¬(named t ∧ t.park.isSome) → t' = t) ∧
          ∀ p, named t → t.park = some p → Wrote (t.zeroes.flatMap fun z => zeroWrites (some (z.2.1, z.2.2)))
            { t with
              park := none, pc := pc.getD p.resume, faultCause := p.cause, faultAddr0 := p.addr0, faultAddr1 := p.addr1,
              zeroes := [], redo := if pc.isSome then [] else t.redo, counted := if pc.isSome then none else t.counted,
              wait := if pc.isSome then .none else t.wait, stallAt := if pc.isSome then none else t.stallAt,
              stepOwed := if pc.isSome then none else t.stepOwed, stepNow := if pc.isSome then none else t.stepNow } t')) ∧
  (∀ (g : GroupId) (tids : Nat) (pc : Option Nat) (c : Cmd) (s : State), (∀ t ∈ s.threads, t.id.gid = g → t.park = none) →
    s.cmds.filter (fun x => decide (x.th.gid = g)) = [c] → tids.testBit c.th.tid = true → (∃ a b, c.st = .held a b) → c.isMatrix = false →
    s.cmd? c.id = some c → s.teamSaved c.th.tmid = false →
    ∃ s' c', exec (.faultResume g tids pc) s = .next s' ∧ s' = { s with cmds := s'.cmds, threads := s'.threads } ∧
      s'.cmd? c.id = some c' ∧ c'.st = .running ∧ c'.kind = c.kind ∧ c'.due = s.clock.cycle + 1 ∧
      c'.moved = (if c.kind.isCpyr then 0 else c.moved) ∧
      (∀ k, k ≠ c.id → s'.cmd? k = s.cmd? k) ∧
      ∀ k t, s.thread? k = some t → s'.thread? k = some { t with owed := t.owed.filter fun o => decide (o.1 ≠ c.id) })) ∧
  ((∀ (t : Thread) (s : State), s.thread? t.id = some t → (∀ c ∈ s.cmds, c.th ≠ t.id) → t.holdsCounts = [] → t.zeroes = [] →
    ∃ s', exec (.threadKill t.id) s = .next s' ∧
      s' = { s with
        threads := s'.threads, groups := s'.groups, teams := s'.teams, grids := s'.grids, cores := s'.cores, ops := s'.ops } ∧
      (∀ o, o ∈ s'.ops ↔ o ∈ s.ops ∧ ¬(o.th = t.id ∧ o.failed.isSome)) ∧
      s'.thread? t.id = none ∧
      (∀ k u, k ≠ t.id → s.thread? k = some u → ∃ u', s'.thread? k = some u' ∧
        u' = { u with wait := u'.wait, nextAt := u'.nextAt, redo := u'.redo } ∧ (u'.wait = u.wait ∨ u'.wait = .none)) ∧
      (∀ g, s.group? t.id.gid = some g → ∃ g', s'.group? t.id.gid = some g' ∧ ∀ n, (g'.mask n).testBit t.id.tid = false) ∧
      ∀ g, s.grid? t.id.grid = some g → s'.grid? t.id.grid = some { g with killed := true }) ∧
  (∀ (g : GroupId) (on : Bool) (s : State), exec (.stepBitWrite g on) s = .next { s with
    groups := s.groups.map fun x => if x.id = g then { x with step := on } else x }) ∧
  ∀ (v base len : Nat) (s : State), (s.quads.map Prod.fst).Nodup → (s.cores.map Prod.fst).Nodup →
    let keep := fun l : List TlbEntry =>
      l.filter fun e => decide (¬(e.vf = v ∧ e.vpage * e.size < base + len ∧ base < (e.vpage + 1) * e.size))
    ∃ s', exec (.translationInvalidate v base len) s = .next s' ∧ s' = { s with quads := s'.quads, cores := s'.cores } ∧
      (∀ q, s'.quad q = { s.quad q with tlb := keep (s.quad q).tlb }) ∧ ∀ c, s'.core c = { s.core c with tlb := keep (s.core c).tlb }) ∧
  ((∀ (io : Nat) (s : State), let x := s.die (4 + io)
    let f := 2 * x.sweepPos + io
    let a := s.root.frameTable + 8 * f
    s.root.frameTable ≠ 0 → x.sweepAt ≤ s.clock.cycle → x.produced - x.consumed < x.watermark →
    ∃ s' e app, exec (.sweeperFrameVisit io) s = .next s' ∧ SweptTo (s.dev64 a) x.coldAge (decide (x.coldBase ≠ 0)) e app ∧
      s' = { s with mem := s'.mem, dies := s'.dies } ∧
      s'.mem = Memory.writeN (if app then Memory.writeN s.mem (x.coldBase + 8 * (x.produced % x.coldLen)) (natLE 8 (2 ^ 63 + f)) else s.mem)
        a (natLE 8 e) ∧
      s'.die (4 + io) = { x with
        produced := x.produced + (if app then 1 else 0), sweepAt := s.clock.cycle + 16,
        sweepPos := if Config.memBytes / 65536 ≤ f + 2 then 0 else x.sweepPos + 1 } ∧ ∀ k, k ≠ 4 + io → s'.die k = s.die k) ∧
  (∀ (io n : Nat) (s : State), let x := s.die (4 + io)
    ∃ s', exec (.coldQueueConsumedWrite io n) s = .next s' ∧
      OnlyDie (4 + io) { x with consumed := if x.consumed ≤ n ∧ n ≤ x.produced then n else x.consumed } s s') ∧
  ∀ (io base len : Nat) (s : State), let x := s.die (4 + io)
    (4096 ≤ len → len ≤ 2 ^ 20 → ∃ s', exec (.coldQueueBaseWrite io base len) s = .next s' ∧ OnlyDie (4 + io) { x with
      coldBase := base, coldLen := len, produced := 0, consumed := 0, watermark := min x.watermark len } s s') ∧
    (len < 4096 ∨ 2 ^ 20 < len → ∃ s', exec (.coldQueueBaseWrite io base len) s = .next s' ∧ RefusedCommand s s'))

/-- R317: what a port has sent and not seen acknowledged is at most 512 flits (what waits behind them is log entry 26). R334,
R336: a port without a key, or one whose key has been used for 2^40 packets, sends nothing, and without a key it accepts nothing.
R17, R317, R319: a packet that fails its checks is dropped and counted; one that passes them has its acknowledgement taken,
and nothing more where it is out of sequence or cannot be served now (log entry 66: the model's); an accepted write changes the
bytes it names, an accepted read is answered with the bytes it asks for, one whose bytes its tenant's tables do not give writes
nothing (that it is acknowledged is the model's: log entry 65), and a key marker schedules the retirement of the old key. The
contents of the payloads are the model's: log entry 19. R317, R318: an acknowledgement that is due is sent in a packet of its own; 1 µs without one replays what is outstanding; lanes fail and
a port degrades, retrains and goes down as the table says; it comes up at the width that trains and never wider than it was; a
supervisor may widen it, and retrain it from DOWN (which widths it may take is log entry 45). -/
def Obligations.FabricPorts : Prop :=
  (∀ x : Port, (x.onWire.map Packet.flits).sum ≤ 512 ∧ (x.tx.send = 0 ∨ 2 ^ 40 ≤ x.tx.count → x.onWire = []) ∧
    (x.rx.send = 0 → ∀ kph, x.holdsKey kph = false)) ∧
  ((∀ (p : Nat) (k : Packet) (s : State), (s.port p).st.up = false → exec (.packetReceive p k) s = .next s) ∧
  (∀ (p : Nat) (k : Packet) (s : State), (s.port p).st.up = true →
    (k.authOk = false ∨ (s.port p).holdsKey k.kph = false ∨ k.type = .reserved) →
    ∃ s', exec (.packetReceive p k) s = .next s' ∧ OnlyPort p { s.port p with bad := (s.port p).bad + 1 } s s') ∧
  (∀ (p : Nat) (k : Packet) (s : State), (s.port p).st.up = true → k.authOk = true → (s.port p).holdsKey k.kph = true →
    k.type ≠ .reserved → k.type = .ackOnly ∨ k.seq ≠ (s.port p).recvSeq ∨ s.pktServed p k = false → ∃ s', exec (.packetReceive p k) s = .next s' ∧
      OnlyPort p (acknowledged s.clock.cycle (s.port p) k) s s') ∧
  (∀ (p : Nat) (k : Packet) (ks : List Nat) (s s1 : State), Accepted s p k → k.type = .write → s.pktKeys k = (s1, some ks) →
    (∀ a ∈ ks, s1.frameMoved a = false) → ∃ s', exec (.packetReceive p k) s = .next s' ∧
      s' = { s1 with mem := s'.mem, dies := s'.dies, ports := s'.ports } ∧ s'.mem = wroteAt s1.mem ks k.payload ∧
      s'.port p = (acknowledged s.clock.cycle (s.port p) k).took s.clock.cycle ∧ ∀ j, j ≠ p → s'.port j = s.port j) ∧
  (∀ (p : Nat) (k : Packet) (s s1 : State), Accepted s p k → k.type = .write ∨ k.type = .readReq ∨ k.type = .atomic →
    s.pktKeys k = (s1, none) → ∃ s', exec (.packetReceive p k) s = .next s' ∧ s' = { s1 with ports := s'.ports } ∧
      s'.port p = (acknowledged s.clock.cycle (s.port p) k).took s.clock.cycle ∧ ∀ j, j ≠ p → s'.port j = s.port j) ∧
  (∀ (p : Nat) (k : Packet) (ks : List Nat) (s s1 : State), Accepted s p k → k.type = .readReq → s.pktKeys k = (s1, some ks) →
    (∀ a ∈ ks, s1.frameMoved a = false) → ∃ s' a, exec (.packetReceive p k) s = .next s' ∧ s' = { s1 with ports := s'.ports } ∧
      (s'.port p).unacked = (acknowledged s.clock.cycle (s.port p) k).unacked ++ [a] ∧
      SentPacket { s with ports := tput Port.reset s.ports p ((s.port p).took s.clock.cycle) } p .readResp k.src a ∧
      a.payload = ks.map (fun i => (Memory.read s1.mem i).toNat) ∧ (s'.port p).recvSeq = ((s.port p).recvSeq + 1) % 65536 ∧
      ∀ j, j ≠ p → s'.port j = s.port j) ∧
  ∀ (p : Nat) (k : Packet) (s : State), Accepted s p k → k.type = .keyMarker → ∃ s', exec (.packetReceive p k) s = .next s' ∧
    OnlyPort p { Port.took (acknowledged s.clock.cycle (s.port p) k) s.clock.cycle with rx := (s.port p).rx.mark s.clock.cycle } s s') ∧
  ((∀ (p c : Nat) (s : State), (s.port p).ackDue = some c → (s.port p).st.up = true → c ≤ s.clock.cycle →
    ∃ s' k, exec (.ackOnlySend p) s = .next s' ∧ k.type = .ackOnly ∧ k.ackv = true ∧ k.ack = ((s.port p).recvSeq + 65535) % 65536 ∧
      k.kph = (s.port p).tx.send % 2 ∧ OnlyPort p { s.port p with
        ackDue := none, ackOut := some k, tx := { (s.port p).tx with count := (s.port p).tx.count + 1 } } s s') ∧
  (∀ (p : Nat) (s : State), (s.port p).st.up = true → (s.port p).sentAt + 1400 ≤ s.clock.cycle →
    ∃ s', exec (.replayTimeout p) s = .next s' ∧ Replayed p (s.port p) s s') ∧
  (∀ (p lanes : Nat) (s : State), ∃ s', exec (.portLaneFailure p lanes) s = .next s' ∧ OnlyPort p { s.port p with
    st := laneFailed (s.port p).st lanes s.clock.cycle, failed := (s.port p).failed ||| lanes } s s') ∧
  (∀ (p h n : Nat) (s : State), (s.port p).st = .degrading h n → ∃ s', exec (.portDegradeComplete p) s = .next s' ∧
    Replayed p { s.port p with st := .up8 h } s s') ∧
  (∀ (p w n lanes : Nat) (s : State), (s.port p).st = .retrain w n → let x := { s.port p with failed := 65535 - lanes % 65536 }
    (∀ st, trainedTo lanes w = some st → ∃ s', exec (.portRetrainComplete p lanes) s = .next s' ∧ Replayed p { x with st := st } s s') ∧
    (trainedTo lanes w = none → ∃ s', exec (.portRetrainComplete p lanes) s = .next s' ∧ OnlyPort p x s s')) ∧
  (∀ (p w n : Nat) (s : State), (s.port p).st = .retrain w n → n + 140000000 ≤ s.clock.cycle →
    ∃ s', exec (.portRetrainTimeout p) s = .next s' ∧ OnlyPort p { s.port p with st := .down } s s') ∧
  (∀ (p h : Nat) (s : State), (s.port p).st = .up8 h → (s.port p).failed = 0 →
    ∃ s', exec (.portWidenCommand p) s = .next s' ∧ OnlyPort p { s.port p with st := .up16 } s s') ∧
  ∀ (p : Nat) (s : State), (s.port p).st = .down → ∃ s', exec (.portRetrainCommand p) s = .next s' ∧
    OnlyPort p { s.port p with st := .retrain 16 s.clock.cycle } s s')

/-- R319, R336, R339: a port's first key has epoch 1; a receiver installs the next key beside the old one, its sender still under
the old, and switches with a marker once the partner has acknowledged its installation (when that is comes from outside: log
entry 45); the old key is retired a replay window after the marker: 1.2 µs on a port, 250 ns on a die-to-die link. R308, R359: a
valid write of the domain table sets or removes its entry, unless an operation to that device is open; a mode of a route tag
takes effect once no instance of the tag is in progress, at once where none is (log entry 44). -/
def Obligations.KeysAndRoutes : Prop :=
  ((∀ (p : Nat) (s : State), let x := s.port p
    (x.tx.send = 0 → ∃ s', exec (.keyInstall (.port p)) s = .next s' ∧ OnlyPort p { x with
      tx := KeyDir.at_ 1, rx := KeyDir.at_ 1, unacked := x.unacked.map fun k => { k with kph := 1 }, sentAt := s.clock.cycle } s s') ∧
    (x.tx.send ≠ 0 → x.tx.installed = false → x.rx.rolling = false → ∃ s', exec (.keyInstall (.port p)) s = .next s' ∧
      OnlyPort p { x with rx := { x.rx with installed := true }, tx := { x.tx with installed := true } } s s') ∧
    (x.tx.send ≠ 0 → x.tx.installed = true → ∃ s' k, exec (.keyInstall (.port p)) s = .next s' ∧
      s' = { s with ports := s'.ports } ∧ (∀ j, j ≠ p → s'.port j = s.port j) ∧ (s'.port p).rx = x.rx ∧
      (s'.port p).tx = { send := x.tx.send + 1, installed := false, marker := none, count := 1 } ∧
      (s'.port p).unacked = sentAgain { x with tx := KeyDir.at_ (x.tx.send + 1) } ++ [k] ∧ k.type = .keyMarker ∧
      k.kph = (x.tx.send + 1) % 2)) ∧
  (∀ (l : Nat) (s : State), s.rollsNow l = true → (s.link l).dirA.rolling = false → (s.link l).dirB.rolling = false →
    ∃ s', exec (.keyInstall (.die l)) s = .next s' ∧ OnlyLink l { s.link l with
      dirA := { (s.link l).dirA with installed := true }, dirB := { (s.link l).dirB with installed := true } } s s') ∧
  (∀ (p : Nat) (s : State), (s.port p).rx.installed = true → (s.port p).rx.marker = none →
    ∃ s', exec (.keyMarkerReceive (.port p)) s = .next s' ∧ OnlyPort p { s.port p with
      rx := { (s.port p).rx with send := (s.port p).rx.send + 1, marker := some s.clock.cycle } } s s') ∧
  (∀ (l : Nat) (s : State), (s.link l).dirA.installed = true → (s.link l).dirA.marker = none → (s.link l).dirB = (s.link l).dirA →
    let d := { (s.link l).dirA with send := (s.link l).dirA.send + 1, marker := some s.clock.cycle }
    ∃ s', exec (.keyMarkerReceive (.die l)) s = .next s' ∧ OnlyLink l { s.link l with dirA := d, dirB := d } s s') ∧
  (∀ (p c : Nat) (s : State), (s.port p).rx.marker = some c → ∃ s', exec (.keyRetire (.port p)) s = .next s' ∧ OnlyPort p { s.port p with
    rx := if c + 1680 ≤ s.clock.cycle then { (s.port p).rx with installed := false, marker := none } else (s.port p).rx } s s') ∧
  ∀ (l c : Nat) (s : State), (s.link l).dirA.marker = some c → (s.link l).dirB = (s.link l).dirA → c + 350 ≤ s.clock.cycle →
    let d := { (s.link l).dirA with installed := false, marker := none }
    ∃ s', exec (.keyRetire (.die l)) s = .next s' ∧ s' = { s with links := s'.links, root := { s.root with rolled := s.root.rolled ++ [l] } } ∧
      s'.link l = { s.link l with dirA := d, dirB := d, epoch := d.send } ∧ ∀ k, k ≠ l → s'.link k = s.link k) ∧
  ((∀ (dev : Nat) (e : Option DomainEntry) (s : State),
    let held := ∃ x ∈ s.domain, x.1 = dev
    let ok := ∀ x, e = some x → x.dev = dev ∧ x.port < 18 ∧ dev ≠ Config.devid.toNat ∧ (held ∨ s.domain.length < 1023)
    (ok → (held → s.remoteOpen dev = false) → ∃ s', exec (.domainTableWrite dev e) s = .next s' ∧ s' = { s with domain := s'.domain } ∧
      (s'.domain.find? fun x => decide (x.1 = dev)) = (e.map fun x => (dev, x)) ∧
      ∀ k, k ≠ dev → (s'.domain.find? fun x => decide (x.1 = k)) = s.domain.find? fun x => decide (x.1 = k)) ∧
    (¬ ok ∨ (held ∧ s.remoteOpen dev = true) → ∃ s', exec (.domainTableWrite dev e) s = .next s' ∧ RefusedCommand s s')) ∧
  ∀ (p tag mode : Nat) (s : State), tag < 8 → ∃ s', exec (.routeTagModeWrite p tag mode) s = .next s' ∧
    s' = { s with parts := s'.parts } ∧ (∀ k, k ≠ p → s'.part k = s.part k) ∧ s'.part p = { s.part p with tags := (s'.part p).tags } ∧
    (s.tagBusy p tag = false → s'.tagMode p tag = mode ∧ tget 0 (s'.part p).tags (8 + tag) = 0) ∧
    (s.tagBusy p tag = true → s'.tagMode p tag = s.tagMode p tag ∧ tget 0 (s'.part p).tags (8 + tag) = mode + 1) ∧
    ∀ k, k < 8 → k ≠ tag → s'.tagMode p k = s.tagMode p k)

/-- R333, R337, R357: power-on from power-off leaves the module as it is at reset; power-off, and a junction at 110 °C, take all
of it; attestation takes a die from Dawn to Noon once IO0 is there, keys its links to attested dies at their next epochs and is
recorded; that of IO0 takes the attested dies in Dawn along; a failure leaves the die in Dawn and is recorded with the check.
R335, R337, R338: a root command waits for another to finish; ROLL begins the rollover of all links; RESET drains a die in Noon or
Dusk and takes one from Midnight to Dawn; a drain ends in Dawn with the die's keys destroyed; QUARANTINE takes a die to Midnight
with its keys destroyed; both are refused for IO0 and for a compute die with resident teams; ATTEST reports the measurement
blocks, lets a die in Dawn be attested anew, and ends with the report of the result. -/
def Obligations.PackageRoot : Prop :=
  ((∀ s : State, (s.root.power = true → exec .powerOn s = .next s) ∧
    (s.root.power = false → ∃ s', exec .powerOn s = .next s' ∧ AtReset true s s') ∧
    (∃ s', exec .packagePowerOff s = .next s' ∧ AtReset false s s') ∧
    ((∃ d ∈ s.dies, ∃ t, d.2.temp = some t ∧ 110000 ≤ t) → ∃ s', exec .thermalPowerRemoval s = .next s' ∧ AtReset false s s')) ∧
  (∀ (d : Nat) (s : State), d < 6 → d ≠ 4 → s.root.power = true → (s.die d).st = .dawn → (s.die d).lastAttest = none →
    (s.die 4).attested = true → (s.die 4).st = .noon → (∀ e, e < 6 → e ≠ d → (s.die e).st = .dawn → (s.die e).attested = false) →
    (s.root.busy = some (32 + d) → s.root.deferred = []) →
    ∃ s' r, exec (.attestationResult d 0) s = .next s' ∧
      s' = { s with dies := s'.dies, links := s'.links, root := challenged d 0 s.root } ∧
      s'.die d = { s.die d with
        st := .noon, cause := .none, since := s.clock.cycle, attested := true, lastAttest := some 0,
        waiting := (s.die d).waiting ++ [r] } ∧ (∀ e, e ≠ d → s'.die e = s.die e) ∧
      r.q = .device ∧ r.word 0 = 1 * 2 ^ 8 + 3 * 2 ^ 4 ∧ r.word 11 = 1 ∧
      ∀ l, l < 13 → s'.link l = if l ∈ dieLinks d ∧ (s.link l).keyed = false ∧ (s.die (linkOther l d)).attested = true ∧
        ((s.die (linkOther l d)).st = .noon ∨ (s.die (linkOther l d)).st = .dusk) then
          let k := KeyDir.at_ ((s.link l).epoch + 1)
          { s.link l with keyed := true, epoch := (s.link l).epoch + 1, dirA := k, dirB := k } else s.link l) ∧
  (∀ s : State, s.root.power = true → (s.die 4).st = .dawn → (s.die 4).lastAttest = none →
    (s.root.busy = some 36 → s.root.deferred = []) →
    ∃ s' r, exec (.attestationResult 4 0) s = .next s' ∧
      s' = { s with dies := s'.dies, links := s'.links, root := challenged 4 0 s.root } ∧
      s'.die 4 = { s.die 4 with
        st := .noon, cause := .none, since := s.clock.cycle, attested := true, lastAttest := some 0,
        waiting := (s.die 4).waiting ++ [r] } ∧ r.q = .device ∧ r.word 0 = 1 * 2 ^ 8 + 3 * 2 ^ 4 ∧ r.word 11 = 1 ∧
      ∀ e, e ≠ 4 → (¬((s.die e).st = .dawn ∧ (s.die e).attested = true ∧ e < 6) → s'.die e = s.die e) ∧
        ((s.die e).st = .dawn ∧ (s.die e).attested = true ∧ e < 6 → (s'.die e).st = .noon ∧
          ∀ l, l < 13 → l ∈ dieLinks e → l ∈ dieLinks 4 → (s'.link l).keyed = true)) ∧
  (∀ (d fail : Nat) (s : State), s.root.power = true → (s.die d).st ≠ .dawn → (s.root.busy = some (32 + d) → s.root.deferred = []) →
    ∃ s', exec (.attestationResult d fail) s = .next s' ∧ s' = { s with dies := s'.dies, root := challenged d fail s.root } ∧
      s'.die d = { s.die d with lastAttest := some fail } ∧ ∀ e, e ≠ d → s'.die e = s.die e) ∧
  ∀ (d fail : Nat) (s : State), s.root.power = true → fail ≠ 0 → (s.die d).lastAttest = none → (s.die d).st = .dawn →
    (s.root.busy = some (32 + d) → s.root.deferred = []) →
    ∃ s' r, exec (.attestationResult d fail) s = .next s' ∧ s' = { s with dies := s'.dies, root := challenged d fail s.root } ∧
      s'.die d = { s.die d with lastAttest := some fail, attested := false, waiting := (s.die d).waiting ++ [r] } ∧
      (∀ e, e ≠ d → s'.die e = s.die e) ∧ r.q = .device ∧
      r.word 0 = 3 * 2 ^ 4 ∧ r.word 12 + 2 ^ 32 * r.word 13 = fail % 2 ^ 64) ∧
  ((∀ (d : Nat) (s : State), s.root.busy.isSome →
    exec .roll s = .next { s with root := { s.root with deferred := s.root.deferred ++ [.roll] } } ∧
    exec (.reset d) s = .next { s with root := { s.root with deferred := s.root.deferred ++ [.reset d] } } ∧
    exec (.quarantine d) s = .next { s with root := { s.root with deferred := s.root.deferred ++ [.quarantine d] } } ∧
    exec (.attest d) s = .next { s with root := { s.root with deferred := s.root.deferred ++ [.attest d] } }) ∧
  (∀ s : State, s.root.busy = none → exec .roll s = .next { s with root := { s.root with
    rolling := true, rollOrder := [0, 1, 2, 3, 5, 4], rolled := [], busy := some rootRoll, lastRoll := s.clock.cycle } }) ∧
  (∀ (d : Nat) (s : State), s.root.busy = none →
    let held := d = 4 ∨ (d < 4 ∧ ∃ t ∈ s.teams, t.core.die = d ∧ t.saved = false)
    let io1 := d = 5 ∧ ∃ c ∈ s.chains, 64 ≤ c.1 ∧ c.1 < 128 ∧ c.2.enable = true
    (held ∨ io1 → ∃ s', exec (.reset d) s = .next s' ∧ RefusedCommand s s') ∧
    (held → ∃ s', exec (.quarantine d) s = .next s' ∧ RefusedCommand s s') ∧
    (¬ held → ¬ io1 → ((s.die d).st = .noon ∨ (s.die d).st = .dusk → ∃ s', exec (.reset d) s = .next s' ∧
        s' = { s with dies := s'.dies, root := { s.root with busy := some (rootReset d) } } ∧
        s'.die d = { s.die d with st := .dusk, cause := .draining, since := s.clock.cycle } ∧ ∀ e, e ≠ d → s'.die e = s.die e) ∧
      ((s.die d).st = .midnight → ∃ s', exec (.reset d) s = .next s' ∧ (s'.die d).st = .dawn ∧ (s'.die d).attested = false ∧
        (s'.die d).resets = (s.die d).resets + 1 ∧ s'.threads = s.threads ∧ s'.teams = s.teams ∧ s'.links = s.links)) ∧
    (¬ held → (s.die d).st ≠ .midnight → ∃ s', exec (.quarantine d) s = .next s' ∧ (s'.die d).st = .midnight ∧
      (s'.die d).attested = false ∧ (∀ e, e ≠ d → (s'.die e).st = (s.die e).st) ∧ (∀ l ∈ dieLinks d, (s'.link l).keyed = false ∧ (s'.link l).down = (s.link l).down) ∧
      (∀ l, l ∉ dieLinks d → s'.link l = s.link l) ∧ s'.threads = s.threads ∧ s'.teams = s.teams ∧ s'.groups = s.groups)) ∧
  (∀ (d : Nat) (s : State), s.root.busy = none → ∃ s', exec (.attest d) s = .next s' ∧
    s' = { s with dies := s'.dies, root := { s.root with
      busy := some (32 + d),
      reports := ([6, 5, 4, 3, 2, 1].map fun b => (256 + 8 * d + b, (s.die d).block d b)) ++ s.root.reports } } ∧
    s'.die d = { s.die d with lastAttest := none } ∧ ∀ e, e ≠ d → s'.die e = s.die e) ∧
  ∀ (d : Nat) (s : State), (s.die d).st = .dusk → (s.die d).cause = .draining → s.root.deferred = [] →
    (s.die d).since + 28000 ≤ s.clock.cycle ∨ s.dieBusy d = false → ∃ s', exec (.drainComplete d) s = .next s' ∧
      (s'.die d).st = .dawn ∧ (s'.die d).attested = false ∧ (s'.die d).resets = (s.die d).resets + 1 ∧ s'.root.busy = none ∧
      (∀ l ∈ dieLinks d, (s'.link l).keyed = false) ∧ (∀ l, l ∉ dieLinks d → s'.link l = s.link l) ∧
      s'.threads = s.threads ∧ s'.teams = s.teams)

/-- R337 to R339: the root rolls by itself at its interval; a ROLL turn takes a die with unrolled links from Noon to Dusk, and
back once every link sends under its new epoch; the turn of a die that a link fault holds goes to the end of the order; with the last turn, once
every old key is retired, the ROLL ends and the root is free; a link fault takes both its end dies that are in Noon to Dusk and is recorded,
and its recovery takes back those that no other fault holds. -/
def Obligations.RollsAndLinkFaults : Prop :=
  (∀ s : State, s.root.lastRoll + s.root.rollInterval ≤ s.clock.cycle → s.root.busy = none → s.root.power = true →
    exec .periodicRoll s = .next { s with root := { s.root with
      rolling := true, rollOrder := [0, 1, 2, 3, 5, 4], rolled := [], busy := some rootRoll, lastRoll := s.clock.cycle } }) ∧
  (∀ (d : Nat) (s : State), s.root.rolling = true → s.root.rollOrder.head? = some d → (s.die d).st = .noon →
    (∃ l ∈ dieLinks d, s.unrolled l = true) → ∃ s', exec (.rollTurn d) s = .next s' ∧
      OnlyDie d { s.die d with st := .dusk, cause := .rolling, since := s.clock.cycle } s s') ∧
  (∀ (d e : Nat) (rest : List Nat) (s : State), s.root.rolling = true → s.root.rollOrder = d :: e :: rest → (s.die d).st = .dusk →
    (s.die d).cause = .link → (∃ l ∈ dieLinks d, s.unrolled l = true) → e ≠ d → (s.die e).st = .noon →
    exec (.rollTurn d) s = .next { s with root := { s.root with rollOrder := (e :: rest) ++ [d] } }) ∧
  (∀ (d e : Nat) (rest : List Nat) (s : State), s.root.rollOrder = d :: e :: rest → (s.die d).st = .dusk → (s.die d).cause = .rolling →
    (∀ l ∈ dieLinks d, s.unrolled l = false ∧ ((s.link l).dirA.installed = true → (s.link l).dirA.marker.isSome) ∧
      ((s.link l).dirB.installed = true → (s.link l).dirB.marker.isSome)) →
    ∃ s', exec (.rollTurnComplete d) s = .next s' ∧ s' = { s with dies := s'.dies, root := { s.root with rollOrder := e :: rest } } ∧
      s'.die d = { s.die d with st := .noon, cause := .none, since := s.clock.cycle } ∧ ∀ k, k ≠ d → s'.die k = s.die k) ∧
  (∀ (d : Nat) (s : State), s.root.rollOrder = [d] → s.root.rolling = true → s.root.deferred = [] → (s.die d).st = .dusk →
    (s.die d).cause = .rolling → (∀ l ∈ dieLinks d, s.unrolled l = false ∧
      ((s.link l).dirA.installed = true → (s.link l).dirA.marker.isSome) ∧ ((s.link l).dirB.installed = true → (s.link l).dirB.marker.isSome)) →
    let ended := ∀ l ∈ s.links, l.2.dirA.rolling = false ∧ l.2.dirB.rolling = false
    ∃ s', exec (.rollTurnComplete d) s = .next s' ∧ s' = { s with dies := s'.dies, root := s'.root } ∧
      s'.die d = { s.die d with st := .noon, cause := .none, since := s.clock.cycle } ∧ (∀ k, k ≠ d → s'.die k = s.die k) ∧
      (ended → s'.root = { s.root with rollOrder := [], rolling := false, rolled := [], busy := none }) ∧
      (¬ ended → s'.root = { s.root with rollOrder := [] })) ∧
  (∀ (d : Nat) (s : State), s.root.rollOrder = [] → s.root.rolling = true → s.root.deferred = [] →
    (∀ l ∈ s.links, l.2.dirA.rolling = false ∧ l.2.dirB.rolling = false) →
    exec (.rollTurn d) s = .next { s with root := { s.root with rolling := false, rolled := [], busy := none } }) ∧
  ∀ (l : Nat) (s : State), l < 13 → let a := (linkEnds.getD l (0, 0)).1
    let b := (linkEnds.getD l (0, 0)).2
    let ends := fun d : Nat => d = a ∨ d = b
    ((s.link l).keyed = true → (s.link l).down = false → ∃ s' r, exec (.dieLinkFault l) s = .next s' ∧
      s' = { s with dies := s'.dies, links := s'.links } ∧ s'.link l = { s.link l with down := true } ∧
      (∀ k, k ≠ l → s'.link k = s.link k) ∧
      (∀ d, (s'.die d).st = if ends d ∧ (s.die d).st = .noon then .dusk else (s.die d).st) ∧
      (∀ d, ends d → (s.die d).st = .noon → (s'.die d).cause = .link ∧ (s'.die d).since = s.clock.cycle) ∧
      (∀ d, ¬ ends d → s'.die d = s.die d) ∧ (s'.die a).waiting = (s.die a).waiting ++ [r] ∧ r.q = .device ∧ r.word 11 = 2) ∧
    ((s.link l).down = true → ∃ s' r, exec (.dieLinkRecovered l) s = .next s' ∧ s' = { s with dies := s'.dies, links := s'.links } ∧
      s'.link l = { s.link l with down := false } ∧ (∀ k, k ≠ l → s'.link k = s.link k) ∧
      (∀ d, (s'.die d).st = if ends d ∧ (s.die d).st = .dusk ∧ (s.die d).cause = .link ∧
        (∀ k ∈ dieLinks d, k ≠ l → (s.link k).down = false) then .noon else (s.die d).st) ∧
      (∀ d, ¬ ends d → s'.die d = s.die d) ∧ (s'.die a).waiting = (s.die a).waiting ++ [r] ∧ r.q = .device ∧ r.word 11 = 3)

/-- R215, R276, R344 to R349: a corrected error counts, is classified at its location and is recorded when it is the first there
or makes the location lasting, and changes no value; a mismatch of the spare row in a TMM raises MISM and is recorded; an
uncorrectable error poisons its storage, at its level, and is lasting; a row is retired while a spare is left; poison and classes
are cleared; the scrubber goes on by one word, and what it finds counts as its event does; a purge leaves no thread, access, copy
or waiting entry of its tag; each command is acknowledged. R343: a record waits to be posted, or is held back while the die's
store is full. The model's own: the places that an event names are log entry 16, a mismatch without a TMM log entry 48, the codes
of acknowledgement, the location of a scrubbed word and how a window classifies log entry 70. -/
def Obligations.Reliability : Prop :=
  (∀ (d tag : Nat) (loc : Location) (s : State), loc.storage = 8 → let q := Location.quad d loc
    let here := fun c : Cmd => c.isTmm = true ∧ c.st = .running ∧ c.core = QuadId.cid q ∧ q.quad ∈ c.arrays
    ((∀ c ∈ s.cmds, ¬ here c) → exec (.eccCorrectedEvent d loc tag) s = .next s) ∧
    ∀ c ∈ s.cmds, here c → (∀ e ∈ s.cmds, here e → e = c) → ∃ s' r, exec (.eccCorrectedEvent d loc tag) s = .next s' ∧
      s' = { s with events := s'.events, dies := s'.dies, quads := s'.quads } ∧
      s'.quad q = { s.quad q with mism := (s.quad q).mism + 1 } ∧ (∀ k, QuadId.idx k ≠ QuadId.idx q → s'.quad k = s.quad k) ∧
      tget 0 s'.events (evKey 0x32 (QuadId.idx q)) = tget 0 s.events (evKey 0x32 (QuadId.idx q)) + 1 ∧
      s'.die d = (s.die d).told (s.storeFull d) r ∧ (∀ e, e ≠ d → s'.die e = s.die e) ∧ r.q = .device ∧
      r.word 0 = 2 * 2 ^ 4 ∧ r.word 1 / 2 ^ 16 = c.reqtag % 2 ^ 16 ∧ r.word 12 % 256 = ((s.quad q).tmms - c.moved) % 64) ∧
  (∀ (d tag : Nat) (loc : Location) (s : State), 2 ≤ s.root.clsN → loc.storage ≠ 8 →
    let tab := (s.die d).cls
    (tab.length < 4096 → (∀ e ∈ tab, e.loc ≠ loc) → ∃ s' r, exec (.eccCorrectedEvent d loc tag) s = .next s' ∧
      s' = { s with events := s'.events, dies := s'.dies } ∧ tget 0 s'.events (evKey 0x30 1023) = tget 0 s.events (evKey 0x30 1023) + 1 ∧
      (∀ e, e ≠ d → s'.die e = s.die e) ∧ s'.die d = Die.told (s.storeFull d) r { s.die d with
        cls := tab ++ [{ loc := loc, times := [s.clock.cycle], lasting := false }] } ∧
      r.q = .device ∧ r.word 0 = 2 * 2 ^ 4 ∧ r.word 11 = (loc.storage % 2 ^ 8 + 2 ^ 16) % 2 ^ 32) ∧
    ∀ e, tab.find? (fun e => decide (e.loc = loc)) = some e →
      let times := e.times.filter (fun t => decide (s.clock.cycle < t + s.root.clsT)) ++ [s.clock.cycle]
      ∃ s' e' w, exec (.eccCorrectedEvent d loc tag) s = .next s' ∧ s' = { s with events := s'.events, dies := s'.dies } ∧
        s'.die d = w.foldl (fun x r => Die.told (s.storeFull d) r x) { s.die d with cls := (s'.die d).cls } ∧ w.length ≤ 1 ∧
        e' ∈ (s'.die d).cls ∧ e'.loc = loc ∧
        e'.times = times ∧ e'.hard = e.hard ∧
        (e'.lasting = true ↔ s.root.clsN ≤ times.length ∨ e.hard = true) ∧ (w = [] ↔ (e'.lasting = true → e.lasting = true))) ∧
  (∀ (d tag : Nat) (loc : Location) (at_ : PoisonAt) (s : State), (s.die d).cls.length < 4096 → (∀ e ∈ (s.die d).cls, e.loc ≠ loc) →
    ∃ s' r, exec (.eccUncorrectableEvent d loc at_ tag) s = .next s' ∧ s'.mem = s.mem ∧
      s'.die d = Die.told (s.storeFull d) r { s.die d with
        cls := (s.die d).cls ++ [{ loc := loc, times := [], lasting := true, hard := true }], l2 := (s'.die d).l2 } ∧
      r.word 11 = (loc.storage % 2 ^ 8 + 2 ^ 8) % 2 ^ 32 ∧
      (∀ a, at_ = .line a → s' = { s with poison := s'.poison, events := s'.events, dies := s'.dies } ∧
        ∀ l, l ∈ s'.poison ↔ l = a / 128 ∨ l ∈ s.poison) ∧
      (∀ e a, at_ = .l2line e a → s' = { s with events := s'.events, dies := s'.dies } ∧
        ∀ k n, s'.l2Poisoned k n = (s.l2Poisoned k n || decide (k = e ∧ n = a / 128 ∧ ((s.die e).line? n).isSome))) ∧
      (∀ e c a, at_ = .l1line e c a → s' = { s with events := s'.events, dies := s'.dies, cores := s'.cores } ∧
        (s'.core { die := e, core := c }).images = (s.core { die := e, core := c }).images.map fun i =>
          { i with poison := i.poison || decide (i.word / 8 = a / 128) }) ∧
      (∀ e c n, at_ = .tile e c n → s' = { s with events := s'.events, dies := s'.dies, quads := s'.quads } ∧
        (s'.accTile { die := e, core := c } (n / 12) (n % 12)).poison = true) ∧
      (∀ q i, at_ = .epi q i → i < 4 → (s.epiAt q i).st ≠ .free → s' = { s with events := s'.events, dies := s'.dies, quads := s'.quads } ∧
        (s'.epiAt q i).image.poison = true ∧ (s'.epiAt q i).st = (s.epiAt q i).st) ∧
      (∀ k off x, at_ = .spad k off → s.team? k = some x → s' = { s with events := s'.events, dies := s'.dies, teams := s'.teams } ∧
        ∃ x', s'.team? k = some x' ∧ x' = { x with spadPoison := x'.spadPoison } ∧
          ∀ l, l ∈ x'.spadPoison ↔ l = off / 128 ∨ l ∈ x.spadPoison) ∧
      ∀ k n t, at_ = .reg k n → s.thread? k = some t → ∃ t', s'.thread? k = some t' ∧ t' = { t with poisoned := t'.poisoned } ∧
        ∀ m, m ∈ t'.poisoned ↔ (m = n ∧ n ≠ 0) ∨ m ∈ t.poisoned) ∧
  (∀ (d : Nat) (loc : Location) (s : State),
    let used := (s.die d).spares.countP fun e => decide (e.1.storage = loc.storage ∧ Location.group e.1 = Location.group loc)
    (used < Config.spareRows d loc.storage (Location.group loc) → ∃ s', exec (.retire d loc) s = .next s' ∧
      s' = { s with dies := s'.dies, root := told 2 s.root } ∧
      s'.die d = { s.die d with spares := (s.die d).spares ++ [(loc, used)] } ∧ ∀ e, e ≠ d → s'.die e = s.die e) ∧
    (Config.spareRows d loc.storage (Location.group loc) ≤ used → ∃ s', exec (.retire d loc) s = .next s' ∧ RefusedCommand s s')) ∧
  (∀ (base len : Nat) (s : State), let out := fun l : Nat => decide (¬(base ≤ 128 * l ∧ 128 * l < base + len))
    ∃ s', exec (.clearpoison base len) s = .next s' ∧
      s' = { s with poison := s.poison.filter out, dies := s'.dies, cores := s'.cores, root := told 3 s.root } ∧
      (∀ d, s'.die d = { s.die d with l2 := (s.die d).l2.map fun l => { l with poison := l.poison && out l.line } }) ∧
      ∀ c, s'.core c = { s.core c with
        poison := (s.core c).poison.filter out, images := (s.core c).images.map fun i => { i with poison := i.poison && out (i.word / 8) } }) ∧
  (∀ (d : Nat) (loc : Location) (s : State), ∃ s', exec (.classclear d loc) s = .next s' ∧
    s' = { s with dies := s'.dies, root := told 4 s.root } ∧
    s'.die d = { s.die d with cls := (s.die d).cls.filter fun e => decide (e.loc ≠ loc) } ∧ ∀ e, e ≠ d → s'.die e = s.die e) ∧
  (∀ (d addr : Nat) (found : ScrubFind) (demand : Bool) (s : State), (s.die d).scrubPos + 1 < scrubTotal d →
    let loc := scrubLoc d (s.die d).scrubPos
    let counts := s.scrubBehind d = true ∧ (s.die d).scrubAt ≠ s.clock.cycle + 1
    let on := { s.die d with
      scrubPos := (s.die d).scrubPos + 1, scrubAt := if counts then s.clock.cycle + 1 else (s.die d).scrubAt }
    ∃ s', exec (.scrubWord d addr found demand) s = .next s' ∧ s'.mem = s.mem ∧
      (s'.die d).scrubPos = (s.die d).scrubPos + 1 ∧
      tget 0 s'.events (evKey 0x40 1023) = tget 0 s.events (evKey 0x40 1023) + (if counts then 1 else 0) ∧
      (found = .clean → s' = { s with events := s'.events, dies := s'.dies } ∧ s'.die d = on ∧ ∀ e, e ≠ d → s'.die e = s.die e) ∧
      ((s.die d).cls.length < 4096 → (∀ e ∈ (s.die d).cls, e.loc ≠ loc) →
        (found = .corrected → 2 ≤ s.root.clsN → ∃ r : Record, s' = { s with events := s'.events, dies := s'.dies } ∧
          tget 0 s'.events (evKey 0x30 1023) = tget 0 s.events (evKey 0x30 1023) + 1 ∧
          s'.die d = Die.told (s.storeFull d) r { on with
            cls := (s.die d).cls ++ [{ loc := loc, times := [s.clock.cycle], lasting := false }] } ∧
          r.word 11 = (loc.storage % 2 ^ 8 + 2 ^ 16) % 2 ^ 32) ∧
        ∀ a, found = .uncorrectable (.line a) → ∃ r : Record, s' = { s with events := s'.events, dies := s'.dies, poison := s'.poison } ∧
          tget 0 s'.events (evKey 0x31 1023) = tget 0 s.events (evKey 0x31 1023) + 1 ∧ a / 128 ∈ s'.poison ∧
          s'.die d = Die.told (s.storeFull d) r { on with
            cls := (s.die d).cls ++ [{ loc := loc, times := [], lasting := true, hard := true }] })) ∧
  ∀ (tag : Nat) (s : State), ∃ s', exec (.purge tag) s = .next s' ∧ ((∀ c ∈ s.chains, c.2.tail ≤ c.2.read) → s'.mem = s.mem) ∧
    s'.root.reports.head? = some (0x3E, 1) ∧
    (∀ t ∈ s'.threads, ∀ g ∈ s.grids, t.id.grid = g.id → g.reqtag ≠ tag) ∧ (∀ o ∈ s'.ops, o.reqtag ≠ tag) ∧
    (∀ c ∈ s'.cmds, c.reqtag = tag → c.isMatrix = true) ∧
    ∀ c ∈ s'.chains, ∀ e ∈ c.2.entries, e.stage = .waiting → enTag e.raw ≠ tag

/-- R343: a waiting record whose queue has room is posted: its sixteen words stand in their slot, with PHASE, POSTED rises and
the supervisor is notified, and a reliability record that was held back takes its place; a queue is set with a base and length in range; TAKEN rises up to POSTED. R354, R356, R357: an
attached agent reads, writes and updates the bytes that its function's tables give, its write is acknowledged, and it is refused
where they give none; which dies it waits for, for how long, and that a poisoned line is refused is the model's (log entry 66); a
derived event is set with inputs of lower index; a temperature is kept, and recorded above 100 °C. R216, R224, R236, R238, R285,
R338, R345: settings of a supervisor take effect where they are in range and are refused where they are not. -/
def Obligations.HostInterface : Prop :=
  ((∀ (d : Nat) (r : Record) (rest : List Record) (s : State), (s.die d).waiting = r :: rest → r.words.length = 16 →
    let q := s.queue r.q
    q.len ≠ 0 → q.posted - q.taken < q.len →
    ∃ s', exec (.faultRecordPost d) s = .next s' ∧
      s' = { s with mem := s'.mem, dies := s'.dies, parts := s'.parts, root := s'.root, threads := s'.threads } ∧
      (r.cmd = none → s'.threads = s.threads) ∧
      (∀ n c cause addr t, r.cmd = some n → s.cmd? n = some c → c.st = .held cause addr → s.thread? c.th = some t →
        OnlyThread c.th { t with owed := t.owed ++ [(n, cause, addr)] } s s') ∧
      s'.mem = Memory.writeN s.mem (q.base + 64 * (q.posted % q.len)) ((List.range 16).flatMap fun i =>
        natLE 4 (if i = 15 then r.word 15 % 2 ^ 31 + q.posted / q.len % 2 * 2 ^ 31 else r.word i)) ∧
      s'.die d = { s.die d with waiting := rest ++ (s.die d).relHeld.take 1, relHeld := (s.die d).relHeld.drop 1 } ∧
      (∀ e, e ≠ d → s'.die e = s.die e) ∧ s'.queue r.q = { q with posted := q.posted + 1 } ∧ (∀ k, k ≠ r.q → s'.queue k = s.queue k) ∧
      s'.root.hostOut = (q.notify, (natLE 4 (q.posted + 1)).map BitVec.toNat) :: s.root.hostOut) ∧
  (∀ (q : QueueRef) (base len : Nat) (s : State), let ok := base % 4096 = 0 ∧ ∃ i, i < 15 ∧ len = 2 ^ (6 + i)
    (ok → ∃ s', exec (.recordQueueSet q base len) s = .next s' ∧ s' = { s with parts := s'.parts, root := s'.root } ∧
      s'.queue q = { s.queue q with base := base, len := len, posted := 0, taken := 0 } ∧ ∀ k, k ≠ q → s'.queue k = s.queue k) ∧
    (¬ ok → ∃ s', exec (.recordQueueSet q base len) s = .next s' ∧ RefusedCommand s s')) ∧
  ∀ (q : QueueRef) (n : Nat) (s : State), let x := s.queue q
    ∃ s', exec (.takenWrite q n) s = .next s' ∧ s' = { s with parts := s'.parts, root := s'.root } ∧
      s'.queue q = { x with taken := if x.taken ≤ n ∧ n ≤ x.posted then n else x.taken } ∧ ∀ k, k ≠ q → s'.queue k = s.queue k) ∧
  ((∀ (agent v : Nat) (s : State), s.agentVf agent = some v →
    (∀ a len ks s1, s.hostKeys v .rd a len = (s1, some ks) → s1.gate (ks.map homeDie).eraseDups = .go →
      ((∀ k ∈ ks, k / 128 ∉ s1.poison) → exec (.hostAccess agent (.read a len)) s = .next { s1 with
        root := { s1.root with hostOut := (agent, ks.map fun k => (Memory.read s1.mem k).toNat) :: s1.root.hostOut } }) ∧
      ((∃ k ∈ ks, k / 128 ∈ s1.poison) → ∃ s', exec (.hostAccess agent (.read a len)) s = .next s' ∧ RefusedCommand s1 s')) ∧
    (∀ a bs ks s1, s.hostKeys v .wr a bs.length = (s1, some ks) → s1.gate (ks.map homeDie).eraseDups = .go →
      (∀ k ∈ ks, s1.lockedFor agent k = false) → ∃ s', exec (.hostAccess agent (.write a bs)) s = .next s' ∧
      s' = { s1 with
        mem := wroteAt s1.mem ks bs, dies := s'.dies,
        root := { s1.root with hostOut := (agent, []) :: s1.root.hostOut } }) ∧
    (∀ a o x c ks s1 (dbl : Bool), let n := if dbl then 8 else 4
      a % n = 0 → s.hostKeys v .wr a n = (s1, some ks) → s1.gate (ks.map homeDie).eraseDups = .go →
      (∀ k ∈ ks, s1.lockedFor agent k = false ∧ k / 128 ∉ s1.poison) → let old := leNat (ks.map fun k => Memory.read s1.mem k)
      ∃ s', exec (.hostAccess agent (.atomic a dbl o x c)) s = .next s' ∧ s' = { s1 with
        mem := wroteAt s1.mem ks ((natLE n (atomNew o dbl old x c)).map BitVec.toNat), dies := s'.dies,
        root := { s1.root with hostOut := (agent, (natLE n old).map BitVec.toNat) :: s1.root.hostOut } }) ∧
    (∀ a len ks s1, s.hostKeys v .rd a len = (s1, some ks) → s1.gate (ks.map homeDie).eraseDups = .stall →
      exec (.hostAccess agent (.read a len)) s = .next { s1 with
        root := { s1.root with hostWait := s1.root.hostWait ++ [(agent, .read a len, s.clock.cycle)] } }) ∧
    ∀ a len ks s1, s.hostKeys v .rd a len = (s1, ks) → (∀ l, ks = some l → ∃ d, s1.gate (l.map homeDie).eraseDups = .dead d) →
      ∃ s', exec (.hostAccess agent (.read a len)) s = .next s' ∧ RefusedCommand s1 s') ∧
  (∀ (agent : Nat) (op : HostOp) (s : State), s.agentVf agent = none →
    ∃ s', exec (.hostAccess agent op) s = .next s' ∧ RefusedCommand s s') ∧
  (∀ (p i : Nat) (d : Derived) (s : State),
    let below := fun x : DerIn => ∀ j, x = .derived j → j < i
    let ok := below d.a ∧ below d.b ∧ ∀ n, d.fn = .thresh n → 1 ≤ n ∧ n ≤ 64
    (ok → ∃ s', exec (.derivedEventConfig p i d) s = .next s' ∧ s' = { s with parts := s'.parts } ∧
      (∀ k, k ≠ p → s'.part k = s.part k) ∧ s'.part p = { s.part p with derived := (s'.part p).derived } ∧
      (s'.part p).derived.find? (fun e => decide (e.1 = i)) = some (i, d)) ∧
    (¬ ok → ∃ s', exec (.derivedEventConfig p i d) s = .next s' ∧ RefusedCommand s s')) ∧
  ∀ (d temp : Nat) (s : State), ∃ s', exec (.junctionReport d temp) s = .next s' ∧
    (temp ≤ 100000 → OnlyDie d { s.die d with temp := some temp } s s') ∧
    (100000 < temp → ∃ r : Record, r.q = .device ∧ r.word 12 + 2 ^ 32 * r.word 13 = temp % 2 ^ 64 ∧
      OnlyDie d (Die.told (s.storeFull d) r { s.die d with temp := some temp }) s s')) ∧
  ((∀ (p n : Nat) (s : State),
    (p < 64 → 1 ≤ n → n ≤ 4095 → ∃ s', exec (.supervisorRegisterWrite (.lostlocThreshold p n)) s = .next s' ∧
      OnlyPart p { s.part p with threshold := n } s s') ∧
    (n = 0 ∨ 4095 < n → ∃ s', exec (.supervisorRegisterWrite (.lostlocThreshold p n)) s = .next s' ∧ RefusedCommand s s') ∧
    (p < 64 → 2 ^ 20 ≤ n → n ≤ 2 ^ 40 → ∃ s', exec (.supervisorRegisterWrite (.hangLimit p n)) s = .next s' ∧
      OnlyPart p { s.part p with hangLimit := n } s s') ∧
    (n < 2 ^ 20 ∨ 2 ^ 40 < n → ∃ s', exec (.supervisorRegisterWrite (.hangLimit p n)) s = .next s' ∧ RefusedCommand s s') ∧
    (p < 64 → n % 2 ^ 21 = 0 → ∃ s', exec (.supervisorRegisterWrite (.saveArea p n)) s = .next s' ∧
      OnlyPart p { s.part p with saveBase := n } s s')) ∧
  (∀ (n t : Nat) (s : State), (2 ≤ n ∧ n ≤ 255 → 84000000000 ≤ t ∧ t ≤ 3628800000000000 →
      exec (.supervisorRegisterWrite (.classWindow n t)) s = .next { s with root := { s.root with clsN := n, clsT := t } }) ∧
    (1400000000 ≤ t ∧ t ≤ 120960000000000 →
      exec (.supervisorRegisterWrite (.rollInterval t)) s = .next { s with root := { s.root with rollInterval := t } }) ∧
    (t < 1400000000 ∨ 120960000000000 < t →
      ∃ s', exec (.supervisorRegisterWrite (.rollInterval t)) s = .next s' ∧ RefusedCommand s s')) ∧
  (∀ (v tenant p root : Nat) (s : State), v < 64 → p < 64 → tenant < 2 ^ 16 → root % 2 ^ 18 = 0 →
    ∃ s', exec (.supervisorRegisterWrite (.vfCreate v tenant p root)) s = .next s' ∧
      OnlyVf v { s.vf v with tenant := tenant, part := p, root := root } s s') ∧
  (∀ (c v first tail done comp notify : Nat) (en : Bool) (s : State), c < 128 → v < 64 → comp % 4 = 0 → done ≤ tail →
    ∃ s', exec (.supervisorRegisterWrite (.chainSet c v first tail done comp notify en)) s = .next s' ∧ OnlyChain c { s.chain c with
      vf := v, first := first, tail := tail, done := done, compaddr := comp, notify := notify, enable := en, next := first,
      read := done, halted := false, stalls := [], faulted := none, off := false, entries := [] } s s') ∧
  ∀ (d c m : Nat) (v : DWord) (s : State), d < 4 → c < 48 → m < 64 →
    ∃ s', exec (.supervisorRegisterWrite (.tileEntry d c m v)) s = .next s' ∧ s' = { s with cores := s'.cores } ∧
      s'.tile { die := d, core := c } m = v &&& ~~~0x7FC00000000 ∧ ∀ x n, x.core < 48 → ¬(x = { die := d, core := c } ∧ n = m) → s'.tile x n = s.tile x n)

/-! ## Decoding, steps, reset, memory -/

/-- R38 to R44: every well-formed instruction, at every operand value, decodes from its own words, in front of any bytes. -/
def Obligations.DecodeEncodeRoundTrip : Prop :=
  ∀ (i : Instr) (r : List Byte), Instr.wf i = true → encode i ≠ [] → decode ((encode i).flatMap (natLE 4) ++ r) = .ok (i, r)

/-- R40, R44: what decodes is well-formed and is exactly its own words, so that no two encodings name one instruction; LEN 3 and
a reserved MAJ are refused by name. -/
def Obligations.DecodingIsExact : Prop :=
  (∀ (b r : List Byte) (i : Instr), decode b = .ok (i, r) →
    Instr.wf i = true ∧ encode i ≠ [] ∧ b = (encode i).flatMap (natLE 4) ++ r) ∧
  (∀ w0 w1 w2 : Nat, w0 / 2 ^ 30 % 4 = 3 → decodeWords w0 w1 w2 = .error .lenIllegal) ∧
  ∀ w0 w1 w2 : Nat, w0 / 2 ^ 30 % 4 ≠ 3 → w0 / 2 ^ 24 % 64 ∈ [0x1F, 0x2F, 0x35, 0x36, 0x37, 0x38, 0x39, 0x3A, 0x3B, 0x3C, 0x3D, 0x3E, 0x3F] →
    decodeWords w0 w1 w2 = .error .majorReserved

/-- R42, R53: words written out from the formats decode to the instructions that they stand for. -/
def Obligations.WordsDecode : Prop :=
  decodeTableWord 32 (0x0A * 2 ^ 24 + 5 * 2 ^ 17 + 3 * 2 ^ 10 + 4 * 2 ^ 3 + 1) = some (.sub 5 3 4) ∧
  decodeTableWord 32 (0x03 * 2 ^ 24 + 2 * 2 ^ 21 + 1 * 2 ^ 20 + (2 ^ 20 - 3)) = some (.br { q := 2, neg := true } (-3)) ∧
  decodeTableWord 64 (1 * 2 ^ 30 + 0x14 * 2 ^ 24 + 7 * 2 ^ 17 + 9 * 2 ^ 10 + 0x80000001 * 2 ^ 32) = some (.addiImm32 7 9 0x80000001) ∧
  decodeTableWord 32 (0x00 * 2 ^ 24 + 6 * 2 ^ 17 + 5 * 2 ^ 7 + 0x0E) = some (.rsys 6 0x0E) ∧
  decodeTableWord 32 (0x01 * 2 ^ 24 + 3 * 2 ^ 18 + 2 * 2 ^ 12 + 15 * 2 ^ 8 + 1 * 2 ^ 4) = some (.wait 3 2 15 1) ∧
  decodeTableWord 64 (1 * 2 ^ 30 + 0x34 * 2 ^ 24 + 2 * 2 ^ 0 + 5 * 2 ^ 32) = some (.prio 5)

/-- R60 to R63, R138: a step with nothing on the agenda and no event due takes the picker's turn: the words at the seed's
program counter are fetched and decoded, and the instruction, once it stands in the issue slot, has exactly its effect, after
which the step closes. It stands there where the registers that it names exist, hold values and are not poisoned. An event of
the agenda has its effect alone; one that would post a record on a full die waits (R343). -/
def Obligations.StepRunsDecodedInstruction : Prop :=
  (∀ (i : Instr) (rest : List Instr) (s : State), s.agenda = i :: rest →
    (Instr.wf i = true → encode i = [] → ∀ t, exec i { s with agenda := rest } = .next t →
      (State.overfull s t = false → step s = .next (State.close s t)) ∧
      (State.overfull s t = true → ∀ u, s.auto = some u → step s = .next (State.close s u))) ∧
    (¬(Instr.wf i = true ∧ encode i = []) → step s = .refused .illFormed)) ∧
  (∀ s t : State, s.agenda = [] → s.auto = some t → step s = .next (State.close s t)) ∧
  ∀ (q : QuadId) (c : Cand) (w0 w1 w2 : Nat) (i : Instr) (s : State), s.agenda = [] → s.auto = none → s.nextQuad = some q →
    s.seed q (s.cands q) = some c → (s.fetchFor c.th).2 = .ok (w0, w1, w2) → decodeWords w0 w1 w2 = .ok i →
    let b := bundleOf s.clock.cycle c (s.cands q)
    ∃ p, exec .pickBundle s = .next p ∧ (p.issue.slot = none ∨ p.issue.slot = some i) ∧ p.issue.pc = c.th.pc ∧
      p.issue.word = w0 ∧ p.issue.len = w0 / 2 ^ 30 % 4 ∧ (∀ k ∈ p.issue.bundle, k ∈ b) ∧
      ((∀ t ∈ s.threads, t.id ∈ b → s.regsOk t i = true) → xlaneMask i = none →
        (∀ u ∈ s.threads, u.forms = [] ∧ u.poisoned = []) → (∀ g ∈ s.groups, g.recipes = []) → p.issue.slot = some i) ∧
      ∀ t, p.issue.slot = some i → exec i p.taken = .next t → State.overfull s (State.afterIssue i p.taken t) = false →
        step s = .next (State.close s (State.afterIssue i p.taken t))

/-- R333, R337: right after reset every die is in Dawn and not attested, no link is keyed, no thread, team, grid, access or
command is present, and nothing has been queued or recorded. The memory of the reset state has the canonical form. -/
def Obligations.ResetLeaves : Prop :=
  ((∀ d, (State.reset.die d).st = .dawn ∧ (State.reset.die d).attested = false ∧ (State.reset.die d).waiting = []) ∧
  (∀ l, (State.reset.link l).keyed = false) ∧ State.reset.threads = [] ∧ State.reset.groups = [] ∧ State.reset.teams = [] ∧
  State.reset.grids = [] ∧ State.reset.ops = [] ∧ State.reset.cmds = [] ∧ (∀ c m, State.reset.tile c m = 0) ∧
  (∀ q, (State.reset.quad q).latch.fmt = none) ∧ State.reset.root.power = true ∧ State.reset.root.busy = none) ∧
  (Memory.wf State.reset.mem = true)

/-- Memory is kept in one canonical form (the model's own: log entry 2): every step keeps it, whatever the state. -/
def Obligations.MemoryStaysCanonical : Prop :=
  ∀ s s' : State, Memory.wf s.mem = true → step s = .next s' → Memory.wf s'.mem = true
end

