-- ==== Sys2Proof/Laws/Encode.lean ====
section
/-! SUPPORT. The fields that the decoder reads from a word that the encoder builds, one lemma for each format and field (R38,
R42), and what is then left to show of an instruction for its words to decode to it. -/

namespace Sys2Proof

theorem fLen_A {maj d a b fn : Nat} (_hmaj : maj < 64) (_hd : d < 128) (_ha : a < 128) (_hb : b < 128) (_hfn : fn < 8) :
    fLen (hdr 0 maj + d * 131072 + a * 1024 + b * 8 + fn) = 0 := by unfold fLen hdr; omega
theorem fMaj_A {maj d a b fn : Nat} (_hmaj : maj < 64) (_hd : d < 128) (_ha : a < 128) (_hb : b < 128) (_hfn : fn < 8) :
    fMaj (hdr 0 maj + d * 131072 + a * 1024 + b * 8 + fn) = maj := by unfold fMaj hdr; omega
theorem fD_A {maj d a b fn : Nat} (_hmaj : maj < 64) (_hd : d < 128) (_ha : a < 128) (_hb : b < 128) (_hfn : fn < 8) :
    fD (hdr 0 maj + d * 131072 + a * 1024 + b * 8 + fn) = d := by unfold fD hdr; omega
theorem fA_A {maj d a b fn : Nat} (_hmaj : maj < 64) (_hd : d < 128) (_ha : a < 128) (_hb : b < 128) (_hfn : fn < 8) :
    fA (hdr 0 maj + d * 131072 + a * 1024 + b * 8 + fn) = a := by unfold fA hdr; omega
theorem fB_A {maj d a b fn : Nat} (_hmaj : maj < 64) (_hd : d < 128) (_ha : a < 128) (_hb : b < 128) (_hfn : fn < 8) :
    fB (hdr 0 maj + d * 131072 + a * 1024 + b * 8 + fn) = b := by unfold fB hdr; omega
theorem fFn_A {maj d a b fn : Nat} (_hmaj : maj < 64) (_hd : d < 128) (_ha : a < 128) (_hb : b < 128) (_hfn : fn < 8) :
    fFn (hdr 0 maj + d * 131072 + a * 1024 + b * 8 + fn) = fn := by unfold fFn hdr; omega
theorem fLen_AX {maj d a b fn : Nat} (_hmaj : maj < 64) (_hd : d < 128) (_ha : a < 128) (_hb : b < 128) (_hfn : fn < 8) :
    fLen (hdr 1 maj + d * 131072 + a * 1024 + b * 8 + fn) = 1 := by unfold fLen hdr; omega
theorem fMaj_AX {maj d a b fn : Nat} (_hmaj : maj < 64) (_hd : d < 128) (_ha : a < 128) (_hb : b < 128) (_hfn : fn < 8) :
    fMaj (hdr 1 maj + d * 131072 + a * 1024 + b * 8 + fn) = maj := by unfold fMaj hdr; omega
theorem fD_AX {maj d a b fn : Nat} (_hmaj : maj < 64) (_hd : d < 128) (_ha : a < 128) (_hb : b < 128) (_hfn : fn < 8) :
    fD (hdr 1 maj + d * 131072 + a * 1024 + b * 8 + fn) = d := by unfold fD hdr; omega
theorem fA_AX {maj d a b fn : Nat} (_hmaj : maj < 64) (_hd : d < 128) (_ha : a < 128) (_hb : b < 128) (_hfn : fn < 8) :
    fA (hdr 1 maj + d * 131072 + a * 1024 + b * 8 + fn) = a := by unfold fA hdr; omega
theorem fB_AX {maj d a b fn : Nat} (_hmaj : maj < 64) (_hd : d < 128) (_ha : a < 128) (_hb : b < 128) (_hfn : fn < 8) :
    fB (hdr 1 maj + d * 131072 + a * 1024 + b * 8 + fn) = b := by unfold fB hdr; omega
theorem fFn_AX {maj d a b fn : Nat} (_hmaj : maj < 64) (_hd : d < 128) (_ha : a < 128) (_hb : b < 128) (_hfn : fn < 8) :
    fFn (hdr 1 maj + d * 131072 + a * 1024 + b * 8 + fn) = fn := by unfold fFn hdr; omega
theorem xC_W1 {c ty rm x : Nat} (_hc : c < 128) (_hty : ty < 32) (_hrm : rm < 16) (_hx : x < 65536) :
    xC (c * 33554432 + ty * 1048576 + rm * 65536 + x) = c := by unfold xC; omega
theorem xTy_W1 {c ty rm x : Nat} (_hc : c < 128) (_hty : ty < 32) (_hrm : rm < 16) (_hx : x < 65536) :
    xTy (c * 33554432 + ty * 1048576 + rm * 65536 + x) = ty := by unfold xTy; omega
theorem xRm_W1 {c ty rm x : Nat} (_hc : c < 128) (_hty : ty < 32) (_hrm : rm < 16) (_hx : x < 65536) :
    xRm (c * 33554432 + ty * 1048576 + rm * 65536 + x) = rm := by unfold xRm; omega
theorem xX_W1 {c ty rm x : Nat} (_hc : c < 128) (_hty : ty < 32) (_hrm : rm < 16) (_hx : x < 65536) :
    xX (c * 33554432 + ty * 1048576 + rm * 65536 + x) = x := by unfold xX; omega
theorem fLen_S {maj d a fn arg : Nat} (_hmaj : maj < 64) (_hd : d < 128) (_ha : a < 128) (_hfn : fn < 8) (_harg : arg < 128) :
    fLen (hdr 0 maj + d * 131072 + a * 1024 + fn * 128 + arg) = 0 := by unfold fLen hdr; omega
theorem fMaj_S {maj d a fn arg : Nat} (_hmaj : maj < 64) (_hd : d < 128) (_ha : a < 128) (_hfn : fn < 8) (_harg : arg < 128) :
    fMaj (hdr 0 maj + d * 131072 + a * 1024 + fn * 128 + arg) = maj := by unfold fMaj hdr; omega
theorem fD_S {maj d a fn arg : Nat} (_hmaj : maj < 64) (_hd : d < 128) (_ha : a < 128) (_hfn : fn < 8) (_harg : arg < 128) :
    fD (hdr 0 maj + d * 131072 + a * 1024 + fn * 128 + arg) = d := by unfold fD hdr; omega
theorem fA_S {maj d a fn arg : Nat} (_hmaj : maj < 64) (_hd : d < 128) (_ha : a < 128) (_hfn : fn < 8) (_harg : arg < 128) :
    fA (hdr 0 maj + d * 131072 + a * 1024 + fn * 128 + arg) = a := by unfold fA hdr; omega
theorem fSfn_S {maj d a fn arg : Nat} (_hmaj : maj < 64) (_hd : d < 128) (_ha : a < 128) (_hfn : fn < 8) (_harg : arg < 128) :
    fSfn (hdr 0 maj + d * 131072 + a * 1024 + fn * 128 + arg) = fn := by unfold fSfn hdr; omega
theorem fArg_S {maj d a fn arg : Nat} (_hmaj : maj < 64) (_hd : d < 128) (_ha : a < 128) (_hfn : fn < 8) (_harg : arg < 128) :
    fArg (hdr 0 maj + d * 131072 + a * 1024 + fn * 128 + arg) = arg := by unfold fArg hdr; omega
theorem fLen_I {maj d a i : Nat} (_hmaj : maj < 64) (_hd : d < 128) (_ha : a < 128) (_hi : i < 1024) :
    fLen (hdr 0 maj + d * 131072 + a * 1024 + i) = 0 := by unfold fLen hdr; omega
theorem fMaj_I {maj d a i : Nat} (_hmaj : maj < 64) (_hd : d < 128) (_ha : a < 128) (_hi : i < 1024) :
    fMaj (hdr 0 maj + d * 131072 + a * 1024 + i) = maj := by unfold fMaj hdr; omega
theorem fD_I {maj d a i : Nat} (_hmaj : maj < 64) (_hd : d < 128) (_ha : a < 128) (_hi : i < 1024) :
    fD (hdr 0 maj + d * 131072 + a * 1024 + i) = d := by unfold fD hdr; omega
theorem fA_I {maj d a i : Nat} (_hmaj : maj < 64) (_hd : d < 128) (_ha : a < 128) (_hi : i < 1024) :
    fA (hdr 0 maj + d * 131072 + a * 1024 + i) = a := by unfold fA hdr; omega
theorem fLen_I1 {maj d a : Nat} (_hmaj : maj < 64) (_hd : d < 128) (_ha : a < 128) :
    fLen (hdr 1 maj + d * 131072 + a * 1024) = 1 := by unfold fLen hdr; omega
theorem fMaj_I1 {maj d a : Nat} (_hmaj : maj < 64) (_hd : d < 128) (_ha : a < 128) :
    fMaj (hdr 1 maj + d * 131072 + a * 1024) = maj := by unfold fMaj hdr; omega
theorem fD_I1 {maj d a : Nat} (_hmaj : maj < 64) (_hd : d < 128) (_ha : a < 128) :
    fD (hdr 1 maj + d * 131072 + a * 1024) = d := by unfold fD hdr; omega
theorem fA_I1 {maj d a : Nat} (_hmaj : maj < 64) (_hd : d < 128) (_ha : a < 128) :
    fA (hdr 1 maj + d * 131072 + a * 1024) = a := by unfold fA hdr; omega
theorem fLen_MG {maj s a k q n : Nat} (_hmaj : maj < 64) (_hs : s < 128) (_ha : a < 128) (_hk : k < 16) (_hq : q < 8) (_hn : n < 2) :
    fLen (hdr 1 maj + s * 131072 + a * 1024 + k * 64 + q * 8 + n * 4) = 1 := by unfold fLen hdr; omega
theorem fMaj_MG {maj s a k q n : Nat} (_hmaj : maj < 64) (_hs : s < 128) (_ha : a < 128) (_hk : k < 16) (_hq : q < 8) (_hn : n < 2) :
    fMaj (hdr 1 maj + s * 131072 + a * 1024 + k * 64 + q * 8 + n * 4) = maj := by unfold fMaj hdr; omega
theorem fD_MG {maj s a k q n : Nat} (_hmaj : maj < 64) (_hs : s < 128) (_ha : a < 128) (_hk : k < 16) (_hq : q < 8) (_hn : n < 2) :
    fD (hdr 1 maj + s * 131072 + a * 1024 + k * 64 + q * 8 + n * 4) = s := by unfold fD hdr; omega
theorem fA_MG {maj s a k q n : Nat} (_hmaj : maj < 64) (_hs : s < 128) (_ha : a < 128) (_hk : k < 16) (_hq : q < 8) (_hn : n < 2) :
    fA (hdr 1 maj + s * 131072 + a * 1024 + k * 64 + q * 8 + n * 4) = a := by unfold fA hdr; omega
theorem fK_MG {maj s a k q n : Nat} (_hmaj : maj < 64) (_hs : s < 128) (_ha : a < 128) (_hk : k < 16) (_hq : q < 8) (_hn : n < 2) :
    fK (hdr 1 maj + s * 131072 + a * 1024 + k * 64 + q * 8 + n * 4) = k := by unfold fK hdr; omega
theorem mOp_MG1 {op c co x : Nat} (_hop : op < 32) (_hc : c < 128) (_hco : co < 4) (_hx : x < 262144) :
    mOp (op * 134217728 + c * 1048576 + co * 262144 + x) = op := by unfold mOp; omega
theorem mC_MG1 {op c co x : Nat} (_hop : op < 32) (_hc : c < 128) (_hco : co < 4) (_hx : x < 262144) :
    mC (op * 134217728 + c * 1048576 + co * 262144 + x) = c := by unfold mC; omega
theorem mCo_MG1 {op c co x : Nat} (_hop : op < 32) (_hc : c < 128) (_hco : co < 4) (_hx : x < 262144) :
    mCo (op * 134217728 + c * 1048576 + co * 262144 + x) = co := by unfold mCo; omega
theorem fLen_SP {s a m : Nat} (_hs : s < 128) (_ha : a < 128) (_hm : m < 64) :
    fLen (hdr 1 44 + s * 131072 + a * 1024 + m * 16) = 1 := by unfold fLen hdr; omega
theorem fMaj_SP {s a m : Nat} (_hs : s < 128) (_ha : a < 128) (_hm : m < 64) :
    fMaj (hdr 1 44 + s * 131072 + a * 1024 + m * 16) = 44 := by unfold fMaj hdr; omega
theorem fD_SP {s a m : Nat} (_hs : s < 128) (_ha : a < 128) (_hm : m < 64) :
    fD (hdr 1 44 + s * 131072 + a * 1024 + m * 16) = s := by unfold fD hdr; omega
theorem fA_SP {s a m : Nat} (_hs : s < 128) (_ha : a < 128) (_hm : m < 64) :
    fA (hdr 1 44 + s * 131072 + a * 1024 + m * 16) = a := by unfold fA hdr; omega
theorem fM_SP {s a m : Nat} (_hs : s < 128) (_ha : a < 128) (_hm : m < 64) :
    fM (hdr 1 44 + s * 131072 + a * 1024 + m * 16) = m := by unfold fM hdr; omega
theorem mOp_SP1 {op c x : Nat} (_hop : op < 32) (_hc : c < 128) (_hx : x < 1048576) :
    mOp (op * 134217728 + c * 1048576 + x) = op := by unfold mOp; omega
theorem mC_SP1 {op c x : Nat} (_hop : op < 32) (_hc : c < 128) (_hx : x < 1048576) :
    mC (op * 134217728 + c * 1048576 + x) = c := by unfold mC; omega

/-- An instruction decodes from its words where they hold its LEN, an assigned MAJ, and parse to it. -/
theorem decodeWords_of {i : Instr} {l w0 w1 w2 : Nat} (hl : fLen w0 = l) (he : encode i = wordsOf l w0 w1 w2)
    (hw : i.wf = true) (h3 : l ≠ 3) (hr : majReserved (fMaj w0) = false) (ha : lenAllowed (fMaj w0) l = true)
    (hp : parse l (fMaj w0) w0 w1 w2 = some i) : decodeWords w0 w1 w2 = .ok i := by
  unfold decodeWords; rw [hl, if_neg h3, hr, ha, hp]; simp [he, hw]

/-- What decodes is well-formed and is exactly its words (R40 step 6, R44). -/
theorem decodeWords_ok {i : Instr} {w0 w1 w2 : Nat} (h : decodeWords w0 w1 w2 = .ok i) :
    i.wf = true ∧ encode i = wordsOf (fLen w0) w0 w1 w2 := by
  unfold decodeWords at h
  split at h
  · cases h
  · split at h
    · cases h
    · split at h
      · cases h
      · split at h
        · split at h
          · rename_i hc; cases h; simpa using hc
          · cases h
        · cases h

end Sys2Proof
end

