-- ==== Sys2Proof/Laws/Tables.lean ====
section
/-! SUPPORT. What the sparse tables and the memory do: a read after a write, and the canonical form. -/

namespace Sys2Proof.Machine

theorem tdel_cons {α : Type} (e : Nat × α) (r : List (Nat × α)) (k : Nat) :
    tdel (e :: r) k = if e.1 = k then tdel r k else e :: tdel r k := by
  unfold tdel
  by_cases h : e.1 = k <;> simp [h]

theorem tget_tdel_same {α : Type} (d : α) (m : List (Nat × α)) (k : Nat) : tget d (tdel m k) k = d := by
  induction m with
  | nil => rfl
  | cons e r ih =>
    rw [tdel_cons]
    by_cases h : e.1 = k
    · rw [if_pos h, ih]
    · rw [if_neg h]; simp [tget, h, ih]

theorem tget_tdel_other {α : Type} (d : α) (m : List (Nat × α)) {k j : Nat} (hj : j ≠ k) :
    tget d (tdel m k) j = tget d m j := by
  induction m with
  | nil => rfl
  | cons e r ih =>
    rw [tdel_cons]
    by_cases h : e.1 = k
    · rw [if_pos h, ih]; simp [tget, h, hj.symm]
    · rw [if_neg h]; simp [tget, ih]

theorem tget_tins_other {α : Type} (d : α) (m : List (Nat × α)) {k j : Nat} (v : α) (hj : j ≠ k) :
    tget d (tins m k v) j = tget d m j := by
  induction m with
  | nil => simp [tins, tget, hj.symm]
  | cons e r ih =>
    by_cases h : k < e.1
    · simp [tins, h, tget, hj.symm]
    · simp [tins, h, tget, ih]

theorem tget_tins_tdel {α : Type} (d : α) (m : List (Nat × α)) (k : Nat) (v : α) :
    tget d (tins (tdel m k) k v) k = v := by
  induction m with
  | nil => simp [tdel, tins, tget]
  | cons e r ih =>
    rw [tdel_cons]
    by_cases h : e.1 = k
    · rw [if_pos h, ih]
    · rw [if_neg h]
      by_cases h2 : k < e.1
      · simp [tins, h2, tget]
      · simp [tins, h2, tget, h, ih]

/-- Reading the key that was written. -/
@[simp] theorem tget_tput_same {α : Type} [DecidableEq α] (d : α) (m : List (Nat × α)) (k : Nat) (v : α) :
    tget d (tput d m k v) k = v := by
  unfold tput
  split
  · rename_i h; rw [tget_tdel_same, h]
  · exact tget_tins_tdel d m k v

/-- Reading another key. -/
theorem tget_tput_other {α : Type} [DecidableEq α] (d : α) (m : List (Nat × α)) {k j : Nat} (v : α) (hj : j ≠ k) :
    tget d (tput d m k v) j = tget d m j := by
  unfold tput
  split
  · exact tget_tdel_other d m hj
  · rw [tget_tins_other _ _ _ hj, tget_tdel_other _ _ hj]

theorem tget_tput {α : Type} [DecidableEq α] (d : α) (m : List (Nat × α)) (k j : Nat) (v : α) :
    tget d (tput d m k v) j = if j = k then v else tget d m j := by
  split
  · rename_i h; rw [h, tget_tput_same]
  · rename_i h; exact tget_tput_other d m v h

/-! ## The canonical form -/

/-- Every key of a sorted table's tail is above its head. -/
theorem tsorted_cons {α : Type} {e : Nat × α} {r : List (Nat × α)} :
    tsorted (e :: r) = true ↔ (∀ x ∈ r, e.1 < x.1) ∧ tsorted r = true := by
  induction r generalizing e with
  | nil => simp [tsorted]
  | cons f q ih =>
    simp only [tsorted, Bool.and_eq_true, decide_eq_true_eq, List.mem_cons, forall_eq_or_imp]
    constructor
    · intro ⟨h1, h2⟩
      exact ⟨⟨h1, fun x hx => Nat.lt_trans h1 ((ih.mp h2).1 x hx)⟩, h2⟩
    · intro ⟨h1, h2⟩
      exact ⟨h1.1, h2⟩

theorem tsorted_tdel {α : Type} {m : List (Nat × α)} (k : Nat) (h : tsorted m = true) : tsorted (tdel m k) = true := by
  induction m with
  | nil => rfl
  | cons e r ih =>
    have h' := tsorted_cons.mp h
    rw [tdel_cons]
    split
    · exact ih h'.2
    · rw [tsorted_cons]
      exact ⟨fun x hx => h'.1 x (List.mem_filter.mp hx).1, ih h'.2⟩

theorem mem_tins {α : Type} {m : List (Nat × α)} {k : Nat} {v : α} {x : Nat × α} (h : x ∈ tins m k v) :
    x = (k, v) ∨ x ∈ m := by
  induction m with
  | nil => simpa [tins] using h
  | cons e r ih =>
    unfold tins at h
    split at h
    · simp only [List.mem_cons] at h ⊢; exact h
    · simp only [List.mem_cons] at h ⊢
      rcases h with h | h
      · exact .inr (.inl h)
      · rcases ih h with h | h
        · exact .inl h
        · exact .inr (.inr h)

theorem tsorted_tins {α : Type} {m : List (Nat × α)} {k : Nat} {v : α} (h : tsorted m = true)
    (hk : ∀ x ∈ m, x.1 ≠ k) : tsorted (tins m k v) = true := by
  induction m with
  | nil => rfl
  | cons e r ih =>
    have h' := tsorted_cons.mp h
    unfold tins
    split
    · rename_i hlt
      rw [tsorted_cons]
      refine ⟨?_, h⟩
      intro x hx
      rcases List.mem_cons.mp hx with hx | hx
      · subst hx; exact hlt
      · exact Nat.lt_trans hlt (h'.1 x hx)
    · rename_i hlt
      rw [tsorted_cons]
      have he : e.1 ≠ k := hk e (List.mem_cons_self ..)
      refine ⟨?_, ih h'.2 fun x hx => hk x (List.mem_cons_of_mem _ hx)⟩
      intro x hx
      rcases mem_tins hx with hx | hx
      · subst hx; show e.1 < k; omega
      · exact h'.1 x hx

theorem tdel_keys {α : Type} {m : List (Nat × α)} {k : Nat} {x : Nat × α} (h : x ∈ tdel m k) : x.1 ≠ k := by
  unfold tdel at h
  simpa using (List.mem_filter.mp h).2

theorem tsorted_tput {α : Type} [DecidableEq α] {d : α} {m : List (Nat × α)} (k : Nat) (v : α) (h : tsorted m = true) :
    tsorted (tput d m k v) = true := by
  unfold tput
  split
  · exact tsorted_tdel k h
  · exact tsorted_tins (tsorted_tdel k h) fun x hx => tdel_keys hx

/-! ## Memory -/

/-- A read after a write gives the byte written; every other byte is as before. -/
theorem Memory.read_write (m : List Host.Cell) (a b : Nat) (v : Byte) :
    Memory.read (Memory.write m a v) b = if b = a then v else Memory.read m b := tget_tput _ m a b v

theorem Memory.wf_nil : Memory.wf [] = true := rfl

/-- A write keeps the canonical form. -/
theorem Memory.wf_write {m : List Host.Cell} (a : Nat) (v : Byte) (h : Memory.wf m = true) :
    Memory.wf (Memory.write m a v) = true := by
  unfold Memory.wf at h ⊢
  simp only [Bool.and_eq_true, List.all_eq_true, decide_eq_true_eq] at h ⊢
  refine ⟨tsorted_tput a v h.1, ?_⟩
  intro x hx
  unfold Memory.write tput at hx
  split at hx
  · exact h.2 x (List.mem_filter.mp hx).1
  · rename_i hv
    rcases mem_tins hx with hx | hx
    · subst hx; exact hv
    · exact h.2 x (List.mem_filter.mp hx).1

/-- Writing consecutive bytes keeps the canonical form. -/
theorem Memory.wf_writeN {m : List Host.Cell} (a : Nat) (bs : List Byte) (h : Memory.wf m = true) :
    Memory.wf (Memory.writeN m a bs) = true := by
  induction bs generalizing m a with
  | nil => exact h
  | cons b r ih => exact ih (a + 1) (Memory.wf_write a b h)

/-- A fold of writes keeps the canonical form. -/
theorem Memory.wf_foldl {α : Type} {m : List Host.Cell} (l : List α) (at_ : α → Nat) (v : α → Byte)
    (h : Memory.wf m = true) : Memory.wf (l.foldl (fun m e => Memory.write m (at_ e) (v e)) m) = true := by
  induction l generalizing m with
  | nil => exact h
  | cons e r ih => exact ih (Memory.wf_write _ _ h)

/-- Bytes below and above the written ones are as before. -/
theorem Memory.read_writeN_out {m : List Host.Cell} {a b : Nat} {bs : List Byte} (h : b < a ∨ a + bs.length ≤ b) :
    Memory.read (Memory.writeN m a bs) b = Memory.read m b := by
  induction bs generalizing m a with
  | nil => rfl
  | cons v r ih =>
    simp only [List.length_cons] at h
    show Memory.read (Memory.writeN (Memory.write m a v) (a + 1) r) b = _
    rw [ih (by omega), Memory.read_write, if_neg (by omega)]

/-- Each written byte reads back. -/
theorem Memory.read_writeN_in {m : List Host.Cell} {a : Nat} {bs : List Byte} {i : Nat} (h : i < bs.length) :
    Memory.read (Memory.writeN m a bs) (a + i) = bs[i] := by
  induction bs generalizing m a i with
  | nil => exact absurd h (Nat.not_lt_zero i)
  | cons v r ih =>
    show Memory.read (Memory.writeN (Memory.write m a v) (a + 1) r) (a + i) = _
    cases i with
    | zero => rw [Memory.read_writeN_out (by omega), Memory.read_write]; simp
    | succ j =>
      have h' : j < r.length := by simpa using h
      have := ih (m := Memory.write m a v) (a := a + 1) h'
      rw [show a + (j + 1) = a + 1 + j by omega, this]; rfl

theorem Memory.readN_length (m : List Host.Cell) (a n : Nat) : (Memory.readN m a n).length = n := by
  induction n generalizing a with
  | zero => rfl
  | succ k ih => simp [Memory.readN, ih]

/-- What was written is what is read. -/
theorem Memory.readN_writeN (m : List Host.Cell) (a : Nat) (bs : List Byte) :
    Memory.readN (Memory.writeN m a bs) a bs.length = bs := by
  induction bs generalizing m a with
  | nil => rfl
  | cons v r ih =>
    show Memory.read _ a :: Memory.readN _ (a + 1) r.length = _
    have h1 : Memory.read (Memory.writeN m a (v :: r)) a = v := Memory.read_writeN_in (i := 0) (by simp)
    rw [h1]
    exact congrArg _ (ih (Memory.write m a v) (a + 1))

end Sys2Proof.Machine
end

