-- ==== Sys2Proof/Laws/State.lean ====
section
/-! SUPPORT. One lemma for each field and each update of the state: what the update leaves, and what it makes of its own
field; then the parts of the state by name after an update. -/

namespace Sys2Proof.Machine

@[simp] theorem State.mapThreads_agenda (f : Thread → Thread) (s : State) : (s.mapThreads f).agenda = s.agenda := rfl
@[simp] theorem State.mapThreads_issue (f : Thread → Thread) (s : State) : (s.mapThreads f).issue = s.issue := rfl
@[simp] theorem State.mapThreads_clock (f : Thread → Thread) (s : State) : (s.mapThreads f).clock = s.clock := rfl
@[simp] theorem State.mapThreads_groups (f : Thread → Thread) (s : State) : (s.mapThreads f).groups = s.groups := rfl
@[simp] theorem State.mapThreads_teams (f : Thread → Thread) (s : State) : (s.mapThreads f).teams = s.teams := rfl
@[simp] theorem State.mapThreads_grids (f : Thread → Thread) (s : State) : (s.mapThreads f).grids = s.grids := rfl
@[simp] theorem State.mapThreads_ops (f : Thread → Thread) (s : State) : (s.mapThreads f).ops = s.ops := rfl
@[simp] theorem State.mapThreads_cmds (f : Thread → Thread) (s : State) : (s.mapThreads f).cmds = s.cmds := rfl
@[simp] theorem State.mapThreads_cores (f : Thread → Thread) (s : State) : (s.mapThreads f).cores = s.cores := rfl
@[simp] theorem State.mapThreads_quads (f : Thread → Thread) (s : State) : (s.mapThreads f).quads = s.quads := rfl
@[simp] theorem State.mapThreads_dies (f : Thread → Thread) (s : State) : (s.mapThreads f).dies = s.dies := rfl
@[simp] theorem State.mapThreads_mem (f : Thread → Thread) (s : State) : (s.mapThreads f).mem = s.mem := rfl
@[simp] theorem State.mapThreads_poison (f : Thread → Thread) (s : State) : (s.mapThreads f).poison = s.poison := rfl
@[simp] theorem State.mapThreads_chains (f : Thread → Thread) (s : State) : (s.mapThreads f).chains = s.chains := rfl
@[simp] theorem State.mapThreads_parts (f : Thread → Thread) (s : State) : (s.mapThreads f).parts = s.parts := rfl
@[simp] theorem State.mapThreads_vfs (f : Thread → Thread) (s : State) : (s.mapThreads f).vfs = s.vfs := rfl
@[simp] theorem State.mapThreads_ports (f : Thread → Thread) (s : State) : (s.mapThreads f).ports = s.ports := rfl
@[simp] theorem State.mapThreads_links (f : Thread → Thread) (s : State) : (s.mapThreads f).links = s.links := rfl
@[simp] theorem State.mapThreads_domain (f : Thread → Thread) (s : State) : (s.mapThreads f).domain = s.domain := rfl
@[simp] theorem State.mapThreads_events (f : Thread → Thread) (s : State) : (s.mapThreads f).events = s.events := rfl
@[simp] theorem State.mapThreads_root (f : Thread → Thread) (s : State) : (s.mapThreads f).root = s.root := rfl

@[simp] theorem State.modThread_agenda (t : ThreadId) (f : Thread → Thread) (s : State) : (s.modThread t f).agenda = s.agenda := rfl
@[simp] theorem State.modThread_issue (t : ThreadId) (f : Thread → Thread) (s : State) : (s.modThread t f).issue = s.issue := rfl
@[simp] theorem State.modThread_clock (t : ThreadId) (f : Thread → Thread) (s : State) : (s.modThread t f).clock = s.clock := rfl
@[simp] theorem State.modThread_groups (t : ThreadId) (f : Thread → Thread) (s : State) : (s.modThread t f).groups = s.groups := rfl
@[simp] theorem State.modThread_teams (t : ThreadId) (f : Thread → Thread) (s : State) : (s.modThread t f).teams = s.teams := rfl
@[simp] theorem State.modThread_grids (t : ThreadId) (f : Thread → Thread) (s : State) : (s.modThread t f).grids = s.grids := rfl
@[simp] theorem State.modThread_ops (t : ThreadId) (f : Thread → Thread) (s : State) : (s.modThread t f).ops = s.ops := rfl
@[simp] theorem State.modThread_cmds (t : ThreadId) (f : Thread → Thread) (s : State) : (s.modThread t f).cmds = s.cmds := rfl
@[simp] theorem State.modThread_cores (t : ThreadId) (f : Thread → Thread) (s : State) : (s.modThread t f).cores = s.cores := rfl
@[simp] theorem State.modThread_quads (t : ThreadId) (f : Thread → Thread) (s : State) : (s.modThread t f).quads = s.quads := rfl
@[simp] theorem State.modThread_dies (t : ThreadId) (f : Thread → Thread) (s : State) : (s.modThread t f).dies = s.dies := rfl
@[simp] theorem State.modThread_mem (t : ThreadId) (f : Thread → Thread) (s : State) : (s.modThread t f).mem = s.mem := rfl
@[simp] theorem State.modThread_poison (t : ThreadId) (f : Thread → Thread) (s : State) : (s.modThread t f).poison = s.poison := rfl
@[simp] theorem State.modThread_chains (t : ThreadId) (f : Thread → Thread) (s : State) : (s.modThread t f).chains = s.chains := rfl
@[simp] theorem State.modThread_parts (t : ThreadId) (f : Thread → Thread) (s : State) : (s.modThread t f).parts = s.parts := rfl
@[simp] theorem State.modThread_vfs (t : ThreadId) (f : Thread → Thread) (s : State) : (s.modThread t f).vfs = s.vfs := rfl
@[simp] theorem State.modThread_ports (t : ThreadId) (f : Thread → Thread) (s : State) : (s.modThread t f).ports = s.ports := rfl
@[simp] theorem State.modThread_links (t : ThreadId) (f : Thread → Thread) (s : State) : (s.modThread t f).links = s.links := rfl
@[simp] theorem State.modThread_domain (t : ThreadId) (f : Thread → Thread) (s : State) : (s.modThread t f).domain = s.domain := rfl
@[simp] theorem State.modThread_events (t : ThreadId) (f : Thread → Thread) (s : State) : (s.modThread t f).events = s.events := rfl
@[simp] theorem State.modThread_root (t : ThreadId) (f : Thread → Thread) (s : State) : (s.modThread t f).root = s.root := rfl

@[simp] theorem State.modGroup_agenda (g : GroupId) (f : Group → Group) (s : State) : (s.modGroup g f).agenda = s.agenda := rfl
@[simp] theorem State.modGroup_issue (g : GroupId) (f : Group → Group) (s : State) : (s.modGroup g f).issue = s.issue := rfl
@[simp] theorem State.modGroup_clock (g : GroupId) (f : Group → Group) (s : State) : (s.modGroup g f).clock = s.clock := rfl
@[simp] theorem State.modGroup_threads (g : GroupId) (f : Group → Group) (s : State) : (s.modGroup g f).threads = s.threads := rfl
@[simp] theorem State.modGroup_teams (g : GroupId) (f : Group → Group) (s : State) : (s.modGroup g f).teams = s.teams := rfl
@[simp] theorem State.modGroup_grids (g : GroupId) (f : Group → Group) (s : State) : (s.modGroup g f).grids = s.grids := rfl
@[simp] theorem State.modGroup_ops (g : GroupId) (f : Group → Group) (s : State) : (s.modGroup g f).ops = s.ops := rfl
@[simp] theorem State.modGroup_cmds (g : GroupId) (f : Group → Group) (s : State) : (s.modGroup g f).cmds = s.cmds := rfl
@[simp] theorem State.modGroup_cores (g : GroupId) (f : Group → Group) (s : State) : (s.modGroup g f).cores = s.cores := rfl
@[simp] theorem State.modGroup_quads (g : GroupId) (f : Group → Group) (s : State) : (s.modGroup g f).quads = s.quads := rfl
@[simp] theorem State.modGroup_dies (g : GroupId) (f : Group → Group) (s : State) : (s.modGroup g f).dies = s.dies := rfl
@[simp] theorem State.modGroup_mem (g : GroupId) (f : Group → Group) (s : State) : (s.modGroup g f).mem = s.mem := rfl
@[simp] theorem State.modGroup_poison (g : GroupId) (f : Group → Group) (s : State) : (s.modGroup g f).poison = s.poison := rfl
@[simp] theorem State.modGroup_chains (g : GroupId) (f : Group → Group) (s : State) : (s.modGroup g f).chains = s.chains := rfl
@[simp] theorem State.modGroup_parts (g : GroupId) (f : Group → Group) (s : State) : (s.modGroup g f).parts = s.parts := rfl
@[simp] theorem State.modGroup_vfs (g : GroupId) (f : Group → Group) (s : State) : (s.modGroup g f).vfs = s.vfs := rfl
@[simp] theorem State.modGroup_ports (g : GroupId) (f : Group → Group) (s : State) : (s.modGroup g f).ports = s.ports := rfl
@[simp] theorem State.modGroup_links (g : GroupId) (f : Group → Group) (s : State) : (s.modGroup g f).links = s.links := rfl
@[simp] theorem State.modGroup_domain (g : GroupId) (f : Group → Group) (s : State) : (s.modGroup g f).domain = s.domain := rfl
@[simp] theorem State.modGroup_events (g : GroupId) (f : Group → Group) (s : State) : (s.modGroup g f).events = s.events := rfl
@[simp] theorem State.modGroup_root (g : GroupId) (f : Group → Group) (s : State) : (s.modGroup g f).root = s.root := rfl

@[simp] theorem State.modTeam_agenda (t : TeamId) (f : Team → Team) (s : State) : (s.modTeam t f).agenda = s.agenda := rfl
@[simp] theorem State.modTeam_issue (t : TeamId) (f : Team → Team) (s : State) : (s.modTeam t f).issue = s.issue := rfl
@[simp] theorem State.modTeam_clock (t : TeamId) (f : Team → Team) (s : State) : (s.modTeam t f).clock = s.clock := rfl
@[simp] theorem State.modTeam_threads (t : TeamId) (f : Team → Team) (s : State) : (s.modTeam t f).threads = s.threads := rfl
@[simp] theorem State.modTeam_groups (t : TeamId) (f : Team → Team) (s : State) : (s.modTeam t f).groups = s.groups := rfl
@[simp] theorem State.modTeam_grids (t : TeamId) (f : Team → Team) (s : State) : (s.modTeam t f).grids = s.grids := rfl
@[simp] theorem State.modTeam_ops (t : TeamId) (f : Team → Team) (s : State) : (s.modTeam t f).ops = s.ops := rfl
@[simp] theorem State.modTeam_cmds (t : TeamId) (f : Team → Team) (s : State) : (s.modTeam t f).cmds = s.cmds := rfl
@[simp] theorem State.modTeam_cores (t : TeamId) (f : Team → Team) (s : State) : (s.modTeam t f).cores = s.cores := rfl
@[simp] theorem State.modTeam_quads (t : TeamId) (f : Team → Team) (s : State) : (s.modTeam t f).quads = s.quads := rfl
@[simp] theorem State.modTeam_dies (t : TeamId) (f : Team → Team) (s : State) : (s.modTeam t f).dies = s.dies := rfl
@[simp] theorem State.modTeam_mem (t : TeamId) (f : Team → Team) (s : State) : (s.modTeam t f).mem = s.mem := rfl
@[simp] theorem State.modTeam_poison (t : TeamId) (f : Team → Team) (s : State) : (s.modTeam t f).poison = s.poison := rfl
@[simp] theorem State.modTeam_chains (t : TeamId) (f : Team → Team) (s : State) : (s.modTeam t f).chains = s.chains := rfl
@[simp] theorem State.modTeam_parts (t : TeamId) (f : Team → Team) (s : State) : (s.modTeam t f).parts = s.parts := rfl
@[simp] theorem State.modTeam_vfs (t : TeamId) (f : Team → Team) (s : State) : (s.modTeam t f).vfs = s.vfs := rfl
@[simp] theorem State.modTeam_ports (t : TeamId) (f : Team → Team) (s : State) : (s.modTeam t f).ports = s.ports := rfl
@[simp] theorem State.modTeam_links (t : TeamId) (f : Team → Team) (s : State) : (s.modTeam t f).links = s.links := rfl
@[simp] theorem State.modTeam_domain (t : TeamId) (f : Team → Team) (s : State) : (s.modTeam t f).domain = s.domain := rfl
@[simp] theorem State.modTeam_events (t : TeamId) (f : Team → Team) (s : State) : (s.modTeam t f).events = s.events := rfl
@[simp] theorem State.modTeam_root (t : TeamId) (f : Team → Team) (s : State) : (s.modTeam t f).root = s.root := rfl

@[simp] theorem State.modGrid_agenda (g : Nat) (f : Grid → Grid) (s : State) : (s.modGrid g f).agenda = s.agenda := rfl
@[simp] theorem State.modGrid_issue (g : Nat) (f : Grid → Grid) (s : State) : (s.modGrid g f).issue = s.issue := rfl
@[simp] theorem State.modGrid_clock (g : Nat) (f : Grid → Grid) (s : State) : (s.modGrid g f).clock = s.clock := rfl
@[simp] theorem State.modGrid_threads (g : Nat) (f : Grid → Grid) (s : State) : (s.modGrid g f).threads = s.threads := rfl
@[simp] theorem State.modGrid_groups (g : Nat) (f : Grid → Grid) (s : State) : (s.modGrid g f).groups = s.groups := rfl
@[simp] theorem State.modGrid_teams (g : Nat) (f : Grid → Grid) (s : State) : (s.modGrid g f).teams = s.teams := rfl
@[simp] theorem State.modGrid_ops (g : Nat) (f : Grid → Grid) (s : State) : (s.modGrid g f).ops = s.ops := rfl
@[simp] theorem State.modGrid_cmds (g : Nat) (f : Grid → Grid) (s : State) : (s.modGrid g f).cmds = s.cmds := rfl
@[simp] theorem State.modGrid_cores (g : Nat) (f : Grid → Grid) (s : State) : (s.modGrid g f).cores = s.cores := rfl
@[simp] theorem State.modGrid_quads (g : Nat) (f : Grid → Grid) (s : State) : (s.modGrid g f).quads = s.quads := rfl
@[simp] theorem State.modGrid_dies (g : Nat) (f : Grid → Grid) (s : State) : (s.modGrid g f).dies = s.dies := rfl
@[simp] theorem State.modGrid_mem (g : Nat) (f : Grid → Grid) (s : State) : (s.modGrid g f).mem = s.mem := rfl
@[simp] theorem State.modGrid_poison (g : Nat) (f : Grid → Grid) (s : State) : (s.modGrid g f).poison = s.poison := rfl
@[simp] theorem State.modGrid_chains (g : Nat) (f : Grid → Grid) (s : State) : (s.modGrid g f).chains = s.chains := rfl
@[simp] theorem State.modGrid_parts (g : Nat) (f : Grid → Grid) (s : State) : (s.modGrid g f).parts = s.parts := rfl
@[simp] theorem State.modGrid_vfs (g : Nat) (f : Grid → Grid) (s : State) : (s.modGrid g f).vfs = s.vfs := rfl
@[simp] theorem State.modGrid_ports (g : Nat) (f : Grid → Grid) (s : State) : (s.modGrid g f).ports = s.ports := rfl
@[simp] theorem State.modGrid_links (g : Nat) (f : Grid → Grid) (s : State) : (s.modGrid g f).links = s.links := rfl
@[simp] theorem State.modGrid_domain (g : Nat) (f : Grid → Grid) (s : State) : (s.modGrid g f).domain = s.domain := rfl
@[simp] theorem State.modGrid_events (g : Nat) (f : Grid → Grid) (s : State) : (s.modGrid g f).events = s.events := rfl
@[simp] theorem State.modGrid_root (g : Nat) (f : Grid → Grid) (s : State) : (s.modGrid g f).root = s.root := rfl

@[simp] theorem State.modOp_agenda (n : Nat) (f : Op → Op) (s : State) : (s.modOp n f).agenda = s.agenda := rfl
@[simp] theorem State.modOp_issue (n : Nat) (f : Op → Op) (s : State) : (s.modOp n f).issue = s.issue := rfl
@[simp] theorem State.modOp_clock (n : Nat) (f : Op → Op) (s : State) : (s.modOp n f).clock = s.clock := rfl
@[simp] theorem State.modOp_threads (n : Nat) (f : Op → Op) (s : State) : (s.modOp n f).threads = s.threads := rfl
@[simp] theorem State.modOp_groups (n : Nat) (f : Op → Op) (s : State) : (s.modOp n f).groups = s.groups := rfl
@[simp] theorem State.modOp_teams (n : Nat) (f : Op → Op) (s : State) : (s.modOp n f).teams = s.teams := rfl
@[simp] theorem State.modOp_grids (n : Nat) (f : Op → Op) (s : State) : (s.modOp n f).grids = s.grids := rfl
@[simp] theorem State.modOp_cmds (n : Nat) (f : Op → Op) (s : State) : (s.modOp n f).cmds = s.cmds := rfl
@[simp] theorem State.modOp_cores (n : Nat) (f : Op → Op) (s : State) : (s.modOp n f).cores = s.cores := rfl
@[simp] theorem State.modOp_quads (n : Nat) (f : Op → Op) (s : State) : (s.modOp n f).quads = s.quads := rfl
@[simp] theorem State.modOp_dies (n : Nat) (f : Op → Op) (s : State) : (s.modOp n f).dies = s.dies := rfl
@[simp] theorem State.modOp_mem (n : Nat) (f : Op → Op) (s : State) : (s.modOp n f).mem = s.mem := rfl
@[simp] theorem State.modOp_poison (n : Nat) (f : Op → Op) (s : State) : (s.modOp n f).poison = s.poison := rfl
@[simp] theorem State.modOp_chains (n : Nat) (f : Op → Op) (s : State) : (s.modOp n f).chains = s.chains := rfl
@[simp] theorem State.modOp_parts (n : Nat) (f : Op → Op) (s : State) : (s.modOp n f).parts = s.parts := rfl
@[simp] theorem State.modOp_vfs (n : Nat) (f : Op → Op) (s : State) : (s.modOp n f).vfs = s.vfs := rfl
@[simp] theorem State.modOp_ports (n : Nat) (f : Op → Op) (s : State) : (s.modOp n f).ports = s.ports := rfl
@[simp] theorem State.modOp_links (n : Nat) (f : Op → Op) (s : State) : (s.modOp n f).links = s.links := rfl
@[simp] theorem State.modOp_domain (n : Nat) (f : Op → Op) (s : State) : (s.modOp n f).domain = s.domain := rfl
@[simp] theorem State.modOp_events (n : Nat) (f : Op → Op) (s : State) : (s.modOp n f).events = s.events := rfl
@[simp] theorem State.modOp_root (n : Nat) (f : Op → Op) (s : State) : (s.modOp n f).root = s.root := rfl

@[simp] theorem State.modCmd_agenda (n : Nat) (f : Cmd → Cmd) (s : State) : (s.modCmd n f).agenda = s.agenda := rfl
@[simp] theorem State.modCmd_issue (n : Nat) (f : Cmd → Cmd) (s : State) : (s.modCmd n f).issue = s.issue := rfl
@[simp] theorem State.modCmd_clock (n : Nat) (f : Cmd → Cmd) (s : State) : (s.modCmd n f).clock = s.clock := rfl
@[simp] theorem State.modCmd_threads (n : Nat) (f : Cmd → Cmd) (s : State) : (s.modCmd n f).threads = s.threads := rfl
@[simp] theorem State.modCmd_groups (n : Nat) (f : Cmd → Cmd) (s : State) : (s.modCmd n f).groups = s.groups := rfl
@[simp] theorem State.modCmd_teams (n : Nat) (f : Cmd → Cmd) (s : State) : (s.modCmd n f).teams = s.teams := rfl
@[simp] theorem State.modCmd_grids (n : Nat) (f : Cmd → Cmd) (s : State) : (s.modCmd n f).grids = s.grids := rfl
@[simp] theorem State.modCmd_ops (n : Nat) (f : Cmd → Cmd) (s : State) : (s.modCmd n f).ops = s.ops := rfl
@[simp] theorem State.modCmd_cores (n : Nat) (f : Cmd → Cmd) (s : State) : (s.modCmd n f).cores = s.cores := rfl
@[simp] theorem State.modCmd_quads (n : Nat) (f : Cmd → Cmd) (s : State) : (s.modCmd n f).quads = s.quads := rfl
@[simp] theorem State.modCmd_dies (n : Nat) (f : Cmd → Cmd) (s : State) : (s.modCmd n f).dies = s.dies := rfl
@[simp] theorem State.modCmd_mem (n : Nat) (f : Cmd → Cmd) (s : State) : (s.modCmd n f).mem = s.mem := rfl
@[simp] theorem State.modCmd_poison (n : Nat) (f : Cmd → Cmd) (s : State) : (s.modCmd n f).poison = s.poison := rfl
@[simp] theorem State.modCmd_chains (n : Nat) (f : Cmd → Cmd) (s : State) : (s.modCmd n f).chains = s.chains := rfl
@[simp] theorem State.modCmd_parts (n : Nat) (f : Cmd → Cmd) (s : State) : (s.modCmd n f).parts = s.parts := rfl
@[simp] theorem State.modCmd_vfs (n : Nat) (f : Cmd → Cmd) (s : State) : (s.modCmd n f).vfs = s.vfs := rfl
@[simp] theorem State.modCmd_ports (n : Nat) (f : Cmd → Cmd) (s : State) : (s.modCmd n f).ports = s.ports := rfl
@[simp] theorem State.modCmd_links (n : Nat) (f : Cmd → Cmd) (s : State) : (s.modCmd n f).links = s.links := rfl
@[simp] theorem State.modCmd_domain (n : Nat) (f : Cmd → Cmd) (s : State) : (s.modCmd n f).domain = s.domain := rfl
@[simp] theorem State.modCmd_events (n : Nat) (f : Cmd → Cmd) (s : State) : (s.modCmd n f).events = s.events := rfl
@[simp] theorem State.modCmd_root (n : Nat) (f : Cmd → Cmd) (s : State) : (s.modCmd n f).root = s.root := rfl

@[simp] theorem State.modCore_agenda (c : CoreId) (f : Core → Core) (s : State) : (s.modCore c f).agenda = s.agenda := rfl
@[simp] theorem State.modCore_issue (c : CoreId) (f : Core → Core) (s : State) : (s.modCore c f).issue = s.issue := rfl
@[simp] theorem State.modCore_clock (c : CoreId) (f : Core → Core) (s : State) : (s.modCore c f).clock = s.clock := rfl
@[simp] theorem State.modCore_threads (c : CoreId) (f : Core → Core) (s : State) : (s.modCore c f).threads = s.threads := rfl
@[simp] theorem State.modCore_groups (c : CoreId) (f : Core → Core) (s : State) : (s.modCore c f).groups = s.groups := rfl
@[simp] theorem State.modCore_teams (c : CoreId) (f : Core → Core) (s : State) : (s.modCore c f).teams = s.teams := rfl
@[simp] theorem State.modCore_grids (c : CoreId) (f : Core → Core) (s : State) : (s.modCore c f).grids = s.grids := rfl
@[simp] theorem State.modCore_ops (c : CoreId) (f : Core → Core) (s : State) : (s.modCore c f).ops = s.ops := rfl
@[simp] theorem State.modCore_cmds (c : CoreId) (f : Core → Core) (s : State) : (s.modCore c f).cmds = s.cmds := rfl
@[simp] theorem State.modCore_quads (c : CoreId) (f : Core → Core) (s : State) : (s.modCore c f).quads = s.quads := rfl
@[simp] theorem State.modCore_dies (c : CoreId) (f : Core → Core) (s : State) : (s.modCore c f).dies = s.dies := rfl
@[simp] theorem State.modCore_mem (c : CoreId) (f : Core → Core) (s : State) : (s.modCore c f).mem = s.mem := rfl
@[simp] theorem State.modCore_poison (c : CoreId) (f : Core → Core) (s : State) : (s.modCore c f).poison = s.poison := rfl
@[simp] theorem State.modCore_chains (c : CoreId) (f : Core → Core) (s : State) : (s.modCore c f).chains = s.chains := rfl
@[simp] theorem State.modCore_parts (c : CoreId) (f : Core → Core) (s : State) : (s.modCore c f).parts = s.parts := rfl
@[simp] theorem State.modCore_vfs (c : CoreId) (f : Core → Core) (s : State) : (s.modCore c f).vfs = s.vfs := rfl
@[simp] theorem State.modCore_ports (c : CoreId) (f : Core → Core) (s : State) : (s.modCore c f).ports = s.ports := rfl
@[simp] theorem State.modCore_links (c : CoreId) (f : Core → Core) (s : State) : (s.modCore c f).links = s.links := rfl
@[simp] theorem State.modCore_domain (c : CoreId) (f : Core → Core) (s : State) : (s.modCore c f).domain = s.domain := rfl
@[simp] theorem State.modCore_events (c : CoreId) (f : Core → Core) (s : State) : (s.modCore c f).events = s.events := rfl
@[simp] theorem State.modCore_root (c : CoreId) (f : Core → Core) (s : State) : (s.modCore c f).root = s.root := rfl

@[simp] theorem State.modQuad_agenda (q : QuadId) (f : Quad → Quad) (s : State) : (s.modQuad q f).agenda = s.agenda := rfl
@[simp] theorem State.modQuad_issue (q : QuadId) (f : Quad → Quad) (s : State) : (s.modQuad q f).issue = s.issue := rfl
@[simp] theorem State.modQuad_clock (q : QuadId) (f : Quad → Quad) (s : State) : (s.modQuad q f).clock = s.clock := rfl
@[simp] theorem State.modQuad_threads (q : QuadId) (f : Quad → Quad) (s : State) : (s.modQuad q f).threads = s.threads := rfl
@[simp] theorem State.modQuad_groups (q : QuadId) (f : Quad → Quad) (s : State) : (s.modQuad q f).groups = s.groups := rfl
@[simp] theorem State.modQuad_teams (q : QuadId) (f : Quad → Quad) (s : State) : (s.modQuad q f).teams = s.teams := rfl
@[simp] theorem State.modQuad_grids (q : QuadId) (f : Quad → Quad) (s : State) : (s.modQuad q f).grids = s.grids := rfl
@[simp] theorem State.modQuad_ops (q : QuadId) (f : Quad → Quad) (s : State) : (s.modQuad q f).ops = s.ops := rfl
@[simp] theorem State.modQuad_cmds (q : QuadId) (f : Quad → Quad) (s : State) : (s.modQuad q f).cmds = s.cmds := rfl
@[simp] theorem State.modQuad_cores (q : QuadId) (f : Quad → Quad) (s : State) : (s.modQuad q f).cores = s.cores := rfl
@[simp] theorem State.modQuad_dies (q : QuadId) (f : Quad → Quad) (s : State) : (s.modQuad q f).dies = s.dies := rfl
@[simp] theorem State.modQuad_mem (q : QuadId) (f : Quad → Quad) (s : State) : (s.modQuad q f).mem = s.mem := rfl
@[simp] theorem State.modQuad_poison (q : QuadId) (f : Quad → Quad) (s : State) : (s.modQuad q f).poison = s.poison := rfl
@[simp] theorem State.modQuad_chains (q : QuadId) (f : Quad → Quad) (s : State) : (s.modQuad q f).chains = s.chains := rfl
@[simp] theorem State.modQuad_parts (q : QuadId) (f : Quad → Quad) (s : State) : (s.modQuad q f).parts = s.parts := rfl
@[simp] theorem State.modQuad_vfs (q : QuadId) (f : Quad → Quad) (s : State) : (s.modQuad q f).vfs = s.vfs := rfl
@[simp] theorem State.modQuad_ports (q : QuadId) (f : Quad → Quad) (s : State) : (s.modQuad q f).ports = s.ports := rfl
@[simp] theorem State.modQuad_links (q : QuadId) (f : Quad → Quad) (s : State) : (s.modQuad q f).links = s.links := rfl
@[simp] theorem State.modQuad_domain (q : QuadId) (f : Quad → Quad) (s : State) : (s.modQuad q f).domain = s.domain := rfl
@[simp] theorem State.modQuad_events (q : QuadId) (f : Quad → Quad) (s : State) : (s.modQuad q f).events = s.events := rfl
@[simp] theorem State.modQuad_root (q : QuadId) (f : Quad → Quad) (s : State) : (s.modQuad q f).root = s.root := rfl

@[simp] theorem State.modDie_agenda (d : Nat) (f : Die → Die) (s : State) : (s.modDie d f).agenda = s.agenda := rfl
@[simp] theorem State.modDie_issue (d : Nat) (f : Die → Die) (s : State) : (s.modDie d f).issue = s.issue := rfl
@[simp] theorem State.modDie_clock (d : Nat) (f : Die → Die) (s : State) : (s.modDie d f).clock = s.clock := rfl
@[simp] theorem State.modDie_threads (d : Nat) (f : Die → Die) (s : State) : (s.modDie d f).threads = s.threads := rfl
@[simp] theorem State.modDie_groups (d : Nat) (f : Die → Die) (s : State) : (s.modDie d f).groups = s.groups := rfl
@[simp] theorem State.modDie_teams (d : Nat) (f : Die → Die) (s : State) : (s.modDie d f).teams = s.teams := rfl
@[simp] theorem State.modDie_grids (d : Nat) (f : Die → Die) (s : State) : (s.modDie d f).grids = s.grids := rfl
@[simp] theorem State.modDie_ops (d : Nat) (f : Die → Die) (s : State) : (s.modDie d f).ops = s.ops := rfl
@[simp] theorem State.modDie_cmds (d : Nat) (f : Die → Die) (s : State) : (s.modDie d f).cmds = s.cmds := rfl
@[simp] theorem State.modDie_cores (d : Nat) (f : Die → Die) (s : State) : (s.modDie d f).cores = s.cores := rfl
@[simp] theorem State.modDie_quads (d : Nat) (f : Die → Die) (s : State) : (s.modDie d f).quads = s.quads := rfl
@[simp] theorem State.modDie_mem (d : Nat) (f : Die → Die) (s : State) : (s.modDie d f).mem = s.mem := rfl
@[simp] theorem State.modDie_poison (d : Nat) (f : Die → Die) (s : State) : (s.modDie d f).poison = s.poison := rfl
@[simp] theorem State.modDie_chains (d : Nat) (f : Die → Die) (s : State) : (s.modDie d f).chains = s.chains := rfl
@[simp] theorem State.modDie_parts (d : Nat) (f : Die → Die) (s : State) : (s.modDie d f).parts = s.parts := rfl
@[simp] theorem State.modDie_vfs (d : Nat) (f : Die → Die) (s : State) : (s.modDie d f).vfs = s.vfs := rfl
@[simp] theorem State.modDie_ports (d : Nat) (f : Die → Die) (s : State) : (s.modDie d f).ports = s.ports := rfl
@[simp] theorem State.modDie_links (d : Nat) (f : Die → Die) (s : State) : (s.modDie d f).links = s.links := rfl
@[simp] theorem State.modDie_domain (d : Nat) (f : Die → Die) (s : State) : (s.modDie d f).domain = s.domain := rfl
@[simp] theorem State.modDie_events (d : Nat) (f : Die → Die) (s : State) : (s.modDie d f).events = s.events := rfl
@[simp] theorem State.modDie_root (d : Nat) (f : Die → Die) (s : State) : (s.modDie d f).root = s.root := rfl

@[simp] theorem State.modPart_agenda (p : Nat) (f : Part → Part) (s : State) : (s.modPart p f).agenda = s.agenda := rfl
@[simp] theorem State.modPart_issue (p : Nat) (f : Part → Part) (s : State) : (s.modPart p f).issue = s.issue := rfl
@[simp] theorem State.modPart_clock (p : Nat) (f : Part → Part) (s : State) : (s.modPart p f).clock = s.clock := rfl
@[simp] theorem State.modPart_threads (p : Nat) (f : Part → Part) (s : State) : (s.modPart p f).threads = s.threads := rfl
@[simp] theorem State.modPart_groups (p : Nat) (f : Part → Part) (s : State) : (s.modPart p f).groups = s.groups := rfl
@[simp] theorem State.modPart_teams (p : Nat) (f : Part → Part) (s : State) : (s.modPart p f).teams = s.teams := rfl
@[simp] theorem State.modPart_grids (p : Nat) (f : Part → Part) (s : State) : (s.modPart p f).grids = s.grids := rfl
@[simp] theorem State.modPart_ops (p : Nat) (f : Part → Part) (s : State) : (s.modPart p f).ops = s.ops := rfl
@[simp] theorem State.modPart_cmds (p : Nat) (f : Part → Part) (s : State) : (s.modPart p f).cmds = s.cmds := rfl
@[simp] theorem State.modPart_cores (p : Nat) (f : Part → Part) (s : State) : (s.modPart p f).cores = s.cores := rfl
@[simp] theorem State.modPart_quads (p : Nat) (f : Part → Part) (s : State) : (s.modPart p f).quads = s.quads := rfl
@[simp] theorem State.modPart_dies (p : Nat) (f : Part → Part) (s : State) : (s.modPart p f).dies = s.dies := rfl
@[simp] theorem State.modPart_mem (p : Nat) (f : Part → Part) (s : State) : (s.modPart p f).mem = s.mem := rfl
@[simp] theorem State.modPart_poison (p : Nat) (f : Part → Part) (s : State) : (s.modPart p f).poison = s.poison := rfl
@[simp] theorem State.modPart_chains (p : Nat) (f : Part → Part) (s : State) : (s.modPart p f).chains = s.chains := rfl
@[simp] theorem State.modPart_vfs (p : Nat) (f : Part → Part) (s : State) : (s.modPart p f).vfs = s.vfs := rfl
@[simp] theorem State.modPart_ports (p : Nat) (f : Part → Part) (s : State) : (s.modPart p f).ports = s.ports := rfl
@[simp] theorem State.modPart_links (p : Nat) (f : Part → Part) (s : State) : (s.modPart p f).links = s.links := rfl
@[simp] theorem State.modPart_domain (p : Nat) (f : Part → Part) (s : State) : (s.modPart p f).domain = s.domain := rfl
@[simp] theorem State.modPart_events (p : Nat) (f : Part → Part) (s : State) : (s.modPart p f).events = s.events := rfl
@[simp] theorem State.modPart_root (p : Nat) (f : Part → Part) (s : State) : (s.modPart p f).root = s.root := rfl

@[simp] theorem State.modVf_agenda (v : Nat) (f : Vf → Vf) (s : State) : (s.modVf v f).agenda = s.agenda := rfl
@[simp] theorem State.modVf_issue (v : Nat) (f : Vf → Vf) (s : State) : (s.modVf v f).issue = s.issue := rfl
@[simp] theorem State.modVf_clock (v : Nat) (f : Vf → Vf) (s : State) : (s.modVf v f).clock = s.clock := rfl
@[simp] theorem State.modVf_threads (v : Nat) (f : Vf → Vf) (s : State) : (s.modVf v f).threads = s.threads := rfl
@[simp] theorem State.modVf_groups (v : Nat) (f : Vf → Vf) (s : State) : (s.modVf v f).groups = s.groups := rfl
@[simp] theorem State.modVf_teams (v : Nat) (f : Vf → Vf) (s : State) : (s.modVf v f).teams = s.teams := rfl
@[simp] theorem State.modVf_grids (v : Nat) (f : Vf → Vf) (s : State) : (s.modVf v f).grids = s.grids := rfl
@[simp] theorem State.modVf_ops (v : Nat) (f : Vf → Vf) (s : State) : (s.modVf v f).ops = s.ops := rfl
@[simp] theorem State.modVf_cmds (v : Nat) (f : Vf → Vf) (s : State) : (s.modVf v f).cmds = s.cmds := rfl
@[simp] theorem State.modVf_cores (v : Nat) (f : Vf → Vf) (s : State) : (s.modVf v f).cores = s.cores := rfl
@[simp] theorem State.modVf_quads (v : Nat) (f : Vf → Vf) (s : State) : (s.modVf v f).quads = s.quads := rfl
@[simp] theorem State.modVf_dies (v : Nat) (f : Vf → Vf) (s : State) : (s.modVf v f).dies = s.dies := rfl
@[simp] theorem State.modVf_mem (v : Nat) (f : Vf → Vf) (s : State) : (s.modVf v f).mem = s.mem := rfl
@[simp] theorem State.modVf_poison (v : Nat) (f : Vf → Vf) (s : State) : (s.modVf v f).poison = s.poison := rfl
@[simp] theorem State.modVf_chains (v : Nat) (f : Vf → Vf) (s : State) : (s.modVf v f).chains = s.chains := rfl
@[simp] theorem State.modVf_parts (v : Nat) (f : Vf → Vf) (s : State) : (s.modVf v f).parts = s.parts := rfl
@[simp] theorem State.modVf_ports (v : Nat) (f : Vf → Vf) (s : State) : (s.modVf v f).ports = s.ports := rfl
@[simp] theorem State.modVf_links (v : Nat) (f : Vf → Vf) (s : State) : (s.modVf v f).links = s.links := rfl
@[simp] theorem State.modVf_domain (v : Nat) (f : Vf → Vf) (s : State) : (s.modVf v f).domain = s.domain := rfl
@[simp] theorem State.modVf_events (v : Nat) (f : Vf → Vf) (s : State) : (s.modVf v f).events = s.events := rfl
@[simp] theorem State.modVf_root (v : Nat) (f : Vf → Vf) (s : State) : (s.modVf v f).root = s.root := rfl

@[simp] theorem State.modChain_agenda (c : Nat) (f : Chain → Chain) (s : State) : (s.modChain c f).agenda = s.agenda := rfl
@[simp] theorem State.modChain_issue (c : Nat) (f : Chain → Chain) (s : State) : (s.modChain c f).issue = s.issue := rfl
@[simp] theorem State.modChain_clock (c : Nat) (f : Chain → Chain) (s : State) : (s.modChain c f).clock = s.clock := rfl
@[simp] theorem State.modChain_threads (c : Nat) (f : Chain → Chain) (s : State) : (s.modChain c f).threads = s.threads := rfl
@[simp] theorem State.modChain_groups (c : Nat) (f : Chain → Chain) (s : State) : (s.modChain c f).groups = s.groups := rfl
@[simp] theorem State.modChain_teams (c : Nat) (f : Chain → Chain) (s : State) : (s.modChain c f).teams = s.teams := rfl
@[simp] theorem State.modChain_grids (c : Nat) (f : Chain → Chain) (s : State) : (s.modChain c f).grids = s.grids := rfl
@[simp] theorem State.modChain_ops (c : Nat) (f : Chain → Chain) (s : State) : (s.modChain c f).ops = s.ops := rfl
@[simp] theorem State.modChain_cmds (c : Nat) (f : Chain → Chain) (s : State) : (s.modChain c f).cmds = s.cmds := rfl
@[simp] theorem State.modChain_cores (c : Nat) (f : Chain → Chain) (s : State) : (s.modChain c f).cores = s.cores := rfl
@[simp] theorem State.modChain_quads (c : Nat) (f : Chain → Chain) (s : State) : (s.modChain c f).quads = s.quads := rfl
@[simp] theorem State.modChain_dies (c : Nat) (f : Chain → Chain) (s : State) : (s.modChain c f).dies = s.dies := rfl
@[simp] theorem State.modChain_mem (c : Nat) (f : Chain → Chain) (s : State) : (s.modChain c f).mem = s.mem := rfl
@[simp] theorem State.modChain_poison (c : Nat) (f : Chain → Chain) (s : State) : (s.modChain c f).poison = s.poison := rfl
@[simp] theorem State.modChain_parts (c : Nat) (f : Chain → Chain) (s : State) : (s.modChain c f).parts = s.parts := rfl
@[simp] theorem State.modChain_vfs (c : Nat) (f : Chain → Chain) (s : State) : (s.modChain c f).vfs = s.vfs := rfl
@[simp] theorem State.modChain_ports (c : Nat) (f : Chain → Chain) (s : State) : (s.modChain c f).ports = s.ports := rfl
@[simp] theorem State.modChain_links (c : Nat) (f : Chain → Chain) (s : State) : (s.modChain c f).links = s.links := rfl
@[simp] theorem State.modChain_domain (c : Nat) (f : Chain → Chain) (s : State) : (s.modChain c f).domain = s.domain := rfl
@[simp] theorem State.modChain_events (c : Nat) (f : Chain → Chain) (s : State) : (s.modChain c f).events = s.events := rfl
@[simp] theorem State.modChain_root (c : Nat) (f : Chain → Chain) (s : State) : (s.modChain c f).root = s.root := rfl

@[simp] theorem State.modPort_agenda (p : Nat) (f : Port → Port) (s : State) : (s.modPort p f).agenda = s.agenda := rfl
@[simp] theorem State.modPort_issue (p : Nat) (f : Port → Port) (s : State) : (s.modPort p f).issue = s.issue := rfl
@[simp] theorem State.modPort_clock (p : Nat) (f : Port → Port) (s : State) : (s.modPort p f).clock = s.clock := rfl
@[simp] theorem State.modPort_threads (p : Nat) (f : Port → Port) (s : State) : (s.modPort p f).threads = s.threads := rfl
@[simp] theorem State.modPort_groups (p : Nat) (f : Port → Port) (s : State) : (s.modPort p f).groups = s.groups := rfl
@[simp] theorem State.modPort_teams (p : Nat) (f : Port → Port) (s : State) : (s.modPort p f).teams = s.teams := rfl
@[simp] theorem State.modPort_grids (p : Nat) (f : Port → Port) (s : State) : (s.modPort p f).grids = s.grids := rfl
@[simp] theorem State.modPort_ops (p : Nat) (f : Port → Port) (s : State) : (s.modPort p f).ops = s.ops := rfl
@[simp] theorem State.modPort_cmds (p : Nat) (f : Port → Port) (s : State) : (s.modPort p f).cmds = s.cmds := rfl
@[simp] theorem State.modPort_cores (p : Nat) (f : Port → Port) (s : State) : (s.modPort p f).cores = s.cores := rfl
@[simp] theorem State.modPort_quads (p : Nat) (f : Port → Port) (s : State) : (s.modPort p f).quads = s.quads := rfl
@[simp] theorem State.modPort_dies (p : Nat) (f : Port → Port) (s : State) : (s.modPort p f).dies = s.dies := rfl
@[simp] theorem State.modPort_mem (p : Nat) (f : Port → Port) (s : State) : (s.modPort p f).mem = s.mem := rfl
@[simp] theorem State.modPort_poison (p : Nat) (f : Port → Port) (s : State) : (s.modPort p f).poison = s.poison := rfl
@[simp] theorem State.modPort_chains (p : Nat) (f : Port → Port) (s : State) : (s.modPort p f).chains = s.chains := rfl
@[simp] theorem State.modPort_parts (p : Nat) (f : Port → Port) (s : State) : (s.modPort p f).parts = s.parts := rfl
@[simp] theorem State.modPort_vfs (p : Nat) (f : Port → Port) (s : State) : (s.modPort p f).vfs = s.vfs := rfl
@[simp] theorem State.modPort_links (p : Nat) (f : Port → Port) (s : State) : (s.modPort p f).links = s.links := rfl
@[simp] theorem State.modPort_domain (p : Nat) (f : Port → Port) (s : State) : (s.modPort p f).domain = s.domain := rfl
@[simp] theorem State.modPort_events (p : Nat) (f : Port → Port) (s : State) : (s.modPort p f).events = s.events := rfl
@[simp] theorem State.modPort_root (p : Nat) (f : Port → Port) (s : State) : (s.modPort p f).root = s.root := rfl

@[simp] theorem State.modLink_agenda (l : Nat) (f : Link → Link) (s : State) : (s.modLink l f).agenda = s.agenda := rfl
@[simp] theorem State.modLink_issue (l : Nat) (f : Link → Link) (s : State) : (s.modLink l f).issue = s.issue := rfl
@[simp] theorem State.modLink_clock (l : Nat) (f : Link → Link) (s : State) : (s.modLink l f).clock = s.clock := rfl
@[simp] theorem State.modLink_threads (l : Nat) (f : Link → Link) (s : State) : (s.modLink l f).threads = s.threads := rfl
@[simp] theorem State.modLink_groups (l : Nat) (f : Link → Link) (s : State) : (s.modLink l f).groups = s.groups := rfl
@[simp] theorem State.modLink_teams (l : Nat) (f : Link → Link) (s : State) : (s.modLink l f).teams = s.teams := rfl
@[simp] theorem State.modLink_grids (l : Nat) (f : Link → Link) (s : State) : (s.modLink l f).grids = s.grids := rfl
@[simp] theorem State.modLink_ops (l : Nat) (f : Link → Link) (s : State) : (s.modLink l f).ops = s.ops := rfl
@[simp] theorem State.modLink_cmds (l : Nat) (f : Link → Link) (s : State) : (s.modLink l f).cmds = s.cmds := rfl
@[simp] theorem State.modLink_cores (l : Nat) (f : Link → Link) (s : State) : (s.modLink l f).cores = s.cores := rfl
@[simp] theorem State.modLink_quads (l : Nat) (f : Link → Link) (s : State) : (s.modLink l f).quads = s.quads := rfl
@[simp] theorem State.modLink_dies (l : Nat) (f : Link → Link) (s : State) : (s.modLink l f).dies = s.dies := rfl
@[simp] theorem State.modLink_mem (l : Nat) (f : Link → Link) (s : State) : (s.modLink l f).mem = s.mem := rfl
@[simp] theorem State.modLink_poison (l : Nat) (f : Link → Link) (s : State) : (s.modLink l f).poison = s.poison := rfl
@[simp] theorem State.modLink_chains (l : Nat) (f : Link → Link) (s : State) : (s.modLink l f).chains = s.chains := rfl
@[simp] theorem State.modLink_parts (l : Nat) (f : Link → Link) (s : State) : (s.modLink l f).parts = s.parts := rfl
@[simp] theorem State.modLink_vfs (l : Nat) (f : Link → Link) (s : State) : (s.modLink l f).vfs = s.vfs := rfl
@[simp] theorem State.modLink_ports (l : Nat) (f : Link → Link) (s : State) : (s.modLink l f).ports = s.ports := rfl
@[simp] theorem State.modLink_domain (l : Nat) (f : Link → Link) (s : State) : (s.modLink l f).domain = s.domain := rfl
@[simp] theorem State.modLink_events (l : Nat) (f : Link → Link) (s : State) : (s.modLink l f).events = s.events := rfl
@[simp] theorem State.modLink_root (l : Nat) (f : Link → Link) (s : State) : (s.modLink l f).root = s.root := rfl

@[simp] theorem State.modRoot_agenda (f : Root → Root) (s : State) : (s.modRoot f).agenda = s.agenda := rfl
@[simp] theorem State.modRoot_issue (f : Root → Root) (s : State) : (s.modRoot f).issue = s.issue := rfl
@[simp] theorem State.modRoot_clock (f : Root → Root) (s : State) : (s.modRoot f).clock = s.clock := rfl
@[simp] theorem State.modRoot_threads (f : Root → Root) (s : State) : (s.modRoot f).threads = s.threads := rfl
@[simp] theorem State.modRoot_groups (f : Root → Root) (s : State) : (s.modRoot f).groups = s.groups := rfl
@[simp] theorem State.modRoot_teams (f : Root → Root) (s : State) : (s.modRoot f).teams = s.teams := rfl
@[simp] theorem State.modRoot_grids (f : Root → Root) (s : State) : (s.modRoot f).grids = s.grids := rfl
@[simp] theorem State.modRoot_ops (f : Root → Root) (s : State) : (s.modRoot f).ops = s.ops := rfl
@[simp] theorem State.modRoot_cmds (f : Root → Root) (s : State) : (s.modRoot f).cmds = s.cmds := rfl
@[simp] theorem State.modRoot_cores (f : Root → Root) (s : State) : (s.modRoot f).cores = s.cores := rfl
@[simp] theorem State.modRoot_quads (f : Root → Root) (s : State) : (s.modRoot f).quads = s.quads := rfl
@[simp] theorem State.modRoot_dies (f : Root → Root) (s : State) : (s.modRoot f).dies = s.dies := rfl
@[simp] theorem State.modRoot_mem (f : Root → Root) (s : State) : (s.modRoot f).mem = s.mem := rfl
@[simp] theorem State.modRoot_poison (f : Root → Root) (s : State) : (s.modRoot f).poison = s.poison := rfl
@[simp] theorem State.modRoot_chains (f : Root → Root) (s : State) : (s.modRoot f).chains = s.chains := rfl
@[simp] theorem State.modRoot_parts (f : Root → Root) (s : State) : (s.modRoot f).parts = s.parts := rfl
@[simp] theorem State.modRoot_vfs (f : Root → Root) (s : State) : (s.modRoot f).vfs = s.vfs := rfl
@[simp] theorem State.modRoot_ports (f : Root → Root) (s : State) : (s.modRoot f).ports = s.ports := rfl
@[simp] theorem State.modRoot_links (f : Root → Root) (s : State) : (s.modRoot f).links = s.links := rfl
@[simp] theorem State.modRoot_domain (f : Root → Root) (s : State) : (s.modRoot f).domain = s.domain := rfl
@[simp] theorem State.modRoot_events (f : Root → Root) (s : State) : (s.modRoot f).events = s.events := rfl

@[simp] theorem State.dropOp_agenda (n : Nat) (s : State) : (s.dropOp n).agenda = s.agenda := rfl
@[simp] theorem State.dropOp_issue (n : Nat) (s : State) : (s.dropOp n).issue = s.issue := rfl
@[simp] theorem State.dropOp_clock (n : Nat) (s : State) : (s.dropOp n).clock = s.clock := rfl
@[simp] theorem State.dropOp_threads (n : Nat) (s : State) : (s.dropOp n).threads = s.threads := rfl
@[simp] theorem State.dropOp_groups (n : Nat) (s : State) : (s.dropOp n).groups = s.groups := rfl
@[simp] theorem State.dropOp_teams (n : Nat) (s : State) : (s.dropOp n).teams = s.teams := rfl
@[simp] theorem State.dropOp_grids (n : Nat) (s : State) : (s.dropOp n).grids = s.grids := rfl
@[simp] theorem State.dropOp_cmds (n : Nat) (s : State) : (s.dropOp n).cmds = s.cmds := rfl
@[simp] theorem State.dropOp_cores (n : Nat) (s : State) : (s.dropOp n).cores = s.cores := rfl
@[simp] theorem State.dropOp_quads (n : Nat) (s : State) : (s.dropOp n).quads = s.quads := rfl
@[simp] theorem State.dropOp_dies (n : Nat) (s : State) : (s.dropOp n).dies = s.dies := rfl
@[simp] theorem State.dropOp_mem (n : Nat) (s : State) : (s.dropOp n).mem = s.mem := rfl
@[simp] theorem State.dropOp_poison (n : Nat) (s : State) : (s.dropOp n).poison = s.poison := rfl
@[simp] theorem State.dropOp_chains (n : Nat) (s : State) : (s.dropOp n).chains = s.chains := rfl
@[simp] theorem State.dropOp_parts (n : Nat) (s : State) : (s.dropOp n).parts = s.parts := rfl
@[simp] theorem State.dropOp_vfs (n : Nat) (s : State) : (s.dropOp n).vfs = s.vfs := rfl
@[simp] theorem State.dropOp_ports (n : Nat) (s : State) : (s.dropOp n).ports = s.ports := rfl
@[simp] theorem State.dropOp_links (n : Nat) (s : State) : (s.dropOp n).links = s.links := rfl
@[simp] theorem State.dropOp_domain (n : Nat) (s : State) : (s.dropOp n).domain = s.domain := rfl
@[simp] theorem State.dropOp_events (n : Nat) (s : State) : (s.dropOp n).events = s.events := rfl
@[simp] theorem State.dropOp_root (n : Nat) (s : State) : (s.dropOp n).root = s.root := rfl

@[simp] theorem State.dropCmd_agenda (n : Nat) (s : State) : (s.dropCmd n).agenda = s.agenda := rfl
@[simp] theorem State.dropCmd_issue (n : Nat) (s : State) : (s.dropCmd n).issue = s.issue := rfl
@[simp] theorem State.dropCmd_clock (n : Nat) (s : State) : (s.dropCmd n).clock = s.clock := rfl
@[simp] theorem State.dropCmd_threads (n : Nat) (s : State) : (s.dropCmd n).threads = s.threads := rfl
@[simp] theorem State.dropCmd_groups (n : Nat) (s : State) : (s.dropCmd n).groups = s.groups := rfl
@[simp] theorem State.dropCmd_teams (n : Nat) (s : State) : (s.dropCmd n).teams = s.teams := rfl
@[simp] theorem State.dropCmd_grids (n : Nat) (s : State) : (s.dropCmd n).grids = s.grids := rfl
@[simp] theorem State.dropCmd_ops (n : Nat) (s : State) : (s.dropCmd n).ops = s.ops := rfl
@[simp] theorem State.dropCmd_cores (n : Nat) (s : State) : (s.dropCmd n).cores = s.cores := rfl
@[simp] theorem State.dropCmd_quads (n : Nat) (s : State) : (s.dropCmd n).quads = s.quads := rfl
@[simp] theorem State.dropCmd_dies (n : Nat) (s : State) : (s.dropCmd n).dies = s.dies := rfl
@[simp] theorem State.dropCmd_mem (n : Nat) (s : State) : (s.dropCmd n).mem = s.mem := rfl
@[simp] theorem State.dropCmd_poison (n : Nat) (s : State) : (s.dropCmd n).poison = s.poison := rfl
@[simp] theorem State.dropCmd_chains (n : Nat) (s : State) : (s.dropCmd n).chains = s.chains := rfl
@[simp] theorem State.dropCmd_parts (n : Nat) (s : State) : (s.dropCmd n).parts = s.parts := rfl
@[simp] theorem State.dropCmd_vfs (n : Nat) (s : State) : (s.dropCmd n).vfs = s.vfs := rfl
@[simp] theorem State.dropCmd_ports (n : Nat) (s : State) : (s.dropCmd n).ports = s.ports := rfl
@[simp] theorem State.dropCmd_links (n : Nat) (s : State) : (s.dropCmd n).links = s.links := rfl
@[simp] theorem State.dropCmd_domain (n : Nat) (s : State) : (s.dropCmd n).domain = s.domain := rfl
@[simp] theorem State.dropCmd_events (n : Nat) (s : State) : (s.dropCmd n).events = s.events := rfl
@[simp] theorem State.dropCmd_root (n : Nat) (s : State) : (s.dropCmd n).root = s.root := rfl

@[simp] theorem State.count_agenda (n k : Nat) (s : State) : (s.count n k).agenda = s.agenda := rfl
@[simp] theorem State.count_issue (n k : Nat) (s : State) : (s.count n k).issue = s.issue := rfl
@[simp] theorem State.count_clock (n k : Nat) (s : State) : (s.count n k).clock = s.clock := rfl
@[simp] theorem State.count_threads (n k : Nat) (s : State) : (s.count n k).threads = s.threads := rfl
@[simp] theorem State.count_groups (n k : Nat) (s : State) : (s.count n k).groups = s.groups := rfl
@[simp] theorem State.count_teams (n k : Nat) (s : State) : (s.count n k).teams = s.teams := rfl
@[simp] theorem State.count_grids (n k : Nat) (s : State) : (s.count n k).grids = s.grids := rfl
@[simp] theorem State.count_ops (n k : Nat) (s : State) : (s.count n k).ops = s.ops := rfl
@[simp] theorem State.count_cmds (n k : Nat) (s : State) : (s.count n k).cmds = s.cmds := rfl
@[simp] theorem State.count_cores (n k : Nat) (s : State) : (s.count n k).cores = s.cores := rfl
@[simp] theorem State.count_quads (n k : Nat) (s : State) : (s.count n k).quads = s.quads := rfl
@[simp] theorem State.count_dies (n k : Nat) (s : State) : (s.count n k).dies = s.dies := rfl
@[simp] theorem State.count_mem (n k : Nat) (s : State) : (s.count n k).mem = s.mem := rfl
@[simp] theorem State.count_poison (n k : Nat) (s : State) : (s.count n k).poison = s.poison := rfl
@[simp] theorem State.count_chains (n k : Nat) (s : State) : (s.count n k).chains = s.chains := rfl
@[simp] theorem State.count_parts (n k : Nat) (s : State) : (s.count n k).parts = s.parts := rfl
@[simp] theorem State.count_vfs (n k : Nat) (s : State) : (s.count n k).vfs = s.vfs := rfl
@[simp] theorem State.count_ports (n k : Nat) (s : State) : (s.count n k).ports = s.ports := rfl
@[simp] theorem State.count_links (n k : Nat) (s : State) : (s.count n k).links = s.links := rfl
@[simp] theorem State.count_domain (n k : Nat) (s : State) : (s.count n k).domain = s.domain := rfl
@[simp] theorem State.count_root (n k : Nat) (s : State) : (s.count n k).root = s.root := rfl

@[simp] theorem State.bump_agenda (n : Nat) (s : State) : (s.bump n).agenda = s.agenda := rfl
@[simp] theorem State.bump_issue (n : Nat) (s : State) : (s.bump n).issue = s.issue := rfl
@[simp] theorem State.bump_threads (n : Nat) (s : State) : (s.bump n).threads = s.threads := rfl
@[simp] theorem State.bump_groups (n : Nat) (s : State) : (s.bump n).groups = s.groups := rfl
@[simp] theorem State.bump_teams (n : Nat) (s : State) : (s.bump n).teams = s.teams := rfl
@[simp] theorem State.bump_grids (n : Nat) (s : State) : (s.bump n).grids = s.grids := rfl
@[simp] theorem State.bump_ops (n : Nat) (s : State) : (s.bump n).ops = s.ops := rfl
@[simp] theorem State.bump_cmds (n : Nat) (s : State) : (s.bump n).cmds = s.cmds := rfl
@[simp] theorem State.bump_cores (n : Nat) (s : State) : (s.bump n).cores = s.cores := rfl
@[simp] theorem State.bump_quads (n : Nat) (s : State) : (s.bump n).quads = s.quads := rfl
@[simp] theorem State.bump_dies (n : Nat) (s : State) : (s.bump n).dies = s.dies := rfl
@[simp] theorem State.bump_mem (n : Nat) (s : State) : (s.bump n).mem = s.mem := rfl
@[simp] theorem State.bump_poison (n : Nat) (s : State) : (s.bump n).poison = s.poison := rfl
@[simp] theorem State.bump_chains (n : Nat) (s : State) : (s.bump n).chains = s.chains := rfl
@[simp] theorem State.bump_parts (n : Nat) (s : State) : (s.bump n).parts = s.parts := rfl
@[simp] theorem State.bump_vfs (n : Nat) (s : State) : (s.bump n).vfs = s.vfs := rfl
@[simp] theorem State.bump_ports (n : Nat) (s : State) : (s.bump n).ports = s.ports := rfl
@[simp] theorem State.bump_links (n : Nat) (s : State) : (s.bump n).links = s.links := rfl
@[simp] theorem State.bump_domain (n : Nat) (s : State) : (s.bump n).domain = s.domain := rfl
@[simp] theorem State.bump_events (n : Nat) (s : State) : (s.bump n).events = s.events := rfl
@[simp] theorem State.bump_root (n : Nat) (s : State) : (s.bump n).root = s.root := rfl

@[simp] theorem State.setMem_agenda (m : List Host.Cell) (s : State) : (s.setMem m).agenda = s.agenda := rfl
@[simp] theorem State.setMem_issue (m : List Host.Cell) (s : State) : (s.setMem m).issue = s.issue := rfl
@[simp] theorem State.setMem_clock (m : List Host.Cell) (s : State) : (s.setMem m).clock = s.clock := rfl
@[simp] theorem State.setMem_threads (m : List Host.Cell) (s : State) : (s.setMem m).threads = s.threads := rfl
@[simp] theorem State.setMem_groups (m : List Host.Cell) (s : State) : (s.setMem m).groups = s.groups := rfl
@[simp] theorem State.setMem_teams (m : List Host.Cell) (s : State) : (s.setMem m).teams = s.teams := rfl
@[simp] theorem State.setMem_grids (m : List Host.Cell) (s : State) : (s.setMem m).grids = s.grids := rfl
@[simp] theorem State.setMem_ops (m : List Host.Cell) (s : State) : (s.setMem m).ops = s.ops := rfl
@[simp] theorem State.setMem_cmds (m : List Host.Cell) (s : State) : (s.setMem m).cmds = s.cmds := rfl
@[simp] theorem State.setMem_cores (m : List Host.Cell) (s : State) : (s.setMem m).cores = s.cores := rfl
@[simp] theorem State.setMem_quads (m : List Host.Cell) (s : State) : (s.setMem m).quads = s.quads := rfl
@[simp] theorem State.setMem_dies (m : List Host.Cell) (s : State) : (s.setMem m).dies = s.dies := rfl
@[simp] theorem State.setMem_mem (m : List Host.Cell) (s : State) : (s.setMem m).mem = m := rfl
@[simp] theorem State.setMem_poison (m : List Host.Cell) (s : State) : (s.setMem m).poison = s.poison := rfl
@[simp] theorem State.setMem_chains (m : List Host.Cell) (s : State) : (s.setMem m).chains = s.chains := rfl
@[simp] theorem State.setMem_parts (m : List Host.Cell) (s : State) : (s.setMem m).parts = s.parts := rfl
@[simp] theorem State.setMem_vfs (m : List Host.Cell) (s : State) : (s.setMem m).vfs = s.vfs := rfl
@[simp] theorem State.setMem_ports (m : List Host.Cell) (s : State) : (s.setMem m).ports = s.ports := rfl
@[simp] theorem State.setMem_links (m : List Host.Cell) (s : State) : (s.setMem m).links = s.links := rfl
@[simp] theorem State.setMem_domain (m : List Host.Cell) (s : State) : (s.setMem m).domain = s.domain := rfl
@[simp] theorem State.setMem_events (m : List Host.Cell) (s : State) : (s.setMem m).events = s.events := rfl
@[simp] theorem State.setMem_root (m : List Host.Cell) (s : State) : (s.setMem m).root = s.root := rfl

@[simp] theorem State.setOps_agenda (m : List Op) (s : State) : (s.setOps m).agenda = s.agenda := rfl
@[simp] theorem State.setOps_issue (m : List Op) (s : State) : (s.setOps m).issue = s.issue := rfl
@[simp] theorem State.setOps_clock (m : List Op) (s : State) : (s.setOps m).clock = s.clock := rfl
@[simp] theorem State.setOps_threads (m : List Op) (s : State) : (s.setOps m).threads = s.threads := rfl
@[simp] theorem State.setOps_groups (m : List Op) (s : State) : (s.setOps m).groups = s.groups := rfl
@[simp] theorem State.setOps_teams (m : List Op) (s : State) : (s.setOps m).teams = s.teams := rfl
@[simp] theorem State.setOps_grids (m : List Op) (s : State) : (s.setOps m).grids = s.grids := rfl
@[simp] theorem State.setOps_ops (m : List Op) (s : State) : (s.setOps m).ops = m := rfl
@[simp] theorem State.setOps_cmds (m : List Op) (s : State) : (s.setOps m).cmds = s.cmds := rfl
@[simp] theorem State.setOps_cores (m : List Op) (s : State) : (s.setOps m).cores = s.cores := rfl
@[simp] theorem State.setOps_quads (m : List Op) (s : State) : (s.setOps m).quads = s.quads := rfl
@[simp] theorem State.setOps_dies (m : List Op) (s : State) : (s.setOps m).dies = s.dies := rfl
@[simp] theorem State.setOps_mem (m : List Op) (s : State) : (s.setOps m).mem = s.mem := rfl
@[simp] theorem State.setOps_poison (m : List Op) (s : State) : (s.setOps m).poison = s.poison := rfl
@[simp] theorem State.setOps_chains (m : List Op) (s : State) : (s.setOps m).chains = s.chains := rfl
@[simp] theorem State.setOps_parts (m : List Op) (s : State) : (s.setOps m).parts = s.parts := rfl
@[simp] theorem State.setOps_vfs (m : List Op) (s : State) : (s.setOps m).vfs = s.vfs := rfl
@[simp] theorem State.setOps_ports (m : List Op) (s : State) : (s.setOps m).ports = s.ports := rfl
@[simp] theorem State.setOps_links (m : List Op) (s : State) : (s.setOps m).links = s.links := rfl
@[simp] theorem State.setOps_domain (m : List Op) (s : State) : (s.setOps m).domain = s.domain := rfl
@[simp] theorem State.setOps_events (m : List Op) (s : State) : (s.setOps m).events = s.events := rfl
@[simp] theorem State.setOps_root (m : List Op) (s : State) : (s.setOps m).root = s.root := rfl

@[simp] theorem State.setCmds_agenda (m : List Cmd) (s : State) : (s.setCmds m).agenda = s.agenda := rfl
@[simp] theorem State.setCmds_issue (m : List Cmd) (s : State) : (s.setCmds m).issue = s.issue := rfl
@[simp] theorem State.setCmds_clock (m : List Cmd) (s : State) : (s.setCmds m).clock = s.clock := rfl
@[simp] theorem State.setCmds_threads (m : List Cmd) (s : State) : (s.setCmds m).threads = s.threads := rfl
@[simp] theorem State.setCmds_groups (m : List Cmd) (s : State) : (s.setCmds m).groups = s.groups := rfl
@[simp] theorem State.setCmds_teams (m : List Cmd) (s : State) : (s.setCmds m).teams = s.teams := rfl
@[simp] theorem State.setCmds_grids (m : List Cmd) (s : State) : (s.setCmds m).grids = s.grids := rfl
@[simp] theorem State.setCmds_ops (m : List Cmd) (s : State) : (s.setCmds m).ops = s.ops := rfl
@[simp] theorem State.setCmds_cmds (m : List Cmd) (s : State) : (s.setCmds m).cmds = m := rfl
@[simp] theorem State.setCmds_cores (m : List Cmd) (s : State) : (s.setCmds m).cores = s.cores := rfl
@[simp] theorem State.setCmds_quads (m : List Cmd) (s : State) : (s.setCmds m).quads = s.quads := rfl
@[simp] theorem State.setCmds_dies (m : List Cmd) (s : State) : (s.setCmds m).dies = s.dies := rfl
@[simp] theorem State.setCmds_mem (m : List Cmd) (s : State) : (s.setCmds m).mem = s.mem := rfl
@[simp] theorem State.setCmds_poison (m : List Cmd) (s : State) : (s.setCmds m).poison = s.poison := rfl
@[simp] theorem State.setCmds_chains (m : List Cmd) (s : State) : (s.setCmds m).chains = s.chains := rfl
@[simp] theorem State.setCmds_parts (m : List Cmd) (s : State) : (s.setCmds m).parts = s.parts := rfl
@[simp] theorem State.setCmds_vfs (m : List Cmd) (s : State) : (s.setCmds m).vfs = s.vfs := rfl
@[simp] theorem State.setCmds_ports (m : List Cmd) (s : State) : (s.setCmds m).ports = s.ports := rfl
@[simp] theorem State.setCmds_links (m : List Cmd) (s : State) : (s.setCmds m).links = s.links := rfl
@[simp] theorem State.setCmds_domain (m : List Cmd) (s : State) : (s.setCmds m).domain = s.domain := rfl
@[simp] theorem State.setCmds_events (m : List Cmd) (s : State) : (s.setCmds m).events = s.events := rfl
@[simp] theorem State.setCmds_root (m : List Cmd) (s : State) : (s.setCmds m).root = s.root := rfl

@[simp] theorem State.bump_fresh (n : Nat) (s : State) : (s.bump n).clock.fresh = s.clock.fresh + n := rfl
@[simp] theorem State.bump_cycle (n : Nat) (s : State) : (s.bump n).clock.cycle = s.clock.cycle := rfl
@[simp] theorem State.bump_tick (n : Nat) (s : State) : (s.bump n).clock.tick = s.clock.tick := rfl

theorem State.die_modDie (d j : Nat) (f : Die → Die) (s : State) :
    (s.modDie d f).die j = if j = d then f (s.die d) else s.die j := tget_tput _ _ _ _ _
@[simp] theorem State.die_modDie_same (d : Nat) (f : Die → Die) (s : State) : (s.modDie d f).die d = f (s.die d) := by
  rw [State.die_modDie, if_pos rfl]

theorem State.part_modPart (p j : Nat) (f : Part → Part) (s : State) :
    (s.modPart p f).part j = if j = p then f (s.part p) else s.part j := tget_tput _ _ _ _ _
@[simp] theorem State.part_modPart_same (p : Nat) (f : Part → Part) (s : State) : (s.modPart p f).part p = f (s.part p) := by
  rw [State.part_modPart, if_pos rfl]

theorem State.vf_modVf (v j : Nat) (f : Vf → Vf) (s : State) :
    (s.modVf v f).vf j = if j = v then f (s.vf v) else s.vf j := tget_tput _ _ _ _ _
@[simp] theorem State.vf_modVf_same (v : Nat) (f : Vf → Vf) (s : State) : (s.modVf v f).vf v = f (s.vf v) := by
  rw [State.vf_modVf, if_pos rfl]

theorem State.chain_modChain (c j : Nat) (f : Chain → Chain) (s : State) :
    (s.modChain c f).chain j = if j = c then f (s.chain c) else s.chain j := tget_tput _ _ _ _ _
@[simp] theorem State.chain_modChain_same (c : Nat) (f : Chain → Chain) (s : State) : (s.modChain c f).chain c = f (s.chain c) := by
  rw [State.chain_modChain, if_pos rfl]

theorem State.port_modPort (p j : Nat) (f : Port → Port) (s : State) :
    (s.modPort p f).port j = if j = p then f (s.port p) else s.port j := tget_tput _ _ _ _ _
@[simp] theorem State.port_modPort_same (p : Nat) (f : Port → Port) (s : State) : (s.modPort p f).port p = f (s.port p) := by
  rw [State.port_modPort, if_pos rfl]

theorem State.link_modLink (l j : Nat) (f : Link → Link) (s : State) :
    (s.modLink l f).link j = if j = l then f (s.link l) else s.link j := tget_tput _ _ _ _ _
@[simp] theorem State.link_modLink_same (l : Nat) (f : Link → Link) (s : State) : (s.modLink l f).link l = f (s.link l) := by
  rw [State.link_modLink, if_pos rfl]

/-- Looking up by identity in a list whose elements keep theirs. -/
theorem find_map {α β : Type} [DecidableEq β] (key : α → β) (f : α → α) (hf : ∀ x, key (f x) = key x) (k : β) (l : List α) :
    (l.map f).find? (fun x => decide (key x = k)) = (l.find? fun x => decide (key x = k)).map f := by
  induction l with
  | nil => rfl
  | cons x r ih =>
    by_cases h : key x = k
    · simp [List.find?, hf, h]
    · simp [List.find?, hf, h, ih]

theorem State.thread?_mapThreads (f : Thread → Thread) (hf : ∀ t, (f t).id = t.id) (s : State) (k : ThreadId) :
    (s.mapThreads f).thread? k = (s.thread? k).map f := find_map Thread.id f hf k s.threads

theorem State.thread?_id {s : State} {k : ThreadId} {t : Thread} (h : s.thread? k = some t) : t.id = k := by
  simpa using List.find?_some h

theorem State.group?_id {s : State} {k : GroupId} {g : Group} (h : s.group? k = some g) : g.id = k := by
  simpa using List.find?_some h

theorem State.team?_id {s : State} {k : TeamId} {t : Team} (h : s.team? k = some t) : t.id = k := by
  simpa using List.find?_some h

theorem State.op?_id {s : State} {k : Nat} {o : Op} (h : s.op? k = some o) : o.id = k := by
  simpa using List.find?_some h

theorem State.cmd?_id {s : State} {k : Nat} {c : Cmd} (h : s.cmd? k = some c) : c.id = k := by
  simpa using List.find?_some h

/-- One thread changed: it, and every other. -/
theorem State.thread?_modThread (t k : ThreadId) (f : Thread → Thread) (hf : ∀ x, (f x).id = x.id) (s : State) :
    (s.modThread t f).thread? k = if k = t then (s.thread? k).map f else s.thread? k := by
  show (s.mapThreads _).thread? k = _
  rw [State.thread?_mapThreads _ (fun x => by split <;> simp [hf])]
  cases h : s.thread? k with
  | none => simp
  | some x =>
    have hx := State.thread?_id h
    by_cases e : k = t <;> simp [hx, e]

theorem State.group?_modGroup (g k : GroupId) (f : Group → Group) (hf : ∀ x, (f x).id = x.id) (s : State) :
    (s.modGroup g f).group? k = if k = g then (s.group? k).map f else s.group? k := by
  show List.find? _ (List.map _ s.groups) = _
  rw [find_map Group.id _ (fun x => by split <;> simp [hf])]
  show Option.map _ (s.group? k) = _
  cases h : s.group? k with
  | none => simp
  | some x =>
    have hx := State.group?_id h
    by_cases e : k = g <;> simp [hx, e]

theorem State.team?_modTeam (g k : TeamId) (f : Team → Team) (hf : ∀ x, (f x).id = x.id) (s : State) :
    (s.modTeam g f).team? k = if k = g then (s.team? k).map f else s.team? k := by
  show List.find? _ (List.map _ s.teams) = _
  rw [find_map Team.id _ (fun x => by split <;> simp [hf])]
  show Option.map _ (s.team? k) = _
  cases h : s.team? k with
  | none => simp
  | some x =>
    have hx := State.team?_id h
    by_cases e : k = g <;> simp [hx, e]

theorem State.cmd?_modCmd (n k : Nat) (f : Cmd → Cmd) (hf : ∀ x, (f x).id = x.id) (s : State) :
    (s.modCmd n f).cmd? k = if k = n then (s.cmd? k).map f else s.cmd? k := by
  show List.find? _ (List.map _ s.cmds) = _
  rw [find_map Cmd.id _ (fun x => by split <;> simp [hf])]
  show Option.map _ (s.cmd? k) = _
  cases h : s.cmd? k with
  | none => simp
  | some x =>
    have hx := State.cmd?_id h
    by_cases e : k = n <;> simp [hx, e]

theorem State.op?_modOp (n k : Nat) (f : Op → Op) (hf : ∀ x, (f x).id = x.id) (s : State) :
    (s.modOp n f).op? k = if k = n then (s.op? k).map f else s.op? k := by
  show List.find? _ (List.map _ s.ops) = _
  rw [find_map Op.id _ (fun x => by split <;> simp [hf])]
  show Option.map _ (s.op? k) = _
  cases h : s.op? k with
  | none => simp
  | some x =>
    have hx := State.op?_id h
    by_cases e : k = n <;> simp [hx, e]

theorem State.op?_dropOp (n : Nat) (s : State) : (s.dropOp n).op? n = none := by
  unfold State.op? State.dropOp
  rw [List.find?_eq_none]
  intro o ho
  simpa using (List.mem_filter.mp ho).2

theorem State.cmd?_dropCmd (n : Nat) (s : State) : (s.dropCmd n).cmd? n = none := by
  unfold State.cmd? State.dropCmd
  rw [List.find?_eq_none]
  intro o ho
  simpa using (List.mem_filter.mp ho).2

end Sys2Proof.Machine
end

