-- ==== Sys2Proof/Laws/Lanes.lean ====
section
/-! SUPPORT. What the lane loops and the register writes do, once for every instruction that uses them. -/

namespace Sys2Proof.Machine
open Host

/-! ## Register writes -/

theorem written_nil (r : Nat) : written [] r = none := rfl

theorem written_snoc (ws : List (Nat × Word)) (k : Nat) (v : Word) (r : Nat) :
    written (ws ++ [(k, v)]) r = if k = r then some v else written ws r := by
  unfold written
  by_cases h : k = r <;> simp [h]

theorem Wrote.refl (u : Thread) : Wrote [] u u :=
  ⟨fun r => by by_cases h : r = 0 <;> simp [Thread.held, written_nil, h], fun r => by simp [written_nil],
   fun r => by simp [written_nil], rfl⟩

/-- One more register write. -/
theorem Wrote.setReg {ws : List (Nat × Word)} {u u' : Thread} (h : Wrote ws u u') (k : Nat) (v : Word) :
    Wrote (ws ++ [(k, v)]) u (u'.setReg k v) := by
  obtain ⟨h1, h2, h3, h4⟩ := h
  unfold Thread.setReg
  by_cases hk : k = 0
  · refine ⟨fun r => ?_, fun r => ?_, fun r => ?_, ?_⟩
    · by_cases hr : r = 0
      · simp [Thread.held, hr]
      · simp [hk, written_snoc, h1 r, hr, Ne.symm hr]
    · simp only [hk, if_pos, written_snoc, h2 r]
      by_cases hr : r = 0
      · simp [hr]
      · simp [hr, Ne.symm hr]
    · simp only [hk, if_pos, written_snoc, h3 r]
      by_cases hr : r = 0
      · simp [hr]
      · simp [hr, Ne.symm hr]
    · rw [if_pos hk]; exact h4
  · rw [if_neg hk]
    refine ⟨fun r => ?_, fun r => ?_, fun r => ?_, ?_⟩
    · by_cases hr : r = 0
      · simp [Thread.held, hr]
      · by_cases hkr : k = r
        · simp [Thread.held, hr, written_snoc, hkr]
        · have := h1 r
          simp only [Thread.held, hr, if_false] at this ⊢
          rw [written_snoc, if_neg hkr, tget_tput_other _ _ _ (Ne.symm hkr), this]
    · by_cases hkr : k = r
      · subst hkr; simp [written_snoc, hk, tget_tdel_same]
      · simp only [written_snoc, hkr, if_false, tget_tdel_other _ _ (Ne.symm hkr)]
        exact h2 r
    · by_cases hkr : k = r
      · subst hkr; simp [written_snoc, hk]
      · simp only [written_snoc, hkr, if_false, List.mem_filter, h3 r]
        simp [Ne.symm hkr]
    · rw [h4]

theorem Wrote.one (u : Thread) (k : Nat) (v : Word) : Wrote [(k, v)] u (u.setReg k v) := (Wrote.refl u).setReg k v

theorem Wrote.pair (u : Thread) (k : Nat) (v : DWord) :
    Wrote [(k, v.extractLsb' 0 32), (k + 1, v.extractLsb' 32 32)] u (u.setPair k v) :=
  (Wrote.one u k _).setReg (k + 1) _

/-- The writes of consecutive registers. -/
def consec (r : Nat) : List Word → List (Nat × Word)
  | [] => []
  | v :: vs => (r, v) :: consec (r + 1) vs

theorem Wrote.setRegs {ws : List (Nat × Word)} {u u' : Thread} (h : Wrote ws u u') (r : Nat) (vs : List Word) :
    Wrote (ws ++ consec r vs) u (u'.setRegs r vs) := by
  induction vs generalizing ws u' r with
  | nil => simpa [consec, Thread.setRegs] using h
  | cons v vs ih =>
    have := ih (h.setReg r v) (r + 1)
    simpa [consec, Thread.setRegs, List.append_assoc] using this

/-! ## Identity of threads -/

@[simp] theorem Thread.setReg_id (t : Thread) (r : Nat) (v : Word) : (t.setReg r v).id = t.id := by
  unfold Thread.setReg; split <;> rfl
@[simp] theorem Thread.setPair_id (t : Thread) (r : Nat) (v : DWord) : (t.setPair r v).id = t.id := by
  simp [Thread.setPair]
@[simp] theorem Thread.dst_id (t : Thread) (r : Nat) (v : Word) : (t.dst r v).id = t.id := Thread.setReg_id _ _ _
@[simp] theorem Thread.dstPair_id (t : Thread) (r : Nat) (v : DWord) : (t.dstPair r v).id = t.id := Thread.setPair_id _ _ _
@[simp] theorem Thread.dstN_id (t : Thread) (dbl : Bool) (r v : Nat) : (t.dstN dbl r v).id = t.id := by
  unfold Thread.dstN; split <;> simp
@[simp] theorem Thread.setPred_id (t : Thread) (q : Nat) (v : Bool) : (t.setPred q v).id = t.id := by
  unfold Thread.setPred; split <;> rfl
@[simp] theorem Thread.leave_id (t : Thread) : t.leave.id = t.id := by unfold Thread.leave; split <;> rfl
@[simp] theorem Thread.retire_id (t : Thread) : t.retire.id = t.id := t.leave_id
@[simp] theorem Thread.retireIdle_id (t : Thread) : t.retireIdle.id = t.id := t.leave_id
@[simp] theorem Thread.parkAt_id (c a0 a1 r : Nat) (t : Thread) : (t.parkAt c a0 a1 r).id = t.id := rfl

/-! ## The lane loops -/

theorem lanesOk_step (f : Thread → Thread) (s : State) (hf : ∀ t, (f t).id = t.id) (k : ThreadId) :
    (s.lanesOk f).thread? k = (s.thread? k).map fun t =>
      if k ∈ s.issue.bundle then (f { t with pc := s.nextPc }).retire else t := by
  unfold State.lanesOk
  rw [State.thread?_mapThreads]
  · cases h : s.thread? k with
    | none => rfl
    | some t => simp [State.thread?_id h]
  · intro t
    by_cases h : t.id ∈ s.issue.bundle <;> simp [h, hf]

theorem map_ids (f : Thread → Thread) (hf : ∀ t, (f t).id = t.id) (l : List Thread) :
    (l.map f).map Thread.id = l.map Thread.id := by simp [Function.comp_def, hf]

/-- An instruction whose meaning is a lane loop that no lane fails. -/
theorem Lanewise.of_lanesOk {i : Instr} {s : State} {post : Thread → Thread → Prop} (f : Thread → Thread)
    (he : exec i s = .next (s.lanesOk f)) (hf : ∀ t, (f t).id = t.id)
    (hp : ∀ t, t.id ∈ s.issue.bundle → post t ((f { t with pc := s.nextPc }).retire)) : Lanewise i s post := by
  refine ⟨_, he, ⟨rfl, ?_, fun k t ht => ?_⟩⟩
  · refine map_ids _ (fun t => ?_) _
    by_cases h : t.id ∈ s.issue.bundle <;> simp [h, hf]
  · refine ⟨_, by rw [lanesOk_step f s hf, ht]; rfl, ?_, ?_⟩
    · intro h
      have h' : k ∈ s.issue.bundle := h
      simp only [h', if_true]
      have hk := State.thread?_id ht
      exact hp t (hk ▸ h)
    · intro h
      have h' : ¬ k ∈ s.issue.bundle := h
      simp [h']

/-- An instruction whose meaning writes registers in a lane loop that no lane fails. -/
theorem WritesRegs.of_lanesOk {i : Instr} {s : State} {ws : Thread → List (Nat × Word)} (f : Thread → Thread)
    (he : exec i s = .next (s.lanesOk f)) (hf : ∀ t, (f t).id = t.id)
    (hp : ∀ t : Thread, Wrote (ws t) { t with pc := s.nextPc } (f { t with pc := s.nextPc })) : WritesRegs i s ws :=
  Lanewise.of_lanesOk f he hf fun t _ => ⟨_, hp t, rfl⟩

/-- A lane loop in which no lane fails. -/
theorem lanes_eq {s : State} (f : Thread → LaneRes) (g : Thread → Thread)
    (h : ∀ t, t ∈ s.threads → t.id ∈ s.issue.bundle → f { t with pc := s.nextPc } = .done (g { t with pc := s.nextPc })) :
    s.lanes f = s.lanesOk g := by
  have hl : s.laneFaults f = [] := by
    unfold State.laneFaults
    rw [List.filterMap_eq_nil_iff]
    intro t ht
    rw [List.mem_filter] at ht
    rw [h t ht.1 (by simpa using ht.2)]
  have hm : s.mapThreads (s.laneEffect f) = s.lanesOk g := by
    unfold State.lanesOk State.mapThreads
    congr 1
    refine List.map_congr_left fun t ht => ?_
    unfold State.laneEffect
    by_cases hb : t.id ∈ s.issue.bundle
    · simp [hb, h t ht hb]
    · simp [hb]
  unfold State.lanes State.raise
  rw [hl, hm]
  simp [recordHeads, State.mapThreads]

/-! ## Taking an exception -/

/-- What a fault of the list leaves of a thread. -/
def parkBy (fs : List LaneFault) (t : Thread) : Thread :=
  match fs.find? fun f => decide (f.th = t.id) with
  | some f => t.parkAt f.info.cause f.info.addr0 (f.at1 fs) f.resume
  | none => t

theorem parkBy_id (fs : List LaneFault) (t : Thread) : (parkBy fs t).id = t.id := by
  unfold parkBy; split <;> rfl

theorem raiseRecord_frame (fs : List LaneFault) (die : Option Nat) (f : LaneFault) (s : State) :
    s.raiseRecord fs die f = { s with dies := (s.raiseRecord fs die f).dies } := by
  unfold State.raiseRecord
  split <;> rfl

theorem raiseRecords_frame (fs : List LaneFault) (die : Option Nat) (l : List LaneFault) (s : State) :
    l.foldl (fun st f => st.raiseRecord fs die f) s =
      { s with dies := (l.foldl (fun st f => st.raiseRecord fs die f) s).dies } := by
  induction l generalizing s with
  | nil => rfl
  | cons f l ih => rw [List.foldl_cons, ih, raiseRecord_frame]

/-- Taking an exception changes threads and the records that wait in the dies, and nothing else. -/
theorem raise_frame (fs : List LaneFault) (die : Option Nat) (s : State) :
    s.raise fs die = { s with threads := s.threads.map (parkBy fs), dies := (s.raise fs die).dies } := by
  conv => lhs; unfold State.raise; rw [raiseRecords_frame]
  rfl

theorem raise_threads (fs : List LaneFault) (die : Option Nat) (s : State) :
    (s.raise fs die).threads = s.threads.map (parkBy fs) := by rw [raise_frame]

theorem raise_thread? (fs : List LaneFault) (die : Option Nat) (s : State) (k : ThreadId) :
    (s.raise fs die).thread? k = (s.thread? k).map (parkBy fs) := by
  have := State.thread?_mapThreads (parkBy fs) (parkBy_id fs) s k
  unfold State.thread? at *
  rw [raise_threads]
  exact this

@[simp] theorem raise_nil (die : Option Nat) (s : State) : s.raise [] die = s := by
  unfold State.raise
  simp [recordHeads, State.mapThreads]

/-- A record of one group joins the waiting records of the group's die. -/
theorem raiseRecord_some {fs : List LaneFault} {die : Option Nat} {f : LaneFault} {s : State} {g : Group}
    (h : s.group? f.th.gid = some g) :
    s.raiseRecord fs die f = s.waitRecord g.core.die
      (s.groupRecord g (faultMask fs g.id f.info) ((f.info.die.orElse fun _ => die).getD g.core.die)
        { f.info with addr1 := faultLow fs g.id f.info }) := by
  unfold State.raiseRecord; rw [h]

/-- Faults that the first one's record stands for make one record. -/
theorem recordHeads_same {f : LaneFault} {fs : List LaneFault} (h : ∀ x ∈ fs, f.covers x = true) :
    recordHeads [] (f :: fs) = [f] := by
  have key : ∀ (seen : List LaneFault), f ∈ seen → ∀ l : List LaneFault, (∀ x ∈ l, f.covers x = true) →
      recordHeads seen l = [] := by
    intro seen hs l hl
    induction l generalizing seen with
    | nil => rfl
    | cons x l ih =>
      unfold recordHeads
      rw [if_pos (List.any_eq_true.2 ⟨f, hs, hl x List.mem_cons_self⟩)]
      exact ih seen hs fun y hy => hl y (List.mem_cons_of_mem _ hy)
  unfold recordHeads
  rw [if_neg (by simp), key [f] (List.mem_singleton.2 rfl) fs h]

/-- A lane loop, thread by thread: the lanes that complete retire, those that are held stay, those that fault park. -/
theorem lanes_frame (f : Thread → LaneRes) (s : State) :
    s.lanes f = { s with threads := (s.threads.map (s.laneEffect f)).map (parkBy (s.laneFaults f)),
                         dies := (s.lanes f).dies } := by
  conv => lhs; unfold State.lanes; rw [raise_frame]
  rfl

end Sys2Proof.Machine
end

