-- ==== Sys2Proof/Laws/Memory.lean ====
section
/-! SUPPORT. Every operation that writes memory keeps its canonical form, and what the operations at the device point read
back. -/

namespace Sys2Proof.Machine

/-! ## The device point -/

theorem devWrite_wf {s : State} (a : Nat) (bs : List Byte) (h : Memory.wf s.mem = true) :
    Memory.wf (s.devWrite a bs).mem = true := Memory.wf_writeN a bs h

theorem devWriteN_wf {s : State} (a n v : Nat) (h : Memory.wf s.mem = true) : Memory.wf (s.devWriteN a n v).mem = true :=
  devWrite_wf a _ h

theorem setBits_wf {s : State} (a : Nat) (m : Byte) (h : Memory.wf s.mem = true) : Memory.wf (s.setBits a m).mem = true :=
  Memory.wf_write a _ h

@[simp] theorem State.touchCached_mem (n : Nat) (s : State) : (s.touchCached n).mem = s.mem := rfl
@[simp] theorem State.poisonL2_mem (d n : Nat) (s : State) : (s.poisonL2 d n).mem = s.mem := rfl

@[simp] theorem State.poisonDev_mem (n : Nat) (s : State) : (s.poisonDev n).mem = s.mem := by
  unfold State.poisonDev
  split <;> rfl

/-- A byte written at the device point changes memory there alone, and nothing where its frame has been moved. -/
theorem writeDev_mem (d a : Nat) (b : Byte) (s : State) :
    (s.writeDev d a b).mem = if s.frameMoved a then s.mem else Memory.write s.mem a b := by
  unfold State.writeDev
  by_cases h : s.frameMoved a = true <;> simp [h, State.setMem]

theorem writeDev_wf {s : State} (d a : Nat) (b : Byte) (h : Memory.wf s.mem = true) :
    Memory.wf (s.writeDev d a b).mem = true := by
  rw [writeDev_mem]
  split
  · exact h
  · exact Memory.wf_write a b h

/-! ## Publication -/

theorem pushL2_wf {s : State} (d : Nat) (want : Dirty → Bool) (h : Memory.wf s.mem = true) :
    Memory.wf (s.pushL2 d want).mem = true := by
  have k : ∀ (l : List Dirty) (st : State), Memory.wf st.mem = true → Memory.wf (l.foldl (fun st e =>
      if want e then (if s.l2Poisoned d (e.addr / 128) then (st.writeDev d e.addr e.val).poisonDev (e.addr / 128)
        else st.writeDev d e.addr e.val) else st) st).mem = true := fun l => by
    induction l with
    | nil => exact fun _ hs => hs
    | cons e r ih =>
      intro st hs
      rw [List.foldl_cons]
      apply ih
      split
      · split <;> simp [writeDev_wf, hs]
      · exact hs
  exact k _ _ h

@[simp] theorem State.writeL2_mem (d a : Nat) (b : Byte) (core : Nat) (s : State) : (s.writeL2 d a b core).mem = s.mem := rfl
@[simp] theorem State.prune_mem (c : CoreId) (s : State) : (s.prune c).mem = s.mem := rfl
@[simp] theorem State.l2Fill_mem (d n : Nat) (s : State) : (s.l2Fill d n).mem = s.mem := rfl
@[simp] theorem State.ackRemote_mem (c : CoreId) (s : State) : (s.ackRemote c).mem = s.mem := rfl
@[simp] theorem State.coreWrite_mem (c : CoreId) (b : List (Nat × Byte)) (s : State) : (s.coreWrite c b).mem = s.mem := rfl

theorem publishOne_wf {s : State} (c : CoreId) (sc : Scope) (w : CoreWrite) (h : Memory.wf s.mem = true) :
    Memory.wf (s.publishOne c sc w).mem = true := by
  unfold State.publishOne
  cases sc <;> simp only <;> (try split) <;> simp [writeDev_wf, h]

theorem publishWrites_wf (c : CoreId) (sc : Scope) (want : CoreWrite → Bool) (l : List CoreWrite) {s : State}
    (h : Memory.wf s.mem = true) : Memory.wf (State.publishWrites c sc want l s).1.mem = true := by
  induction l generalizing s with
  | nil => exact h
  | cons w r ih =>
    unfold State.publishWrites
    split
    · exact ih (publishOne_wf c sc w h)
    · exact ih h

theorem publish_wf {s : State} (c : CoreId) (sc : Scope) (want : CoreWrite → Bool) (h : Memory.wf s.mem = true) :
    Memory.wf (s.publish c sc want).mem = true := by
  simpa [State.publish] using publishWrites_wf c sc want _ h

theorem release_wf {s : State} (c : CoreId) (sc : Scope) (ob : List Nat) (h : Memory.wf s.mem = true) :
    Memory.wf (s.release c sc ob).mem = true := by
  cases sc with
  | cluster => exact publish_wf _ _ _ h
  | device => exact publish_wf _ _ _ (pushL2_wf _ _ h)
  | domain => exact publish_wf _ _ _ (pushL2_wf _ _ h)
  | thread => exact h
  | group => exact h
  | team => exact h

/-! ## Translation: what a walk sets keeps the form -/

theorem walk_wf (d vf va n l table : Nat) {s : State} (h : Memory.wf s.mem = true) :
    Memory.wf (State.walk d vf va n l table s).1.mem = true := by
  induction n generalizing l table s with
  | zero => exact h
  | succ n ih =>
    unfold State.walk
    simp only
    split
    · exact h
    · split
      · exact setBits_wf _ _ h
      · exact ih _ _ (setBits_wf _ _ h)

theorem walkDev_wf (vf va n l table : Nat) {s : State} (h : Memory.wf s.mem = true) :
    Memory.wf (State.walkDev vf va n l table s).1.mem = true := by
  induction n generalizing l table s with
  | zero => exact h
  | succ n ih =>
    unfold State.walkDev
    simp only
    split
    · exact h
    · split
      · exact setBits_wf _ _ h
      · exact ih _ _ (setBits_wf _ _ h)

theorem hostTranslate_wf (vf : Nat) (n : Need) (va : Nat) {s : State} (h : Memory.wf s.mem = true) :
    Memory.wf (s.hostTranslate vf n va).1.mem = true := by
  have hw := walkDev_wf vf va 4 0 (s.vf vf).root h
  unfold State.hostTranslate
  simp only
  split
  · exact hw
  · split
    · exact hw
    · (repeat' split) <;> first | exact hw | exact setBits_wf _ _ hw | exact setBits_wf _ _ (setBits_wf _ _ hw)

theorem leafFor_wf (q : QuadId) (vf va : Nat) {s : State} (h : Memory.wf s.mem = true) :
    Memory.wf (s.leafFor q vf va).1.mem = true := by
  have hw := walk_wf q.die vf va 4 0 (s.vf vf).root h
  have hb := fun a m => setBits_wf a m h
  unfold State.leafFor
  generalize State.walk q.die vf va 4 0 (s.vf vf).root s = r at hw
  cases tlbHit (s.quad q).tlb vf va with
  | some e => exact hb e.at_ 0x20
  | none =>
    cases tlbHit (s.core q.cid).tlb vf va with
    | some e => exact hb e.at_ 0x20
    | none =>
      obtain ⟨s1, o⟩ := r
      cases o with
      | none => exact hw
      | some e => simpa using hw

theorem translate_wf (q : QuadId) (vf : Nat) (n : Need) (va : Nat) {s : State} (h : Memory.wf s.mem = true) :
    Memory.wf (s.translate q vf n va).1.mem = true := by
  have hl := leafFor_wf q vf va h
  unfold State.translate
  simp only
  split
  · exact hl
  · split
    · exact hl
    · (repeat' split) <;> first | exact hl | exact setBits_wf _ _ hl | exact setBits_wf _ _ (setBits_wf _ _ hl)

end Sys2Proof.Machine
end

