-- ==== Sys2Proof/Laws/Ports.lean ====
section
/-! SUPPORT. Laws of the replay buffer of a port (R317). -/

namespace Sys2Proof.Machine

/-- What fits into a window stands first, and the rest follows it. -/
theorem inWindow_append_drop (l : List Packet) : ∀ n, inWindow n l ++ l.drop (inWindow n l).length = l := by
  induction l with
  | nil => intro n; simp [inWindow]
  | cons k r ih =>
    intro n
    by_cases h : k.flits ≤ n
    · simp [inWindow, h, ih]
    · simp [inWindow, h]

/-- A port whose packets all fit into the window has sent them all. -/
theorem inWindow_all (l : List Packet) : ∀ n, (l.map Packet.flits).sum ≤ n → inWindow n l = l := by
  induction l with
  | nil => intro n _; simp [inWindow]
  | cons k r ih =>
    intro n h
    simp only [List.map_cons, List.sum_cons] at h
    have hk : k.flits ≤ n := by omega
    simp [inWindow, hk, ih (n - k.flits) (by omega)]

end Sys2Proof.Machine
end

