-- ==== Sys2Proof/Tests/Slice0.lean ====
section
/-! SUPPORT. The author's own tests: terms that the well-formedness check refuses, words written out from the spec's
encodings, and for every statement with hypotheses a state and operands that meet them together. -/

set_option Elab.async false

namespace Sys2Proof.Tests
open Sys2Proof Sys2Proof.Machine Host

/-! ## Ill-formed terms: one for each check of `Instr.wf`, in the order of its arms -/

def t0 : ThreadId := { grid := 0, team := 0, group := 0, tid := 0 }
def g0 : GroupId := { grid := 0, team := 0, group := 0 }
def qBad : List QuadId := [{ die := 4, core := 0, quad := 0 }, { die := 0, core := 48, quad := 0 }, { die := 0, core := 0, quad := 4 }]
def noGuard : Guard := { q := 8, neg := false }
def always : Guard := { q := 0, neg := false }

theorem test_wf_refuses_control : ([
    .trap 128, .rsys 0 128, .rsys 128 0, .rsys 3 0x10, .rsys 3 0x1D, .rsys 3 0x1E, .wsys 128 0, .wsys 0 128, .sleep 128,
    .wait 64 0 0 0, .wait 0 64 0 0, .wait 0 0 16 0, .wait 0 0 0 16, .wbase 16, .rjarm 0, .rjarm 8, .rjwait 8, .rjdrop 0 1,
    .rjdrop 3 2, .rjdrop 1 8, .rjrd 3 0, .rjrd 128 0, .rjrd 2 8, .br noGuard 0, .br always 524288, .br always (-524289),
    .jal 16 0, .jal 3 0, .jal 2 524288, .jr noGuard 2 2, .jr always 3 2, .jr always 2 3, .jr always 128 0, .jr always 0 128,
    .cmp .eq .set .s32 8 0 0 (.reg 0), .cmp .eq .set .s32 0 8 0 (.reg 0), .cmp .eq .set .s32 2 2 0 (.reg 0),
    .cmp .eq .one .s32 1 1 0 (.reg 0), .cmp .eq .set .s64 1 2 3 (.reg 0), .cmp .eq .set .s64 1 2 2 (.reg 3),
    .cmp .eq .set .n64 1 2 3 (.reg 0), .cmp .eq .set .s32 1 2 128 (.reg 0), .cmp .eq .set .s32 1 2 0 (.reg 128),
    .cmp .eq .set .s32 1 2 0 (.imm 65536), .fcmp .eq .set .f64 1 2 3 (.reg 0), .fcmp .eq .set .f64 1 2 2 (.reg 3),
    .fcmp .eq .set .f32 2 2 0 (.reg 0), .fcmp .eq .set .f32 1 2 128 (.reg 0), .fcmp .eq .set .f32 1 2 0 (.imm 65536),
    .plog 8 0 0 0, .plog 0 8 0 0, .plog 0 0 8 0, .plog 0 0 0 16, .sel 8 0 0 0, .sel 0 128 0 0, .sel 0 0 128 0,
    .sel 0 0 0 128] : List Instr).all (fun i => !i.wf) = true := by decide

theorem test_wf_refuses_integer : ([
    .add 128 0 0, .sub 0 128 0, .and 0 0 128, .clz .w32 128 0, .ctz .w64 3 0, .ffs .w64 2 3, .popc .w8 0 128, .sext .w64 3 0,
    .sext .w32 128 0, .zext .w8 0 128, .add64 3 0 0, .sub64 0 3 0, .shl64 0 0 3, .mul64 128 0 0, .div64 0 128 0, .rem64 0 0 128,
    .packAdd .s8x4 false 128 0 0, .avg .n8x4 true 0 128 0, .packShl .s16x2 false 0 0 128, .mad 128 0 0 0, .madh 0 128 0 0,
    .madhn 0 0 128 0, .dp4 true true true 0 0 0 128, .sad .s8x4 false 0 0 0 128, .mad64 true 3 0 0 0, .mad64 true 0 128 0 0,
    .mad64 true 0 0 128 0, .mad64 true 0 0 0 3, .bfx 128 0 0 0, .bfx 0 128 0 0, .bfx 0 0 32 0, .bfxn 0 0 0 33, .bfi 128 0 0 0 0,
    .bfi 0 128 0 0 0, .bfi 0 0 128 0 0, .bfi 0 0 0 32 0, .bfi 0 0 0 0 33, .bgath 128 0 0 0, .bgath 0 128 0 0, .bgath 0 0 128 0,
    .bgath 0 0 0 65536, .bgath 0 0 0 0x0009, .bgath 0 0 0 0x0090, .bgath 0 0 0 0x0900, .bgath 0 0 0 0x9000,
    .span false 128 0 0 (.imm 0), .span false 0 128 0 (.imm 0), .span false 0 0 128 (.imm 0), .span false 0 0 0 (.reg 128),
    .span false 0 0 0 (.imm 64), .lut3 128 0 0 0 0, .lut3 0 128 0 0 0, .lut3 0 0 128 0 0, .lut3 0 0 0 128 0, .lut3 0 0 0 0 256,
    .addi 128 0 0, .andi 0 128 0, .ori 0 0 512, .xori 0 0 (-513), .addiImm32 128 0 0, .andiImm32 0 128 0,
    .muliImm32 0 0 4294967296, .shli 128 0 0, .shri 0 128 0, .srai 0 0 64, .li 128 0, .li 0 512, .liImm32 128 0,
    .liImm32 0 4294967296, .li64 3 0, .li64 0 18446744073709551616, .liu 16 0, .liu 0 1048576, .addl 16 0 0, .addl 0 16 0,
    .addl 0 0 2048] : List Instr).all (fun i => !i.wf) = true := by decide

theorem test_wf_refuses_float_and_lanes : ([
    .fadd 128 0 0, .fmin 0 128 0, .fcpys 0 0 128, .fabs 128 0, .fneg 0 128, .faddFp1 .f64 .rne false 3 0 0,
    .fsubFp1 .f64 .rne false 0 3 0, .fmulFp1 .f64 .rne false 0 0 3, .ffma .f64 .rne false 3 0 0 0, .ffms .f64 .rne false 0 3 0 0,
    .fnma .f64 .rne false 0 0 3 0, .fnms .f64 .rne false 0 0 0 3, .fdot2 true .rne false 128 0 0 0, .fdot2 true .rne false 0 128 0 0,
    .fdot2 true .rne false 0 0 128 0, .fdot2 true .rne false 0 0 0 128, .fdiv true .rne false 3 0 0, .fdiv true .rne false 0 3 0,
    .fdiv true .rne false 0 0 3, .fsqrt true .rne 3 0, .fsqrt true .rne 0 3, .frcp true 3 0, .frsq true 0 3, .fexp2 .f32 128 0,
    .flog2 .f32 0 128, .frnd .f32 .sto 0 0, .frnd .f64 .rne 3 0, .frnd .f64 .rne 0 3, .fclass true 128 0, .fclass true 0 3,
    .fgetx true 0 3, .fscale true .rne false 3 0 0, .fscale true .rne false 0 3 0, .fscale true .rne false 0 0 128,
    .cvt .f16x2 .f32 .rne false 0 0, .cvt .f32 .cb2 .rne false 0 0, .cvt .s32 .n8 .rz false 0 0, .cvt .f64 .f32 .rne false 3 0,
    .cvt .f32 .f64 .rne false 0 3, .cvtp .f16x2 .rne false 128 0 0 0 0, .cvtp .f16x2 .rne false 0 128 0 0 0,
    .cvtp .f16x2 .rne false 0 0 128 0 0, .cvtp .f16x2 .rne false 0 0 0 1 0, .cvtp .f16x2 .rne false 0 0 0 0 1,
    .cvtp .e4m3x4 .rne false 0 0 0 128 0, .cvtp .e4m3x4 .rne false 0 0 0 0 2, .cvtp .f32 .rne false 0 0 0 0 0,
    .cvte .s8 .s8x4 .rne false 0 0 0, .cvte .f32 .s8x4 .rne false 0 0 4, .cvte .s32 .s8x4 .rz false 0 0 0,
    .cvte .f64 .s8x4 .rne false 3 0 0, .cvte .f32 .s8x4 .rne false 0 128 0, .lgetIdx true 3 0 (.imm 0) 0,
    .lgetRot true 0 3 (.imm 0) 0, .lgetXor false 0 0 (.imm 64) 0, .lgetXor false 0 0 (.reg 128) 0, .lgetIdx false 0 0 (.imm 0) 8,
    .lgetShift true 3 0 (.imm 0) 0, .lgetShift true 0 3 (.imm 0) 0, .lgetShift false 0 0 (.imm 32) 0, .lgetShift false 0 0 (.reg 128) 0,
    .lgetShift false 0 0 (.imm 0) 8, .census .mask 3 0 0, .census .all 128 0 0, .census .all 0 128 0, .census .all 0 0 8,
    .red (.fadd false .sto) 0 0 0, .red (.fadd false .dyn) 0 0 0, .red (.int .add .s64) 3 0 0, .red (.fmax true) 0 3 0,
    .red (.fmax false) 0 0 8, .scan (.fadd false .sto) false 0 0 0, .scan (.int .add .n64) true 3 0 0, .scan (.fadd true .rne) true 0 3 0,
    .scan (.fmax false) true 0 0 8, .peers false 3 0 0, .peers true 0 3 0, .peers false 0 0 8] : List Instr).all (fun i => !i.wf) = true := by
  decide

theorem test_wf_refuses_memory : ([
    .slice 128 1, .slice 0 1, .slice 1 0, .slice 1 5, .matz 128, .rcpst 128 0, .rcpst 0 128, .rcppol 16, .ld .n64 .none 3 0 0 0,
    .ld .n128 .none 2 0 0 0, .ld .n8 .none 128 0 0 0, .ld .n8 .none 0 16 0 0, .ld .n8 .none 0 0 128 0, .ld .n8 .none 0 0 0 131072,
    .st noGuard .n8 .none 0 0 0 0, .st always .n64 .none 0 0 0 3, .st always .n128 .none 0 0 0 2, .st always .n8 .none 16 0 0 0,
    .st always .n8 .none 0 128 0 0, .st always .n8 .none 0 0 (-131073) 0, .atom noGuard .add false .team 0 0 0 0 0,
    .atom always .add true .team 0 0 0 3 0, .atom always .add true .team 0 0 0 0 3, .atom always .ld false .team 0 0 0 1 1,
    .atom always .add false .team 16 0 0 0 0, .atom always .add false .team 0 128 0 0 0, .atom always .add false .team 0 0 131072 0 0,
    .ldf .none 128 0 0 0, .ldf .none 0 16 0 0, .ldf .none 0 0 128 0, .ldf .none 0 0 0 131072, .stf .none 16 0 0 0, .stf .none 0 128 0 0,
    .stf .none 0 0 131072 0, .stf .none 0 0 0 128, .lds .n64 3 0 0 0 0, .lds .n8 0 64 0 0 0, .lds .n8 0 0 128 0 0,
    .lds .n8 0 0 0 524288 0, .lds .n8 0 0 0 0 128, .sts .n64 0 0 0 3 0, .sts .n8 64 0 0 0 0, .sts .n8 0 128 0 0 0,
    .sts .n8 0 0 (-524289) 0 0, .sts .n8 0 0 0 0 128, .atoms .xchg64 0 0 0 3 0, .atoms .cas64 0 0 0 0 3, .atoms (.w .ld) 0 0 0 0 1,
    .atoms (.w .add) 64 0 0 0 0, .atoms (.w .add) 0 128 0 0 0, .atoms (.w .add) 0 0 524288 0 0, .cmaint .clean 0 0 0 0,
    .cmaint .inv 5 0 0 0, .cmaint .cinv 1 16 0 0, .cmaint .inv 1 0 3 0, .cmaint .inv 1 0 0 3, .pref 0 0 0, .pref 4 0 0, .pref 1 16 0,
    .pref 1 0 128, .lease 128, .capld 16 0, .capld 0 256, .capnar 16 0 0 0 0, .capnar 0 16 0 0 0, .capnar 0 0 3 0 0,
    .capnar 0 0 0 3 0, .capnar 0 0 0 0 256, .capq .base 3 0, .capq .extent 3 0, .capq .perm 128 0, .capq .perm 0 16, .capswz 16 0 0,
    .capswz 0 16 0, .capswz 0 0 256, .capdrop 16] : List Instr).all (fun i => !i.wf) = true := by decide

theorem test_wf_refuses_engines : ([
    .wld .f16 (.quad 4) 0, .wld .f16 .self 128, .wlds (.quad 4) 0, .wlds .self 128, .tmm 3, .tepi 3, .tmm 128, .tzero 64,
    .trd .f32 .rz false 0 0, .trd .f32 .rne true 0 0, .trd .f16x2 .rne false 128 0, .trd .f16x2 .rne false 0 64, .twr .f32 64 0,
    .twr .f32 0 128, .tfuse 8, .cbld 128 0, .cbld 0 256, .tstat true 128 0, .tstat true 0 64, .cpy 128 0, .cpyr 0 128, .cred 128 0,
    .tsetFill 64 1 true, .tsetFill 0 0 true, .tsetFill 0 128 true, .tsetReady 64, .tsetEmpty 64, .twait 64, .tqry .tile 3 0,
    .tqry .tile 0 64, .tqry (.cnt true) 128 0, .tqry (.cnt true) 0 16, .tqry .slot 128 0, .tqry .slot 0 16, .gslot 16,
    .gres .lead 16 0 false, .gres .lead 0 8 false, .barArrive 128 0, .barSync 0 128, .barWait 128, .tbar 8 false, .seqw 16 (.imm 0),
    .seqw 0 (.reg 128), .seqw 0 (.imm 2048), .seqrd 128 0, .seqrd 0 16, .spawn 3 0 0 0, .spawn 0 16 0 0, .spawn 0 0 16 0, .spawn 0 0 0 3,
    .qstat 128 0, .qstat 0 8, .prio 8] : List Instr).all (fun i => !i.wf) = true := by decide

def somePacket : Packet :=
  { dest := 0, src := 5, seq := 0, ack := 0, ackv := false, kph := 1, type := .write, reqtag := 0, authOk := true, flits := 1,
    tenant := 0, vaddr := 65536, payload := [7, 9] }

theorem test_wf_refuses_events : (([
    .l1Eviction 4 0 0, .l1Eviction 0 48 0, .l2Eviction 4 0, .laneMigration t0 64, .doorbellWrite 128 0, .launchEntryStart 192,
    .dependencePoll 192, .sweeperFrameVisit 2, .coldQueueConsumedWrite 2 0, .coldQueueBaseWrite 2 0 4096,
    .coldQueueBaseWrite 0 4503599627370496 4096, .coldQueueBaseWrite 0 0 4095, .coldQueueBaseWrite 0 0 1048577,
    .epilogueDrainComplete { die := 0, core := 0, quad := 0 } 4, .packetReceive 18 somePacket,
    .packetReceive 0 { somePacket with payload := [256] }, .cpyrArrival
      { port := 18, num := 0, got := 0, swz := 0, tenant := 0, toTile := true, die := 0, core := 0, tile := 0, bytes := [], flag := none },
    .ackOnlySend 18, .portLaneFailure 18 0, .portLaneFailure 0 65536, .portRetrainComplete 18 0, .portRetrainComplete 0 65536,
    .keyInstall (.port 18), .keyRetire (.die 13), .domainTableWrite 2097152 none, .routeTagModeWrite 0 8 0, .routeTagModeWrite 0 0 3,
    .reset 6, .dieLinkFault 13, .retire 6 { storage := 0, row := 0 }, .scrubWord 6 0 .clean false,
    .derivedEventConfig 0 32 { a := .raw 0, b := .raw 0, fn := .and }] : List Instr) ++
    qBad.map (fun q => Instr.partitionShrink 0 [q]) ++ qBad.map (fun q => Instr.epilogueEntryKill q 0)).all (fun i => !i.wf) = true := by decide

/-! ## Words written out from R42, R43, R53 and the tables of each family -/

/-- Two words: word 0, then word 1. -/
abbrev two (w0 w1 : Nat) : Option Instr := decodeTableWord 64 (w0 + w1 * 2 ^ 32)
abbrev dec1 (w0 : Nat) : Option Instr := decodeTableWord 32 w0

theorem test_decode_misc_ctrl : [dec1 0x00000080, dec1 (3 * 2 ^ 10 + 6 * 2 ^ 7 + 0x12), dec1 (2 * 2 ^ 7 + 9), dec1 (0x02 * 2 ^ 24 + 1 * 2 ^ 7 + 3),
    dec1 (0x04 * 2 ^ 24 + 2 * 2 ^ 20 + 4), dec1 (0x05 * 2 ^ 24 + 1 * 2 ^ 21 + 1 * 2 ^ 20 + 20 * 2 ^ 13 + 22 * 2 ^ 6)] =
    [some .exit, some (.wsys 0x12 3), some (.trap 9), some (.rjarm 3), some (.jal 2 4), some (.jr { q := 1, neg := true } 20 22)] := by
  decide +kernel

theorem test_decode_compares : [two (1 * 2 ^ 30 + 0x06 * 2 ^ 24 + 20 * 2 ^ 17 + 21 * 2 ^ 10 + 1 * 2 ^ 7 + 2 * 2 ^ 4 + 2 * 2) (2 * 2 ^ 28 + 1 * 2 ^ 23),
    two (1 * 2 ^ 30 + 0x07 * 2 ^ 24 + 20 * 2 ^ 17 + 1 * 2 ^ 7 + 1) (9 * 2 ^ 28 + 8 * 2 ^ 23 + 0x3F80),
    dec1 (0x08 * 2 ^ 24 + 3 * 2 ^ 21 + 1 * 2 ^ 18 + 2 * 2 ^ 15 + 0b0110 * 2 ^ 11), dec1 (0x09 * 2 ^ 24 + 4 * 2 ^ 17 + 5 * 2 ^ 10 + 6 * 2 ^ 3 + 7)] =
    [some (.cmp .lt .meet .n32 1 2 20 (.reg 21)), some (.fcmp .ltu .set .f32 1 0 20 (.imm 0x3F80)), some (.plog 3 1 2 6),
     some (.sel 7 4 5 6)] := by decide +kernel

theorem test_decode_integer : [dec1 (0x0B * 2 ^ 24 + 1 * 2 ^ 17 + 2 * 2 ^ 10 + 3 * 2 ^ 3 + 7), dec1 (0x0C * 2 ^ 24 + 1 * 2 ^ 17 + 2 * 2 ^ 10 + 3 * 2 ^ 3 + 6),
    dec1 (0x0D * 2 ^ 24 + 1 * 2 ^ 17 + 2 * 2 ^ 10 + 2 * 2 ^ 3 + 3), dec1 (0x0E * 2 ^ 24 + 2 * 2 ^ 17 + 4 * 2 ^ 10 + 6 * 2 ^ 3 + 5),
    dec1 (0x0F * 2 ^ 24 + 2 * 2 ^ 17 + 4 * 2 ^ 10 + 6 * 2 ^ 3 + 2), dec1 (0x10 * 2 ^ 24 + 2 * 2 ^ 17 + 4 * 2 ^ 10 + 6 * 2 ^ 3 + 1)] =
    [some (.minn 1 2 3), some (.remn 1 2 3), some (.popc .w8 1 2), some (.andn64 2 4 6), some (.sra64 2 4 6), some (.mulh64 2 4 6)] := by
  decide +kernel

theorem test_decode_packed_and_fields : [two (1 * 2 ^ 30 + 0x11 * 2 ^ 24 + 1 * 2 ^ 17 + 2 * 2 ^ 10 + 3 * 2 ^ 3 + 1) (0x17 * 2 ^ 20 + 8 * 2 ^ 16),
    two (1 * 2 ^ 30 + 0x12 * 2 ^ 24 + 1 * 2 ^ 17 + 2 * 2 ^ 10 + 3 * 2 ^ 3 + 4) (4 * 2 ^ 25 + 0x16 * 2 ^ 20 + 1),
    two (1 * 2 ^ 30 + 0x13 * 2 ^ 24 + 1 * 2 ^ 17 + 2 * 2 ^ 10 + 3 * 2 ^ 3 + 2) (31 * 2 ^ 0 + 32 * 2 ^ 5),
    two (1 * 2 ^ 30 + 0x13 * 2 ^ 24 + 1 * 2 ^ 17 + 2 * 2 ^ 10 + 3 * 2 ^ 3 + 4) (1 + 2 + 63 * 4)] =
    [some (.packSub .s16x2 true 1 2 3), some (.dp4 false true false 1 2 3 4), some (.bfi 1 2 3 31 32), some (.span true 1 2 3 (.imm 63))] := by
  decide +kernel

theorem test_decode_immediates : [dec1 (0x14 * 2 ^ 24 + 1 * 2 ^ 17 + 2 * 2 ^ 10 + 0x200), dec1 (0x1A * 2 ^ 24 + 1 * 2 ^ 17 + 2 * 2 ^ 10 + 63),
    dec1 (0x1C * 2 ^ 24 + 9 * 2 ^ 17 + 0x1FF), two (1 * 2 ^ 30 + 0x1C * 2 ^ 24 + 9 * 2 ^ 17) 0xFFFFFFFF,
    decodeTableWord 96 (2 * 2 ^ 30 + 0x1C * 2 ^ 24 + 8 * 2 ^ 17 + 5 * 2 ^ 32 + 6 * 2 ^ 64), dec1 (0x1D * 2 ^ 24 + 7 * 2 ^ 20 + 0xFFFFF),
    dec1 (0x1E * 2 ^ 24 + 7 * 2 ^ 20 + 3 * 2 ^ 16 + 0x800)] =
    [some (.addi 1 2 (-512)), some (.srai 1 2 63), some (.li 9 511), some (.liImm32 9 0xFFFFFFFF), some (.li64 8 (5 + 6 * 2 ^ 32)),
     some (.liu 7 0xFFFFF), some (.addl 7 3 (-2048))] := by decide +kernel

theorem test_decode_float : [dec1 (0x20 * 2 ^ 24 + 1 * 2 ^ 17 + 2 * 2 ^ 10 + 3 * 2 ^ 3 + 3),
    two (1 * 2 ^ 30 + 0x21 * 2 ^ 24 + 2 * 2 ^ 17 + 4 * 2 ^ 10 + 6 * 2 ^ 3 + 5) (8 * 2 ^ 25 + 0x0B * 2 ^ 20 + 9 * 2 ^ 16),
    two (1 * 2 ^ 30 + 0x22 * 2 ^ 24 + 1 * 2 ^ 17 + 2 * 2 ^ 10 + 3) (0x08 * 2 ^ 20), two (1 * 2 ^ 30 + 0x23 * 2 ^ 24 + 1 * 2 ^ 17 + 2 * 2 ^ 10 + 2) (0x13 * 2 ^ 20 + 3 * 2 ^ 16),
    two 0x64285400 0x0088000C] =
    [some (.fmin 1 2 3), some (.fnma .f64 .rz true 2 4 6 8), some (.frsq false 1 2), some (.frnd .f16x2 .rup 1 2),
     some (.cvt .e4m3 .f32 .rne true 20 21)] := by decide +kernel

theorem test_decode_lanes_and_recipes : [two (1 * 2 ^ 30 + 0x25 * 2 ^ 24 + 20 * 2 ^ 17 + 21 * 2 ^ 10 + 22 * 2 ^ 3) (0x01 * 2 ^ 20 + 1),
    two (1 * 2 ^ 30 + 0x25 * 2 ^ 24 + 20 * 2 ^ 17 + 21 * 2 ^ 10 + 2) (0x01 * 2 ^ 20 + 63 * 2 ^ 10 + 1 * 2 ^ 9),
    two (1 * 2 ^ 30 + 0x25 * 2 ^ 24 + 20 * 2 ^ 17 + 21 * 2 ^ 10 + 6) (0x00 * 2 ^ 20 + 1 * 2 ^ 9 + 2 * 2 ^ 6), dec1 0x263C0001] =
    [some (.lgetIdx false 20 21 (.reg 22) 1), some (.lgetShift false 20 21 (.imm (-1)) 0), some (.scan (.int .max .s32) true 20 21 0),
     some (.slice 30 2)] := by decide +kernel

theorem test_decode_memory : [two (1 * 2 ^ 30 + 0x27 * 2 ^ 24 + 20 * 2 ^ 17 + 22 * 2 ^ 10 + 3 * 2 ^ 6) (1 * 2 ^ 27 + 3 * 2 ^ 18 + 0x20000),
    two (1 * 2 ^ 30 + 0x28 * 2 ^ 24 + 20 * 2 ^ 17 + 22 * 2 ^ 10 + 3 * 2 ^ 6 + 2 * 2 ^ 3 + 4) (5 * 2 ^ 27 + 8), two 0x692A50C0 0x19680008,
    two 0x692A50C0 0x11600000, two 0x6C285850 0x20000008] =
    [some (.ld .s8 .keep 20 3 22 (-131072)), some (.st { q := 2, neg := true } .n64 .none 3 22 8 20),
     some (.atom always .add false .device 3 20 8 21 22), some (.atom always .cas false .team 3 20 0 21 22),
     some (.lds .n32 20 5 22 8 0)] := by decide +kernel

theorem test_decode_fragments : [two (1 * 2 ^ 30 + 0x2A * 2 ^ 24 + 64 * 2 ^ 17 + 22 * 2 ^ 10 + 3 * 2 ^ 6) 256,
    two (1 * 2 ^ 30 + 0x2B * 2 ^ 24 + 64 * 2 ^ 17 + 22 * 2 ^ 10 + 3 * 2 ^ 6) (1 * 2 ^ 18)] =
    [some (.ldf .none 64 3 22 256), some (.stf .ev 3 22 0 64)] := by decide +kernel

theorem test_decode_memory_control : [two 0x6D000000 0x00000011, two 0x6D000000 0x0000000E, two 0x6D000001 0x00000022,
    two 0x6D0050B2 0x000000D3, two 0x6E000000 0x00000022, two 0x6E0050B1 0x00008736, two 0x6E280002 0x00000530, two 0x6E000004 6] =
    [some (.phaseRel .device), some (.phaseAcq .cluster), some (.fence { ld := false, st := true, atom := false, iss := false, cm := false }
      { ld := true, st := false, atom := false, iss := false, cm := false }), some (.cmaint .clean 3 3 20 22), some (.capld 2 2),
     some (.capnar 6 3 20 22 0x87), some (.capq .perm 20 3), some (.capdrop 6)] := by decide +kernel

theorem test_decode_matrix : [two 0x70010000 0x01100004, two 0x70018001 4, two 0x70008002 0, two 0x70000003 5, two 0x70500004 0x01300005,
    two 0x7000A005 0x00800005, two 0x70008006 0, two 0x70000007 1, two 0x71010000 0, two 0x71280001 5] =
    [some (.wld .cb2 .self 64), some (.wlds .self 96), some (.tmm 32), some (.tzero 5), some (.trd .f16x2 .rne false 40 5),
     some (.twr .f32 5 40), some (.tepi 32), some (.tfuse 1), some (.cbld 64 0), some (.tstat false 20 5)] := by decide +kernel

theorem test_decode_copy_sync_sched : [two 0x72288000 0, two 0x72288001 0, two 0x72000002 0x744, two 0x72000003 4, two 0x72280004 0x42,
    two 0x72000005 3, two 0x72000006 0x1A3, two 0x73005000 0x105, two 0x73000001 0xA, two 0x7328A002 0, two 0x73000003 0x72,
    two 0x73280004 2, two 0x74285800 0x54, two 0x74280001 5, two 0x74000002 3] =
    [some (.cpy 20 32), some (.cpyr 20 32), some (.tsetFill 4 3 true), some (.twait 4), some (.tqry (.cnt false) 20 2), some (.gslot 3),
     some (.gres .any 3 2 true), some (.barSync 5 20), some (.tbar 2 true), some (.cred 20 40), some (.seqw 2 (.imm 3)), some (.seqrd 20 2),
     some (.spawn 20 4 5 22), some (.qstat 20 5), some (.prio 3)] := by decide +kernel

/-- LEN 3, a reserved major, a LEN that the major does not allow, a reserved FN, and a field that must be zero. -/
theorem test_decode_refuses : [dec1 (3 * 2 ^ 30), dec1 (0x1F * 2 ^ 24), dec1 (1 * 2 ^ 30 + 0x0A * 2 ^ 24), dec1 (0x02 * 2 ^ 24 + 5 * 2 ^ 7),
    dec1 1, two (1 * 2 ^ 30 + 0x34 * 2 ^ 24 + 2) (5 + 2 ^ 3), two (1 * 2 ^ 30 + 0x06 * 2 ^ 24 + 1 * 2 ^ 7 + 2 * 2 ^ 4 + 7 * 2) 0] =
    [none, none, none, none, none, none, none] := by decide +kernel

/-! ## Small states, and what a step of one instruction leaves in them -/

/-- Thread u of the placed group, with registers. -/
def lane (u : Nat) (regs : List (Nat × Word)) : Thread :=
  { placeThread 0 0 with id := { placeId with tid := u }, lane := u, regs := regs }

/-- One die in Noon, one group, and these threads as the bundle of an instruction of `len` + 1 words. -/
def issuing (len : Nat) (ts : List Thread) : State :=
  { State.reset.placed 32 0 with
    threads := ts, issue := { slot := none, bundle := ts.map Thread.id, pc := 65536, word := 0x5A, len := len, num := 7, work := [] },
    groups := [{ placeGroup 0 with masks := 255 :: List.replicate 7 0 }] }

/-- The instruction answers a next state with a property. -/
def after (i : Instr) (s : State) (p : State → Bool) : Bool :=
  match exec i s with
  | .next t => p t
  | _ => false

def th (s : State) (u : Nat) : Thread := (s.thread? { placeId with tid := u }).getD (placeThread 0 0)
def reg (s : State) (u r : Nat) : Word := (th s u).held r
def causeOf (s : State) (u : Nat) : Nat := ((th s u).park.map Park.cause).getD 0

def duo : State := issuing 0 [lane 0 [(20, 0x80000000), (21, 3), (22, 40)], lane 1 [(20, 5), (21, 0xFFFFFFFF)]]
def duo2 : State := issuing 1 [lane 0 [(20, 0x80000000), (21, 3), (22, 40)], lane 1 [(20, 5), (21, 0xFFFFFFFF)]]

/-! ## Integer instructions, floating point, predicates, lanes -/

theorem test_integer : int32 (.div 0 20 21) = some (.div, 0, 20, 21) ∧ int32 (.sra 23 20 22) = some (.sra, 23, 20, 22) ∧
    after (.sra 23 20 22) duo (fun s => decide (reg s 0 23 = 0xFFFFFFFF ∧ reg s 1 23 = 5 ∧ (th s 0).pc = 65540)) = true ∧
    after (.div 23 20 21) duo (fun s => decide (reg s 0 23 = 0xD5555556 ∧ reg s 1 23 = 0xFFFFFFFB)) = true ∧
    after (.mul 0 20 21) duo (fun s => decide (reg s 0 0 = 0 ∧ (th s 0).retired = 1)) = true ∧
    int64 (.mulh64 24 20 20) = some (.mulh, 24, 20, 20) ∧
    after (.add64 24 20 20) duo (fun s => decide (reg s 0 24 = 0 ∧ reg s 0 25 = 7)) = true := by decide +kernel

theorem test_bit_counts : int3Row (.clz .w16 23 20) = some (.clz, .w16, 23, 20) ∧
    after (.clz .w16 23 20) duo (fun s => decide (reg s 0 23 = 0x00000010 ∧ reg s 1 23 = 0x0010000D)) = true ∧
    after (.sext .w64 24 20) duo (fun s => decide (reg s 0 24 = 0x80000000 ∧ reg s 0 25 = 0xFFFFFFFF)) = true ∧
    after (.zext .w8 24 21) duo (fun s => decide (reg s 1 24 = 0xFF)) = true := by decide +kernel

theorem test_packed_and_fields : packRow (.packSub .s16x2 true 23 20 21) = some (.sub, .s16x2, true, 23, 20, 21) ∧
    after (.packSub .s16x2 true 23 20 21) duo2 (fun s => decide (reg s 0 23 = 0x8000FFFD)) = true ∧
    (madWrites (placeThread 0 0) (.mad 23 20 21 22)).isSome = true ∧
    after (.mad 23 20 21 22) duo2 (fun s => decide (reg s 0 23 = 0x80000028 ∧ reg s 1 23 = 0xFFFFFFFB)) = true ∧
    (bitFieldWrites (placeThread 0 0) (.bfx 23 20 31 32)).isSome = true ∧ (Instr.bfx 23 20 31 32).wf = true ∧
    after (.bfx 23 20 31 32) duo2 (fun s => decide (reg s 0 23 = 0xFFFFFFFF ∧ reg s 1 23 = 0)) = true := by decide +kernel

theorem test_immediates : immRow (.srai 23 20 63) = some (.sra, 23, 20, 63) ∧ immRow (.addi 23 20 (-512)) = some (.add, 23, 20, 0xFFFFFE00) ∧
    after (.srai 23 20 63) duo (fun s => decide (reg s 0 23 = 0xFFFFFFFF)) = true ∧
    (loadImmWrites (placeThread 0 0) (.liu 7 0xFFFFF)).isSome = true ∧
    after (.liu 7 0xFFFFF) duo (fun s => decide (reg s 1 7 = 0xFFFFF000)) = true := by decide +kernel

/-- 1.0, 2^-24 and a signalling NaN in f32; MODE 5 in lane 1. -/
def floats : State := issuing 1 [lane 0 [(20, 0x3F800000), (21, 0x33800000), (22, 0x7F800001), (24, 0xFF800000)],
  { lane 1 [(20, 0x3F800000), (21, 0x33800000), (22, 0xBF800000)] with fpcsr := 5 <<< 5, rng := 1 }]
def stoLane : State := issuing 1 [{ lane 0 [(20, 0x3FC00000)] with fpcsr := 5 <<< 5, rng := 1 }]

theorem test_float_arithmetic : (∀ t ∈ floats.threads, t.id ∈ floats.issue.bundle → (arithRow t (.faddFp1 .f32 .rup false 23 20 21)).isSome) ∧
    (∃ t ∈ floats.threads, t.id ∈ floats.issue.bundle) ∧
    after (.faddFp1 .f32 .rup false 23 20 21) floats (fun s => decide (reg s 0 23 = 0x3F800001 ∧ (th s 0).fpcsr = 0x10)) = true ∧
    after (.fadd 23 20 22) floats (fun s => decide (reg s 0 23 = 0x7FC00000 ∧ (th s 0).fpcsr = 1)) = true ∧
    (∀ t ∈ stoLane.threads, t.id ∈ stoLane.issue.bundle → modeUsed t .dyn = .sto) ∧
    after (.frnd .f32 .dyn 23 20) stoLane (fun s => decide (reg s 0 23 = 0x3FC00000 ∧ (th s 0).fpcsr = 0xA1 ∧ (th s 0).rng = 1)) = true := by
  decide +kernel

theorem test_float_select : (pickRow (.fclass false 23 20)).isSome = true ∧
    after (.fclass false 23 22) floats (fun s => decide (reg s 0 23 = 0x100 ∧ reg s 1 23 = 2)) = true ∧
    approxRow (.frcp false 23 20) = some (.rcp, .f32, 23, 20) ∧
    specialOf Fmt.f32 .rcp (Fmt.f32.dec 0x80000000) = some (0xFF800000, 2) ∧
    after (.frcp false 23 0) floats (fun s => decide (reg s 0 23 = 0x7F800000 ∧ (th s 0).fpcsr = 2)) = true ∧
    after (.flog2 .f32 23 24) floats (fun s => decide (reg s 0 23 = 0x7FC00000 ∧ (th s 0).fpcsr = 1)) = true := by decide +kernel

theorem test_conversions : (Instr.cvt .s8 .f32 .rne true 23 20).wf = true ∧ (cvtRow (.cvt .s8 .f32 .rne true 23 20)).isSome = true ∧
    after (.cvt .s8 .f32 .rne true 23 24) floats (fun s => decide (reg s 0 23 = 0xFFFFFF80 ∧ (th s 0).fpcsr = 1)) = true ∧
    (Instr.cvte .f32 .e4m3x4 .rne false 23 20 3).wf = true ∧
    after (.cvte .f32 .e4m3x4 .rne false 23 20 3) floats (fun s => decide (reg s 0 23 = 0x3FF00000)) = true := by decide +kernel

theorem test_float_rules : Fmt.f32.dec 0x00000001 = .fin false 1 (-149) ∧ (1 : Nat) < 2 ^ Fmt.f32.width ∧
    Fmt.f32.roundZ .rna true 1 (-149) false = (1, 0) ∧ Fmt.f16.dec 0x7C01 = .nan true ∧
    Fmt.f16.add .rne false (.nan true) (.inf false) = (0x7E00, 1) ∧ Fmt.f16.div .rz true (.fin false 3 0) (.fin true 0 5) = (0xFC00, 2) ∧
    Fmt.f64.mul .rup false (.inf true) (.fin false 0 0) = (0x7FF8000000000000, 1) ∧ Fmt.bf16.add .rdn false (.fin true 4 2) (.fin false 4 2) = (0x8000, 0) ∧
    Fmt.bf16.add .rne false (.inf true) (.inf false) = (0x7FC0, 1) ∧ Fmt.f32.div .rne false (.fin true 0 1) (.fin false 0 9) = (0x7FC00000, 1) ∧
    Fmt.f32.div .rne false (.inf true) (.inf true) = (0x7FC00000, 1) := by decide +kernel

theorem test_compares : after (.cmp .lt .nest .s8 1 2 20 (.imm 0xFFFF)) duo2 (fun s => decide ((th s 0).q 1 = false ∧ (th s 0).q 2 = false)) = true ∧
    after (.cmp .lo .set .n32 1 2 20 (.reg 21)) duo2 (fun s => decide ((th s 0).q 1 = false ∧ (th s 1).q 1 = true ∧ (th s 1).q 2 = false)) = true ∧
    after (.fcmp .lt .one .f32 3 0 20 (.reg 22)) floats (fun s => decide ((th s 0).q 3 = false ∧ (th s 0).fpcsr = 1 ∧ (th s 1).q 3 = false)) = true ∧
    after (.plog 1 0 2 0b0100) duo (fun s => decide ((th s 0).q 1 = true)) = true ∧
    after (.sel 0 23 20 21) duo (fun s => decide (reg s 1 23 = 5)) = true := by decide +kernel

/-- Three lanes of a group of eight, of which mask 1 holds lanes 0 and 2. -/
def trio : State := { issuing 1 [lane 0 [(20, 5)], lane 1 [(20, 9)], lane 2 [(20, 7)]] with
  groups := [{ placeGroup 0 with masks := [7, 5, 0, 0, 0, 0, 0, 0] }] }

theorem test_cross_lane : (lgetRow (.lgetRot false 23 20 (.imm 1) 0)).isSome = true ∧
    after (.lgetRot false 23 20 (.imm 1) 0) trio (fun s => decide (reg s 1 23 = 5 ∧ reg s 2 23 = 9 ∧ reg s 0 23 = 5)) = true ∧
    after (.lgetIdx false 23 20 (.imm 2) 1) trio (fun s => decide (reg s 0 23 = 7 ∧ reg s 1 23 = 9)) = true ∧
    RedOp.wf (.int .add .n32) = true ∧ after (.red (.int .add .n32) 23 20 1) trio (fun s => decide (reg s 0 23 = 12 ∧ reg s 1 23 = 9 ∧ reg s 2 23 = 12)) = true ∧
    after (.scan (.int .max .n32) true 23 20 0) trio (fun s => decide (reg s 0 23 = 0 ∧ reg s 1 23 = 5 ∧ reg s 2 23 = 9)) = true ∧
    after (.census .first 23 20 1) trio (fun s => decide (reg s 0 23 = 0)) = true ∧
    after (.peers false 24 20 0) trio (fun s => decide (reg s 1 24 = 2)) = true ∧
    trio.group? (lane 2 []).id.gid = some { placeGroup 0 with masks := [7, 5, 0, 0, 0, 0, 0, 0] } ∧ (2 : Nat) < (placeGroup 0).width ∧
    trio.thread? (lane 2 [(20, 7)]).id = some (lane 2 [(20, 7)]) ∧ lane 2 [(20, 7)] ∈ trio.participants 1 (lane 0 []).id := by decide +kernel

/-! ## Control, exceptions, system registers -/

def jumpy : State := { issuing 0 [{ lane 0 [(20, 65600)] with preds := 2 }, lane 1 [(20, 65602)], lane 2 [(20, 0), (21, 0x2000000)], lane 3 [(20, 65552)]] with
  parts := [(0, { Part.unset with bindings := [(65552, 65556)] })] }

theorem test_branches : after (.br { q := 1, neg := true } (-3)) jumpy (fun s => decide ((th s 0).pc = 65540 ∧ (th s 1).pc = 65524)) = true ∧
    after (.jal 2 4) jumpy (fun s => decide ((th s 0).pc = 65552 ∧ reg s 0 2 = 65540)) = true ∧
    after (.jr always 20 22) jumpy (fun s => decide ((th s 0).pc = 65600 ∧ reg s 0 22 = 65540 ∧ causeOf s 1 = 0x06 ∧ causeOf s 2 = 0x02 ∧
      causeOf s 3 = 0x16)) = true ∧
    after (.jr always 20 0) (issuing 0 [lane 0 [(20, 65601)], lane 1 [(20, 65602)]])
      (fun s => decide ((th s 0).park.map Park.addr1 = some 65601 ∧ (th s 1).park.map Park.addr1 = some 65602 ∧ (s.die 0).waiting.length = 2)) = true := by decide +kernel

def asleep (w : Wait) : State := { issuing 0 [] with threads := [{ lane 0 [] with wait := w }], clock := { State.reset.clock with cycle := 16 } }

theorem test_waits : (∀ t ∈ duo.threads, t.id ∈ duo.issue.bundle → t.owed = []) ∧
    after (.wait 63 0 15 0) duo (fun s => decide ((th s 0).wait = .counts 63 0 15 0)) = true ∧
    after (.sleep 1) duo (fun s => decide ((th s 0).wait = .sleep 16)) = true ∧
    after (.wbase 8) duo (fun s => decide ((th s 0).wb = 128)) = true ∧
    after (.wbase 9) duo (fun s => decide (causeOf s 0 = 0x12 ∧ (th s 0).wb = 0)) = true ∧
    after (.sleepExpiry t0) (asleep (.sleep 16)) (fun s => decide ((th s 0).wait = .none ∧ (th s 0).nextAt = 16)) = true ∧
    after (.sleepExpiry t0) (asleep (.sleep 17)) (fun s => decide ((th s 0).wait = .sleep 17)) = true ∧
    ((asleep (.yield 16)).group? t0.gid).isSome = true ∧ (asleep (.yield 16)).thread? t0 = some { lane 0 [] with wait := .yield 16 } ∧
    after (.yieldRelease t0) (asleep (.yield 16)) (fun s => decide ((th s 0).wait = .none)) = true := by decide +kernel

theorem test_retire : ({ lane 0 [] with
      redo := [{ op := 4, pc := 8, wb := 16, wait := .tile 3, counted := some 6, stepOwed := none }], counted := some 7 } : Thread).retire = { lane 0 [] with pc := 8, wb := 16, wait := .tile 3, counted := some 6 } ∧ (lane 0 []).retire = { lane 0 [] with retired := 1 } ∧
    after (.trap 9) duo (fun s => decide (causeOf s 0 = 0x07 ∧ (th s 1).park = some { cause := 0x07, addr0 := 65536, addr1 := 9, resume := 65540 } ∧
      (th s 0).retired = 1)) = true := by decide +kernel

/-- Lanes 0 and 2 of the group fault alike, with addresses 9 and 4. -/
def twoFaults : List LaneFault := [{ th := (lane 0 []).id, info := { cause := 0x05, addr0 := 64, addr1 := 9 }, resume := 64 },
  { th := (lane 2 []).id, info := { cause := 0x05, addr0 := 64, addr1 := 4 }, resume := 64 }]

theorem test_taking_exception : twoFaults.find? (fun x => decide (x.th = (lane 2 []).id)) = twoFaults[1]? ∧ (trio.group? g0).isSome = true ∧
    (trio.grid? 0).isSome = true ∧ causeOf (trio.raise twoFaults none) 1 = 0 ∧
    ((th (trio.raise twoFaults none) 0).park).map Park.addr1 = some 4 ∧
    ((trio.raise twoFaults none).die 0).waiting.map (fun r => (r.q, r.word 0, r.word 4, r.word 8, r.word 10)) =
      [(.part 0, 0x05000000, 5, 4, 1 * 2 ^ 27)] := by decide +kernel

theorem test_exit : after .exit { trio with issue := { trio.issue with bundle := [(lane 2 []).id] } }
    (fun s => decide (s.threads.length = 2 ∧ ((s.group? g0).map Group.masks) = some [3, 1, 0, 0, 0, 0, 0, 0])) = true := by decide +kernel

theorem test_rejoin : after (.rjarm 2) trio (fun s => decide (((s.group? g0).map fun g => g.mask 2) = some 7)) = true ∧
    after (.rjdrop 1 7) trio (fun s => decide (((s.group? g0).map fun g => (g.mask 0, g.mask 1)) = some (7, 0))) = true ∧
    after (.rjrd 24 1) trio (fun s => decide (reg s 1 24 = 5)) = true ∧
    after (.rjwait 1) { trio with issue := { trio.issue with bundle := [(lane 0 []).id, (lane 1 []).id] } }
      (fun s => decide ((th s 0).wait = .rejoin 1 ∧ (th s 1).wait = .none)) = true ∧
    after (.rjwait 1) trio (fun s => decide ((th s 0).wait = .none ∧ (th s 2).wait = .none)) = true := by decide +kernel

/-- Mask 1 with both members arrived. -/
def arrived1 : Group := { placeGroup 0 with masks := [7, 5, 0, 0, 0, 0, 0, 0], arrivals := [0, 5, 0, 0, 0, 0, 0, 0] }

theorem test_mask_evaluation : ({ trio with groups := [arrived1] } : State).group? arrived1.id = some arrived1 ∧ arrived1.arrived 1 ≠ 0 ∧ arrived1.act = .active ∧
    (∀ u < 64, (arrived1.mask 1).testBit u = true → (arrived1.mask 0).testBit u = true → (arrived1.arrived 1).testBit u = true) ∧
    ((({ trio with groups := [arrived1] } : State).evalMask g0 1).group? g0).map (fun g => g.arrived 1) = some 0 := by decide +kernel

theorem test_system_registers : after (.rsys 23 0x0E) { duo with clock := { duo.clock with cycle := 3 * 2 ^ 32 + 4 } }
      (fun s => decide (reg s 0 23 = 4 ∧ (th s 0).cyclehi = 3)) = true ∧
    after (.rsys 24 0x10) { duo with threads := [{ lane 0 [] with retired := 6 }], issue := { duo.issue with bundle := [t0] } }
      (fun s => decide (reg s 0 24 = 6)) = true ∧
    after (.rsys 23 0x3F) duo (fun s => decide (reg s 0 23 = 0)) = true ∧ after (.rsys 23 0x40) duo (fun s => decide (causeOf s 0 = 1 ∧ (th s 0).pc = 65536)) = true ∧
    after (.wsys 0x12 21) { duo with threads := [lane 0 [(21, 0x00050087)], lane 1 [(21, 0xC0)]] }
      (fun s => decide ((th s 0).fpcsr = 0x00050087 ∧ (th s 0).rng = 0x00050001 ∧ causeOf s 1 = 1)) = true ∧
    after (.wsys 0x13 21) duo (fun s => decide ((th s 0).oobflag = true)) = true ∧ after (.wsys 0x00 21) duo (fun s => decide (causeOf s 0 = 1)) = true := by
  decide +kernel

/-! ## Accesses and memory -/

/-- R, W, A on 256 bytes at 65536; with TOOB; of another tenant; without R; with a swizzle. -/
def cap0 : Cap := { base := 65536, extent := 256, tenant := 0, stride := 4, swz := 0, perm := 7, device := 0 }
def capsHere : List (Nat × Cap) :=
  [(1, cap0), (2, { cap0 with perm := 0x27 }), (3, { cap0 with tenant := 1 }), (4, { cap0 with perm := 6 }),
   (5, { cap0 with base := 262144 }), (6, { cap0 with perm := 0xFF }), (7, { cap0 with perm := 0x11, device := 9 })]

def noon : Die := { Die.reset with st := .noon, attested := true }

/-- One lane at an access: g20 holds 2 and g21 0x11223344; tile 3 is READY with 64 bytes. -/
def acc : State := { issuing 1 [lane 0 [(20, 2), (21, 0x11223344), (22, 16), (24, 256)]] with
  teams := [{ newTeam placeGrid 0 placeCore 0 with caps := capsHere, tiles := [3, 4] }],
  dies := [(0, noon), (4, noon), (5, noon)], mem := [(65544, 0x80), (65545, 0x01)],
  cores := [(0, { Machine.Core.reset with tiles := [(3, tMake 2 false 0 0 0 4 0), (4, tMake 1 true 0 2 0 4 4)] })] }
def lane0 : Thread := lane 0 [(20, 2), (21, 0x11223344), (22, 16), (24, 256)]

theorem oneLane_of {s : State} {t : Thread} (h : s.bundleThreads = [t] ∧ s.issue.bundle = [t.id] ∧ s.thread? t.id = some t ∧
    t.redo = [] ∧ t.counted = none) : OneLane s t := ⟨h.1, h.2.1, h.2.2.1, h.2.2.2⟩

theorem ok_of {ε α : Type} {x : Except ε α} {v : α} (h : x.toOption = some v) : x = .ok v := by
  cases x with
  | error e => cases h
  | ok w => exact congrArg Except.ok (Option.some.inj h)

theorem test_one_lane : OneLane acc lane0 := oneLane_of (by decide +kernel)

def askLd : Ask := (accessRow lane0 cap0 (.ld .s16 .none 23 1 20 0)).getD (askAtom true .ld false .team 0 0 0 true 0 0 lane0)

theorem test_access_asks : accessRow lane0 cap0 (.ld .s16 .none 23 1 20 0) = some askLd ∧ CapPasses acc lane0 askLd cap0 ∧
    Cap.remote cap0 = false ∧ askLd.guard = true ∧ askLd.off lane0 cap0 = 8 := by
  refine ⟨rfl, ⟨?_, ?_, ?_⟩, ?_, ?_, ?_⟩ <;> decide +kernel

theorem test_access_translates : formAccess cap0 8 2 = .ok [(65544, 2)] ∧
    acc.translateAll lane0.qid (acc.vfOf lane0.id) .rd [(65544, 2)] =
      ((acc.translateAll lane0.qid (acc.vfOf lane0.id) .rd [(65544, 2)]).1, .ok [(65544, 2)]) ∧
    (acc.translateAll lane0.qid (acc.vfOf lane0.id) .rd [(65544, 2)]).1.gate
      ((acc.translateAll lane0.qid (acc.vfOf lane0.id) .rd [(65544, 2)]).1.routeOf lane0 askLd.kind (pieceBytes [(65544, 2)])) = .go ∧
    after (.ld .s16 .none 23 1 20 0) acc (fun s => decide (s.ops.map (fun o => (o.space, o.size, o.dst)) = [(.mem [(65544, 2)], 2, some 23)] ∧
      ((s.group? g0).map Group.counts) = some [{ iss := 7, cls := .nl, left := 1 }] ∧ (th s 0).pc = 65544)) = true := by
  refine ⟨?_, Prod.ext rfl (ok_of ?_), ?_, ?_⟩ <;> decide +kernel

theorem test_access_bounds : formAccess cap0 240 16 = .ok [(65776, 16)] ∧ formAccess cap0 256 1 = .outside 65792 ∧
    formAccess cap0 (-4) 4 = .outside 65532 ∧ formAccess cap0 2 4 = .misaligned 65538 ∧ formAccess cap0 0 256 = .ok ((List.range 16).map fun i => (65536 + 16 * i, 16)) ∧
    swz (swz 0x1F0 0x4B) 0x4B = 0x1F0 ∧ (0x4B : Nat) < 256 := by decide +kernel

def askRemote (k : Nat) : Ask := { askLd with k := k }

/-- A load through a capability of device d, which port 2 reaches. -/
def capFar (d : Nat) : Cap := { cap0 with perm := 0x11, device := d }
def accFar (d : Nat) : State := { acc with
  domain := [(d, { dev := d, port := 2, latency := 0 })], teams := [{ newTeam placeGrid 0 placeCore 0 with caps := [(7, capFar d)] }] }

theorem far_facts : ∀ d ∈ [9, 10], (accFar d).capOf lane0.id.tmid 7 = some (capFar d) ∧ (capFar d).tenant = (accFar d).tenantOf lane0.id ∧
    (accFar d).inDomain (capFar d).device = true ∧ acc.inDomain (capFar d).device = false ∧
    (accFar d).gate ((accFar d).routeOf lane0 askLd.kind (pieceBytes [(remoteKey d 65544, 2)])) = .go ∧
    ((accFar d).bundleThreads = [lane0] ∧ (accFar d).issue.bundle = [lane0.id] ∧ (accFar d).thread? lane0.id = some lane0 ∧
      lane0.redo = [] ∧ lane0.counted = none) := by decide +kernel

/-- Some device is not this one: DEVID is fixed per module and not stated. -/
theorem test_remote_access : ∃ d ∈ [9, 10], OneLane (accFar d) lane0 ∧
    accessRow lane0 (capFar d) (.ld .s16 .none 23 7 20 0) = some (askRemote 7) ∧ CapPasses (accFar d) lane0 (askRemote 7) (capFar d) ∧
    Cap.remote (capFar d) = true ∧ (accFar d).inDomain (capFar d).device = true ∧ acc.inDomain (capFar d).device = false ∧
    formAccess (capFar d) ((askRemote 7).off lane0 (capFar d)) (askRemote 7).bytes = .ok [(65544, 2)] ∧
    (accFar d).gate ((accFar d).routeOf lane0 askLd.kind (pieceBytes [(remoteKey d 65544, 2)])) = .go := by
  have f : ∀ d ∈ [9, 10], formAccess (capFar d) ((askRemote 7).off lane0 (capFar d)) (askRemote 7).bytes = .ok [(65544, 2)] := by decide +kernel
  have r : ∀ d, Config.devid.toNat ≠ d → Cap.remote (capFar d) = true := fun d h => by
    simp [Cap.remote, capFar, cap0, cPermBit, capREM, Ne.symm h]
    decide
  by_cases h : Config.devid.toNat = 9
  · obtain ⟨a, b, c, e, g, o⟩ := far_facts 10 (by decide)
    exact ⟨10, by decide, oneLane_of o, rfl, ⟨a, b, rfl⟩, r 10 (by omega), c, e, f 10 (by decide), g⟩
  · obtain ⟨a, b, c, e, g, o⟩ := far_facts 9 (by decide)
    exact ⟨9, by decide, oneLane_of o, rfl, ⟨a, b, rfl⟩, r 9 h, c, e, f 9 (by decide), g⟩

theorem test_access_faults : acc.capOf lane0.id.tmid 0 = none ∧ after (.ld .n8 .none 23 0 20 0) acc (fun s => decide (causeOf s 0 = 0x04)) = true ∧
    acc.capOf lane0.id.tmid 3 = some { cap0 with tenant := 1 } ∧ (1 : Nat) ≠ acc.tenantOf lane0.id ∧
    after (.ld .n8 .none 23 3 20 0) acc (fun s => decide (causeOf s 0 = 0x04)) = true ∧
    after (.ld .n8 .none 23 4 20 0) acc (fun s => decide (causeOf s 0 = 0x04)) = true ∧
    after (.ld .n32 .none 23 1 20 2) acc (fun s => decide (causeOf s 0 = 0x06 ∧ (th s 0).counted = some 7)) = true ∧
    after (.ld .n32 .none 21 1 20 248) acc (fun s => decide (causeOf s 0 = 0 ∧ reg s 0 21 = 0 ∧ (th s 0).oobflag = true)) = true ∧
    after (.ld .n32 .none 21 2 20 248) acc (fun s => decide (causeOf s 0 = 0x05 ∧ reg s 0 21 = 0x11223344 ∧ (th s 0).oobflag = false)) = true ∧
    after (.st { q := 0, neg := true } .n32 .none 1 20 1 21) acc (fun s => decide (s.ops = [] ∧ (th s 0).retired = 1)) = true ∧
    after (.ld .n32 .none 23 5 20 0) acc (fun s => decide ((th s 0).wait = .fault 7 0x03 0 262152 0 0 ∧ causeOf s 0 = 0)) = true := by
  decide +kernel

/-- The access of askLd with the home die of its bytes, die 5, in another state. -/
def die5 (st : DieState) : State := { acc with dies := [(0, noon), (4, noon), (5, { noon with st := st })] }

theorem test_access_in_dusk : (∀ st ∈ [DieState.dawn, .midnight, .dusk], ((die5 st).bundleThreads = [lane0] ∧ (die5 st).issue.bundle = [lane0.id] ∧
      (die5 st).thread? lane0.id = some lane0 ∧ lane0.redo = [] ∧ lane0.counted = none) ∧
      (die5 st).capOf lane0.id.tmid 1 = some cap0 ∧ cap0.tenant = (die5 st).tenantOf lane0.id ∧
      ((die5 st).translateAll lane0.qid ((die5 st).vfOf lane0.id) .rd [(65544, 2)]).2.toOption = some [(65544, 2)] ∧ isRemote 65544 = false ∧
      (die5 st).routeOf lane0 askLd.kind [65544, 65545] = [0, 5]) ∧
    ([0, 5].find? fun d => decide (((die5 .dawn).die d).st = .dawn ∨ ((die5 .dawn).die d).st = .midnight)) = some 5 ∧
    (∀ d ∈ [0, 5], ((die5 .dusk).die d).st = .noon ∨ ((die5 .dusk).die d).st = .dusk) ∧
    after (.ld .s16 .none 23 1 20 0) (die5 .dawn) (fun s => decide (s.ops = [] ∧ (th s 0).wait = .fault 7 0x0C 0 65544 0 5)) = true ∧
    after (.ld .s16 .none 23 1 20 0) (die5 .dusk)
      (fun s => decide (s.ops.map Op.stall = [some 0] ∧ (th s 0).wait = .dusk 1 ∧ s.ops.map Op.id = [1])) = true := by decide +kernel

theorem test_scratchpad : (spadRow lane0 (.lds .n32 23 3 20 2 0)).isSome = true ∧ (acc.team? lane0.id.tmid).isSome = true ∧
    tState (acc.tile placeCore 3) = 2 ∧
    after (.lds .n32 23 3 20 2 0) acc (fun s => decide (s.ops.map Op.space = [.spad { grid := 0, team := 0 } 4])) = true ∧
    after (.lds .n32 23 3 20 1 0) acc (fun s => decide (causeOf s 0 = 0x06)) = true ∧
    after (.lds .n32 21 3 20 62 0) acc (fun s => decide (reg s 0 21 = 0 ∧ (th s 0).oobflag = true ∧ s.ops = [])) = true ∧
    after (.sts .n32 4 20 2 21 0) acc (fun s => decide (causeOf s 0 = 0x0E)) = true ∧
    after (.sts .n32 3 20 2 21 22) acc (fun s => decide (causeOf s 0 = 0x0E ∧ (th s 0).counted = some 7)) = true ∧
    after (.atoms (.w .add) 3 0 0 21 22) acc (fun s => decide (s.ops.map Op.dst = [some 21])) = true := by decide +kernel

/-- An access in flight of lane 0 that may take effect. -/
def op0 (n : Nat) (k : OpKind) (sp : Space) (z : Nat) (dst : Option Nat) (data : List Byte) : Op :=
  { id := n, num := 7, iss := 7, kind := k, th := lane0.id, core := placeCore, quad := 0, space := sp, vaddr := 65544, size := z, data := data,
    dst := dst, deps := [], due := 0, addr0 := 65528, pst := false, hint := .none, reqtag := 0, tenant := 0, part := 0, answer := none,
    failed := none, stall := none, sent := false, wb := 0, marks := [], fills := [] }

def flying (os : List Op) : State := { acc with
  ops := os, groups := [{ placeGroup 0 with masks := 255 :: List.replicate 7 0, counts := [{ iss := 7, cls := .nl, left := 1 }] }],
  teams := [{ newTeam placeGrid 0 placeCore 0 with caps := capsHere, tiles := [3, 4], spad := [(4, 0x80)] }] }

def opLd : Op := op0 3 (.load .s8 false) (.mem [(65544, 1)]) 1 (some 23) []
def opLds : Op := op0 3 (.load .s8 false) (.spad { grid := 0, team := 0 } 4) 1 (some 23) []
def opSt : Op := op0 3 .store (.mem [(65545, 2)]) 2 none [0xAA, 0xBB]
def opSts : Op := op0 3 .store (.spad { grid := 0, team := 0 } 4) 2 none [0xAA, 0xBB]
def opAt (sc : AtomScope) (d : Option Nat) : Op := op0 3 (.atomic .add false sc 0 3) (.mem [(65544, 4)]) 4 d []
def opAts : Op := op0 3 (.atomic .xchg false .team 0 9) (.spad { grid := 0, team := 0 } 4) 4 (some 23) []

theorem effective_of {s : State} {o : Op} (h : s.op? o.id = some o ∧ (s.depsDone o = true ∧ o.due ≤ s.clock.cycle ∧ o.stall = none ∧
    o.failed = none ∧ o.answer = none) ∧ s.blockOf o = [o] ∧ (s.waitsLock o = false ∧ s.hitsMoved o = false) ∧ s.consumesPoison o = false) :
    Effective s o := ⟨h.1, h.2.1, h.2.2.1, h.2.2.2.1, h.2.2.2.2⟩

theorem test_effective : ∀ o ∈ [opLd, opLds, opSt, opSts, opAt .device none, opAt .team (some 23), opAts], Effective (flying [o]) o := by
  intro o ho
  simp only [List.mem_cons, List.not_mem_nil, or_false] at ho
  obtain rfl | rfl | rfl | rfl | rfl | rfl | rfl := ho <;> exact effective_of (by decide +kernel)

theorem test_load_arrives : OpKind.cls opLd.kind = .ld ∧ Space.remote opLd.space = false ∧ (flying [opLd]).thread? opLd.th = some lane0 ∧
    (flying [opLds]).team? { grid := 0, team := 0 } = (flying [opLds]).teams.head? ∧ opLd.dst.isSome = true ∧
    after (.loadResultArrival 3) (flying [opLd]) (fun s => decide (reg s 0 23 = 0xFFFFFF80 ∧ s.ops = [] ∧ (s.group? g0).map Group.counts = some [] ∧ s.mem = acc.mem)) = true ∧
    after (.loadResultArrival 3) (flying [opLds]) (fun s => decide (reg s 0 23 = 0xFFFFFF80)) = true := by decide +kernel

/-- An atomic whose old value has come back. -/
def opBack : Op := { opAt .device (some 23) with answer := some [1, 2, 3, 4] }

theorem test_atomic_result : (flying [opBack]).op? opBack.id = some opBack ∧ OpKind.cls opBack.kind = .at_ ∧ (flying [opBack]).opDue opBack = true ∧
    after (.loadResultArrival 3) (flying [opBack]) (fun s => decide (reg s 0 23 = 0x04030201)) = true := by decide +kernel

/-- A byte that the core has written, at 65544, and no block or line. -/
def written1 (pub : Option Nat) : State := { acc with
  cores := [(0, { Machine.Core.reset with writes := [{ addr := 65544, val := 0x33, perf := 5, pub := pub, under := 0x80, underDev := 0x80, engine := none }] })] }

theorem test_load_bytes : isRemote 65544 = false ∧ (∀ x ∈ (acc.core lane0.core).writes, x.addr ≠ 65544) ∧
    (∀ x ∈ (acc.core lane0.core).images, x.word ≠ 65544 / 16) ∧ (acc.die lane0.core.die).line? (65544 / 128) = none ∧
    (imaged acc lane0 [65544] []).loadByte lane0 false 65544 = 0x80 ∧
    (((written1 none).core lane0.core).writes.filter fun w => decide (w.addr = 65544)).getLast? =
      some { addr := 65544, val := 0x33, perf := 5, pub := none, under := 0x80, underDev := 0x80, engine := none } ∧
    (imaged (written1 none) lane0 [65544] []).loadByte lane0 false 65544 = 0x33 ∧
    (∀ w ∈ ((written1 none).core lane0.core).writes, w.addr = 65544 → lane0.acqAt < w.perf ∧ w.pub = none) ∧
    (imaged (written1 none) lane0 [65544] []).loadByte lane0 true 65544 = 0x80 := by decide +kernel

theorem test_stores : (pieceBytes [(65545, 2)]).Nodup ∧ opSt.data.length = (pieceBytes [(65545, 2)]).length ∧ opSts.data.length = opSts.size ∧
    after (.storePerform 3) (flying [opSt]) (fun s => decide (s.teamByte placeCore 65546 = 0xBB ∧ s.teamByte placeCore 65544 = 0x80 ∧ s.mem = acc.mem ∧
      s.ops = [])) = true ∧
    after (.storePerform 3) (flying [opSts]) (fun s => decide ((s.team? { grid := 0, team := 0 }).map Team.spad = some [(4, 0xAA), (5, 0xBB)])) = true := by
  decide +kernel

theorem test_atomics : (pieceBytes [(65544, 4)]).Nodup ∧ (pieceBytes [(65544, 4)]).length = (opAt .device none).size ∧
    (flying [opAt .device none]).gate ((flying [opAt .device none]).lateRoute (opAt .device none)) = .go ∧ (3 : Nat) < 2 ^ (8 * 4) ∧
    after (.atomicPerform 3) (flying [opAt .device none]) (fun s => decide (Memory.readN s.mem 65544 4 = [0x83, 0x01, 0, 0] ∧ s.ops = [])) = true ∧
    after (.atomicPerform 3) (flying [opAt .team (some 23)]) (fun s => decide (s.mem = acc.mem ∧ s.teamByte placeCore 65544 = 0x83 ∧
      s.ops.map Op.answer = [some [0x80, 0x01, 0, 0]])) = true ∧
    after (.atomicPerform 3) (flying [opAts]) (fun s => decide ((s.team? { grid := 0, team := 0 }).map Team.spad = some [(4, 9)] ∧
      s.ops.map Op.answer = [some [0x80, 0, 0, 0]])) = true := by decide +kernel

def opRel (sc : Scope) : Op := op0 4 (.rel sc) .none 0 none []

theorem test_phases : after (.phaseAcq .cluster) acc (fun s => decide (s.ops.map Op.kind = [.acq .cluster] ∧ (th s 0).wait = .phase 1)) = true ∧
    after (.fence { ld := true, st := true, atom := true, iss := false, cm := false } { ld := true, st := false, atom := false, iss := false, cm := false })
      (flying [opLd]) (fun s => decide ((th s 0).fences.map (fun x => x.2.2) = [[3]])) = true ∧
    ({ written1 none with ops := [opRel .device] } : State).relOf lane0.id = some (opRel .device) ∧
    ({ written1 none with ops := [opRel .device] } : State).gate (({ written1 none with ops := [opRel .device] } : State).lateRoute (opRel .device)) = .go ∧
    ({ written1 none with ops := [opRel .device] } : State).waitsLock (opRel .device) = false ∧
    ({ written1 none with ops := [opRel .device] } : State).frameMoved 65544 = false ∧
    after (.phaseRelComplete lane0.id) { written1 none with ops := [opRel .device] } (fun s => decide (Memory.read s.mem 65544 = 0x33 ∧ s.ops = [])) = true ∧
    after (.phaseRelComplete lane0.id) { written1 none with ops := [opRel .cluster] }
      (fun s => decide (s.mem = acc.mem ∧ s.readL2 0 65544 = 0x33)) = true := by decide +kernel

def opRelDom : Op := { opRel .domain with sent := true }
def opAcq : Op := op0 4 (.acq .device) .none 0 none []
def acquiring : State := { acc with ops := [opAcq], threads := [{ lane0 with wait := .phase 4 }] }

theorem test_acquire : (opRelDom.kind.scope = .domain ∧ opRelDom.sent = true ∧ ∀ m ∈ opRelDom.marks, acc.unackedAt m = false) ∧
    (acquiring.ops.find? fun x => decide (x.th = lane0.id) && acquiring.opDue x && (match x.kind with
      | .acq _ => true
      | .relacq _ true => true
      | _ => false)) = some opAcq ∧ (∀ g ∈ acquiring.groups, ({ lane0 with wait := .phase 4 } : Thread).loadRecipes g = []) ∧
    after (.phaseAcqComplete lane0.id) acquiring (fun s => decide ((th s 0).wait = .none ∧ (th s 0).phaseno = 1 ∧ (th s 0).nextAt = 2 ∧ s.ops = [])) = true := by
  decide +kernel

def opCm (lv : Nat) : Op := op0 4 (.cmaint .clean lv [(65544, 2)]) .none 0 none []
def maint : State := { acc with threads := [lane 0 [(20, 0), (22, 300), (24, 256)]] }
def laneM : Thread := lane 0 [(20, 0), (22, 300), (24, 256)]

theorem test_cmaint : OneLane maint laneM ∧ (rangePieces cap0 0 300).2 = true ∧ (rangePieces cap0 0 256).2 = false ∧
    after (.cmaint .clean 3 2 20 22) maint (fun s => decide (causeOf s 0 = 0x05 ∧ s.ops = [])) = true ∧
    after (.cmaint .clean 3 1 20 22) maint (fun s => decide ((th s 0).oobflag = true ∧ s.ops.length = 1)) = true ∧
    after (.cmaint .clean 3 1 20 20) maint (fun s => decide (s.ops = [] ∧ (th s 0).retired = 1)) = true ∧
    ({ written1 none with ops := [opCm 3] } : State).opDue (opCm 3) = true ∧
    ({ written1 none with ops := [opCm 3] } : State).gate (({ written1 none with ops := [opCm 3] } : State).lateRoute (opCm 3)) = .go ∧
    ({ written1 none with ops := [opCm 3] } : State).waitsLock (opCm 3) = false ∧
    after (.cmaintComplete 4) { written1 none with ops := [opCm 3] } (fun s => decide (Memory.read s.mem 65544 = 0x33)) = true ∧
    after (.pref 1 0 20) maint (fun s => decide ((th s 0).retired = 1)) = true := by
  refine ⟨oneLane_of (by decide +kernel), ?_, ?_, ?_, ?_, ?_, ?_, ?_, ?_, ?_, ?_⟩ <;> decide +kernel

def line1 : L2Line := { line := 512, fill := some 0, clean := [], dirty := [{ addr := 65544, val := 0x44, cores := [0], pub := 0 }], poison := false }
def blk1 : Block := {
  line := 512, first := 0, len := 4, owner := g0, part := 0, touched := 1, evict := false, keep := false, sized := none, nextMiss := false, lastUse := 0, ready := 0, winTouched := [] }
def cached : State := { acc with
  dies := [(0, { noon with l2 := [line1] }), (4, noon), (5, noon)], cores := [(0, { Machine.Core.reset with blocks := [blk1] })] }

theorem test_evictions : (cached.core placeCore).blocks.find? (fun b => b.covers (65544 / 128) (65544 / 16 % 8)) = some blk1 ∧
    after (.l1Eviction 0 0 65544) cached (fun s => decide ((s.core placeCore).blocks = [])) = true ∧
    after (.l1Eviction 0 0 65792) cached (fun s => decide (s = cached)) = true ∧
    ((cached.core placeCore).blocks.all fun b => !(b.covers (65792 / 128) (65792 / 16 % 8))) = true ∧
    (cached.die 0).line? (65544 / 128) = some line1 ∧ line1.dirty ≠ [] ∧ cached.frameLocked 65544 = false ∧ (((cached.die 0).l2.flatMap L2Line.dirty).map Dirty.addr).Nodup ∧
    after (.l2Eviction 0 65544) cached (fun s => decide (Memory.read s.mem 65544 = 0x44 ∧ Memory.read s.mem 65545 = 1)) = true ∧
    ((({ cached with dies := [(0, { noon with l2 := [{ line1 with dirty := [] }] })] } : State).die 0).line? 512).isSome = true ∧
    after (.l2Eviction 0 65544) { cached with dies := [(0, { noon with l2 := [{ line1 with dirty := [] }] })] }
      (fun s => decide (s.mem = acc.mem ∧ ((s.die 0).line? 512) = none)) = true := by decide +kernel

/-! ## Capabilities -/

/-- The 256 bits of a capability (R172): BASE 65536, EXTENT 64, TENANT 0, STRIDE 4, PERM R, W and NAR. -/
def capRaw : Nat := 65536 + 64 * 2 ^ 64 + 4 * 2 ^ 128 + 0x83 * 2 ^ 160
def tabled : State := { acc with grids := [{ placeGrid with capTab := [capRaw, capRaw + 2 ^ 57] }] }

theorem test_cap_bits : capOfBits capRaw = some { base := 65536, extent := 64, tenant := 0, stride := 4, swz := 0, perm := 0x83, device := 0 } ∧
    capOfBits (capRaw + 2 ^ 57) = none ∧ capOfBits (2 ^ 57 - 1 + 2 ^ 64) = some { base := 2 ^ 57 - 1, extent := 1, tenant := 0, stride := 0, swz := 0, perm := 0, device := 0 } ∧
    capOfBits (2 ^ 57 - 1 + 2 * 2 ^ 64) = none ∧ capOfBits (0x43 * 2 ^ 160) = none ∧ capOfBits (1 * 2 ^ 168) = none ∧ capRaw < 2 ^ 256 := by
  decide +kernel

theorem test_capld : OneLane tabled lane0 ∧ tabled.capEntry lane0 1 = none ∧ tabled.capEntry lane0 0 = capOfBits capRaw ∧
    after (.capld 9 1) tabled (fun s => decide (causeOf s 0 = 0x04)) = true ∧ after (.capld 9 2) tabled (fun s => decide (causeOf s 0 = 0x04)) = true ∧
    after (.capld 9 0) tabled (fun s => decide (s.capOf lane0.id.tmid 9 = none ∧ (th s 0).retired = 1 ∧
      (s.team? lane0.id.tmid).map (fun x => x.capWrites.map fun w => (w.1, w.2.2)) = some [(9, 8)])) = true ∧
    after (.capWriteEffect lane0.id.tmid) { tabled with teams := [{ newTeam placeGrid 0 placeCore 0 with capWrites := [(9, some cap0, 0), (8, some cap0, 1)] }] }
      (fun s => decide (s.capOf lane0.id.tmid 9 = some cap0 ∧ s.capOf lane0.id.tmid 8 = none)) = true := by
  refine ⟨oneLane_of (by decide +kernel), ?_, ?_, ?_, ?_, ?_, ?_⟩ <;> decide +kernel

def pendingCaps (s : State) : List (Nat × Option Cap × Nat) := ((s.team? lane0.id.tmid).map Team.capWrites).getD []
def narrowing : State := { acc with threads := [lane 0 [(20, 16), (22, 240), (24, 241)]] }

theorem test_capnar : OneLane narrowing (lane 0 [(20, 16), (22, 240), (24, 241)]) ∧ narrowing.capOf lane0.id.tmid 6 = some { cap0 with perm := 0xFF } ∧
    after (.capnar 9 1 20 22 7) narrowing (fun s => decide (causeOf s 0 = 0x04)) = true ∧
    after (.capnar 9 6 20 24 7) narrowing (fun s => decide (causeOf s 0 = 0x05)) = true ∧
    after (.capnar 9 6 20 22 0x81) narrowing (fun s => decide (pendingCaps s = [(9, some { cap0 with base := 65552, extent := 240, perm := 0x91 }, 1)])) = true ∧
    after (.capswz 6 6 0x4B) narrowing (fun s => decide (pendingCaps s = [(6, some { cap0 with perm := 0xFF, swz := 0x4B }, 1)])) = true ∧
    after (.capdrop 6) narrowing (fun s => decide (pendingCaps s = [(6, none, 1)] ∧ s.capOf lane0.id.tmid 1 = some cap0)) = true ∧
    after (.capq .extent 24 6) narrowing (fun s => decide (reg s 0 24 = 256)) = true ∧
    after (.lease 20) narrowing (fun s => decide ((s.group? g0).map Group.declared = some (some 16))) = true := by
  refine ⟨oneLane_of (by decide +kernel), ?_, ?_, ?_, ?_, ?_, ?_, ?_, ?_⟩ <;> decide +kernel

/-! ## Faults in flight -/

def heldFault (u : Nat) : Thread := { lane u [] with wait := .fault 7 0x03 2 (70000 + u) 0 0 }
def faulting : State := { trio with threads := [heldFault 0, lane 1 [], heldFault 2] }

theorem test_data_fault : (∀ o ∈ faulting.ops, o.iss ≠ 7) ∧ (∃ t ∈ faulting.threads, t.park = none ∧ t.wait = .fault 7 0x03 2 70000 0 0) ∧
    after (.dataFaultPark 7) faulting (fun s => decide (causeOf s 0 = 3 ∧ causeOf s 1 = 0 ∧ causeOf s 2 = 3 ∧
      (s.die 0).waiting.map (fun r => (r.word 0, r.word 4, r.word 8)) = [(0x03000200, 5, 70000)])) = true := by decide +kernel

def opFar : Op := op0 3 (.load .n32 false) (.mem [(remoteKey 9 65544, 4)]) 4 (some 23) []
def downPort : State := { flying [opFar] with
  domain := [(9, { dev := 9, port := 2, latency := 0 })], ports := [(2, { Port.reset with st := .down })] }

theorem test_remote_failure : downPort.op? opFar.id = some opFar ∧ downPort.thread? opFar.th = some lane0 ∧ downPort.remoteFails opFar = true ∧
    downPort.matesOf opFar downPort.remoteFails = [opFar] ∧
    after (.remoteAccessFailure 3) downPort (fun s => decide (causeOf s 0 = 0x0D ∧ (th s 0).zeroes = [(7, 23, 1)] ∧ s.ops = [])) = true := by decide +kernel

def opStall : Op := { op0 3 (.load .n8 false) (.mem [(65544, 1)]) 1 (some 23) [] with stall := some 0 }
def duskLong : State := { flying [opStall] with
  threads := [{ lane0 with wait := .dusk 3 }], dies := [(0, noon), (4, noon), (5, { noon with st := .dusk })], clock := { acc.clock with cycle := 28000 } }

theorem test_dusk_timeout : duskLong.thread? opStall.th = some { lane0 with wait := .dusk 3 } ∧ opStall.num = opStall.iss ∧ duskLong.duskLate opStall = true ∧
    duskLong.matesOf opStall duskLong.duskLate = [opStall] ∧ ({ duskLong with clock := { acc.clock with cycle := 27999 } } : State).duskLate opStall = false ∧
    after (.duskStallTimeout 3) duskLong (fun s => decide ((th s 0).park = some { cause := 0x0C, addr0 := 65528, addr1 := 65544, resume := 65528 } ∧ s.ops = [] ∧
      (s.die 0).waiting.map (fun r => r.word 10 / 2 ^ 29) = [5])) = true := by decide +kernel

/-- Frame 1's entry, held by agent d. -/
def opLocked : Op := { opSt with stall := some 0 }
def lockedBy (d : Nat) : State := { flying [opLocked] with
  root := { acc.root with frameTable := 1048576 }, mem := Memory.writeN [] 1048584 (natLE 8 (2 ^ 63 + d * 2 ^ 42)), clock := { acc.clock with cycle := 140000 } }

theorem test_locked_frame : ∃ d ∈ [9, 10], (lockedBy d).op? opLocked.id = some opLocked ∧ (lockedBy d).thread? opLocked.th = some lane0 ∧
    (lockedBy d).mayPark opLocked.th = true ∧ opLocked.stall = some 0 ∧ 0 + 140000 ≤ (lockedBy d).clock.cycle ∧ (lockedBy d).waitsLock opLocked = true ∧
    (lockedBy d).ops.filter (fun x => decide (x.num = opLocked.num)) = [opLocked] ∧ opLocked.num = opLocked.iss ∧ opLocked.kind.counted = true ∧
    lane0.wait = .none := by
  have f : ∀ d ∈ [9, 10], ((lockedBy d).frameWord 65545).testBit 63 = true ∧ (lockedBy d).frameWord 65545 / 2 ^ 42 % 2 ^ 21 = d ∧
      (lockedBy d).op? opLocked.id = some opLocked ∧ (lockedBy d).thread? opLocked.th = some lane0 ∧ (lockedBy d).mayPark opLocked.th = true ∧
      0 + 140000 ≤ (lockedBy d).clock.cycle ∧ (lockedBy d).ops.filter (fun x => decide (x.num = opLocked.num)) = [opLocked] := by decide +kernel
  have k : ∀ d, ((lockedBy d).frameWord 65545).testBit 63 = true → (lockedBy d).frameWord 65545 / 2 ^ 42 % 2 ^ 21 = d → d ≠ Config.devid.toNat →
      (lockedBy d).waitsLock opLocked = true := fun d a b c => by
    have r : isRemote 65545 = false := by decide
    have z : (lockedBy d).frameWord 65545 / 2 ^ 42 % 2 ^ 21 ≠ Config.devid.toNat := fun h => c (b ▸ h)
    have l : (lockedBy d).frameLocked 65545 = true := by
      show (((lockedBy d).frameWord 65545).testBit 63 && decide ((lockedBy d).frameWord 65545 / 2 ^ 42 % 2 ^ 21 ≠ Config.devid.toNat)) = true
      rw [a, decide_eq_true z]; rfl
    have m : Space.keys opLocked.space = [65545, 65546] := rfl
    have n : opLocked.kind = .store := rfl
    simp [State.waitsLock, m, n, r, l]
  by_cases h : Config.devid.toNat = 9
  · obtain ⟨a, b, c, e, p, q, r⟩ := f 10 (by decide)
    exact ⟨10, by decide, c, e, p, rfl, q, k 10 a b (by omega), r, rfl, rfl, rfl⟩
  · obtain ⟨a, b, c, e, p, q, r⟩ := f 9 (by decide)
    exact ⟨9, by decide, c, e, p, rfl, q, k 9 a b (Ne.symm h), r, rfl, rfl, rfl⟩

def tabled0 (e : Nat) : State := { acc with root := { acc.root with frameTable := 1048576 }, mem := Memory.writeN [] 1048584 (natLE 8 e) }

theorem test_migration : (tabled0 0x55).root.frameTable ≠ 0 ∧ (3 : Nat) < 2 ^ 21 ∧
    after (.migrationRequest 1 3) (tabled0 0x55) (fun s => decide (s.root.requests = [(1, 3)] ∧ s.dev64 1048584 = 0x55)) = true ∧
    ((tabled0 0x55).request (1, 3)).root.reports = [(0x30, 0x55)] ∧ ((tabled0 0x55).request (1, 3)).dev64 1048584 = 2 ^ 63 + 3 * 2 ^ 42 + 0x55 ∧
    ((tabled0 (2 ^ 63)).request (1, 3)).root.reports = [(0x30, 2 ^ 63)] ∧ ((tabled0 (2 ^ 63)).request (1, 3)).mem = (tabled0 (2 ^ 63)).mem ∧
    ((tabled0 (2 ^ 63 + 3 * 2 ^ 42)).dev64 1048584).testBit 63 = true ∧ (tabled0 (2 ^ 63 + 3 * 2 ^ 42)).dev64 1048584 / 2 ^ 42 % 2 ^ 21 = 3 ∧
    (∀ o ∈ (tabled0 0).ops, (tabled0 0).waitsLock o = false) ∧ (2 ^ 31 - 1 : Nat) < 2 ^ 31 ∧
    after (.migrationMoveComplete 1 3 (2 ^ 31 - 1)) (tabled0 (2 ^ 63 + 3 * 2 ^ 42))
      (fun s => decide ((s.dev64 1048584).testBit 63 = false ∧ (s.dev64 1048584).testBit 41 = true ∧ s.dev64 1048584 % 2 ^ 31 = 2 ^ 31 - 1)) = true := by
  decide +kernel

/-! ## Recipes -/

/-- The slice ADDI g30, g20, 5, and a group that records it. -/
def entry1 : REntry := {
  addr := 65536, d := 30, wide := false, members := [.addi 30 20 5], words := [0x143D5005], inputs := [20], cap := none, wb := 0, joined := [(0, 1)] }
def gRec : Group := { placeGroup 0 with recipes := [(0, entry1)], thresh := 2 }
def laneRec (f : RForm) : Thread := { lane0 with forms := [(30, f)] }
def recState (f : RForm) : State := { acc with threads := [laneRec f], groups := [gRec] }
def asRecipe : RForm := { recipe := true, backed := false, entry := 0 }
def asBacked : RForm := { recipe := false, backed := true, entry := 0 }

theorem test_matz : OneLane (recState asRecipe) (laneRec asRecipe) ∧ (recState asRecipe).group? lane0.id.gid = some gRec ∧ gRec.reserve = 8 ∧
    (laneRec asRecipe).entriesOf gRec [regNo 0 30] = [entry1] ∧ regNo 0 30 ∈ REntry.dests entry1 ∧
    (recState asRecipe).regenEntry entry1 (laneRec asRecipe) = (((recState asRecipe).regenEntry entry1 (laneRec asRecipe)).1, .ok ([(30, 7)], 4)) ∧
    ((recState asRecipe).regenEntry entry1 (laneRec asRecipe)).1.thread? lane0.id = some (laneRec asRecipe) ∧
    (((recState asRecipe).regenEntry entry1 (laneRec asRecipe)).1.group? lane0.id.gid).isSome = true ∧
    after (.matz 30) (recState asRecipe) (fun s => decide (reg s 0 30 = 7 ∧ tget RForm.value (th s 0).forms 30 = RForm.value)) = true ∧
    (∀ f ∈ (laneRec asBacked).forms, f.2.recipe = false) ∧
    after (.matz 0) (recState asBacked) (fun s => decide (tget RForm.value (th s 0).forms 30 = RForm.value)) = true := by
  refine ⟨oneLane_of (by decide +kernel), ?_, ?_, ?_, ?_, Prod.ext rfl (ok_of ?_), ?_, ?_, ?_, ?_, ?_⟩ <;> decide +kernel

theorem test_recipes : after (.slice 30 4) acc (fun s => decide ((th s 0).slice.map (fun r => (r.left, r.d, r.addr)) = some (4, 30, 65536))) = true ∧
    after (.rcpst 23 30) (recState asRecipe) (fun s => decide (reg s 0 23 = 1)) = true ∧
    after (.rcpst 23 20) (recState asRecipe) (fun s => decide (reg s 0 23 = 0x1002)) = true ∧
    after (.rcppol 15) acc (fun s => decide ((s.group? g0).map Group.thresh = some 15)) = true ∧
    (recState asBacked).groupThreads g0 = [laneRec asBacked] ∧ gRec.entry? (tget RForm.value (laneRec asBacked).forms 30).entry = some entry1 ∧
    (recState asBacked).mayConvert gRec 30 (laneRec asBacked) = true ∧ gRec.reserve = 8 ∧ gRec.thresh ≠ 0 ∧ gRec.thresh * 128 < (recState asBacked).pressure (Group.qid gRec) ∧
    after (.recipeConversion g0 30) (recState asBacked) (fun s => decide ((tget RForm.value (th s 0).forms 30).recipe = true ∧ reg s 0 30 = reg (recState asBacked) 0 30)) = true := by
  decide +kernel

def short : Group := { placeGroup 0 with reserve := 3 }
def refilling : State := { acc with groups := [short], threads := [{ lane0 with wait := .refill 5 }] }

theorem test_refill : refilling.group? g0 = some short ∧ Group.holdsRows short = true ∧ short.reserve < 8 ∧
    5 ≤ (refilling.refill g0).freeRows (Group.qid short) 0 short.laneBase short.width ∧
    after (.reserveRefill g0) refilling (fun s => decide ((s.group? g0).map Group.reserve = some 8 ∧ (th s 0).wait = .none)) = true := by decide +kernel

/-! ## The matrix engine -/

theorem oneGroup_of {s : State} {l : Thread} {rest : List Thread} (h : s.bundleThreads = l :: rest ∧ (∀ u ∈ rest, u.id.gid = l.id.gid) ∧
    ((l :: rest).map Thread.id).Nodup ∧ ∀ u ∈ l :: rest, s.thread? u.id = some u ∧ u.redo = []) : OneGroup s l rest :=
  ⟨h.1, h.2.1, h.2.2.1, h.2.2.2⟩

/-- A TMM block at g32 (AF 64, f16, ZA, tile 5), a TEPI block at g40 (tile 5, f32 through k1), ones in g64 of lane 0. -/
def blkRegs : List (Nat × Word) := [(32, BitVec.ofNat 32 (64 * 2 ^ 24 + 9 * 2 ^ 19 + 2 ^ 17 + 5)), (40, 5), (41, 0x203),
  (42, BitVec.ofNat 32 (1 * 2 ^ 28 + 8 * 2 ^ 19)), (43, 0x3F800000), (50, 48), (51, 1024), (64, 0x3C003C00)]
def mLead : Thread := lane 0 blkRegs
def mMate : Thread := lane 1 [(64, 0x40004000)]
def mtx : State := { acc with
  threads := [mLead, mMate], issue := { acc.issue with bundle := [mLead.id, mMate.id] },
  quads := [(0, { Quad.reset with tlb := [placeTlb], issuedFmt := some .f16 })] }

theorem test_one_group : OneGroup mtx mLead [mMate] := oneGroup_of (by decide +kernel)

theorem test_matrix_asks : ∀ i ∈ [Instr.wld .cb2 .self 64, .wlds .self 64, .cbld 0 0, .tzero 11, .trd .f16x2 .sto false 70 5, .twr .f32 5 64, .tfuse 0,
    .tstat true 23 0, .tepi 40, .tmm 32], ∃ q, mtxAsk { mtx with
      quads := [(0, { Quad.reset with tlb := [placeTlb], issuedFmt := some (if i = .wlds .self 64 then .e4m3 else .f16) })] } mLead [mLead, mMate] i = some q := by
  intro i hi
  exact Option.isSome_iff_exists.mp ((by decide +kernel : ∀ i ∈ [Instr.wld .cb2 .self 64, .wlds .self 64, .cbld 0 0, .tzero 11, .trd .f16x2 .sto false 70 5,
    .twr .f32 5 64, .tfuse 0, .tstat true 23 0, .tepi 40, .tmm 32], (mtxAsk { mtx with
      quads := [(0, { Quad.reset with tlb := [placeTlb], issuedFmt := some (if i = .wlds .self 64 then .e4m3 else .f16) })] } mLead [mLead, mMate] i).isSome = true)
    i hi)

theorem test_matrix_issue : after (.tmm 32) mtx (fun s => decide (s.cmds.map (fun c => (c.st, c.due, c.target, c.tile, c.counted)) = [(.capture, 20, 0, 5, true)] ∧
      (th s 0).wait = .capture 1 ∧ (th s 1).wait = .none ∧ (th s 0).retired = 1 ∧ (th s 1).retired = 0 ∧ (th s 1).pc = 65544)) = true ∧
    after (.tepi 40) mtx (fun s => decide (s.cmds.map (fun c => (c.st, c.cw)) = [(.capture, some 3)])) = true ∧
    after (.twr .f32 5 64) mtx (fun s => decide ((th s 0).wait = .capture 1 ∧ (th s 1).wait = .capture 1 ∧ (th s 1).retired = 1)) = true ∧
    after (.wld .e4m3 .self 64) mtx (fun s => decide ((s.quad (quadOn placeCore 0)).issuedFmt = some .e4m3)) = true := by decide +kernel

theorem test_matrix_refusals : (∀ i ∈ [Instr.wld .f32 .self 64, .cbld 64 0, .tzero 48, .trd .f32 .rne false 70 12, .twr .f32 12 64, .tfuse 1,
      .tstat false 23 12, .tepi 50, .tmm 50], (mtxAsk mtx mLead [mLead, mMate] i).isNone = true) ∧
    (mLead.regsFrom (regNo mLead.wb 50) 8).getD 1 0 ≥ 1024 ∧ mtx.latchTarget mLead (.quad 1) = none ∧
    (∀ i ∈ [Instr.wld .f32 .self 64, .cbld 64 0, .tzero 48, .tepi 50, .tmm 50, .wlds (.quad 1) 64],
      after i mtx (fun s => decide (causeOf s 0 = 0x0F ∧ causeOf s 1 = 0x0F ∧ s.cmds = [])) = true) := by decide +kernel

/-- A matrix command. -/
def cmd0 (n : Nat) (k : CmdKind) (st : CmdState) : Cmd :=
  { id := n, kind := k, st := st, th := mLead.id, core := placeCore, quad := 0, target := 0, tile := 5, regs := [64], at_ := 0, due := 0, cw := some 2,
    guard := none, dreg := 20, bytes := 0, bound := 0, moved := 0, ahead := [], contrib := none, taken := [], asks := [], got := [], marks := [],
    lost := 0, stalls := [], reqtag := 0, tenant := 0, part := 0,
    counted := true, pc := 65536, wb := 0 }
def queued (cs : List Cmd) : State := { mtx with cmds := cs, threads := [{ mLead with wait := .capture 3 }, mMate] }

theorem test_capture_and_begin : (queued [cmd0 3 .tzero .capture]).cmd? 3 = some (cmd0 3 .tzero .capture) ∧ (cmd0 3 .tzero .capture).isMatrix = true ∧
    after (.matrixCaptureEnd 3) (queued [cmd0 3 .tzero .capture]) (fun s => decide (s.cmds.map Cmd.st = [.queued] ∧ (th s 0).wait = .none)) = true ∧
    (queued [cmd0 3 .tzero .queued]).mayBegin (cmd0 3 .tzero .queued) = true ∧
    after (.matrixCommandBegin 3) (queued [cmd0 3 .tzero .queued]) (fun s => decide (s.cmds.map (fun c => (c.st, c.due)) = [(.running, 16)])) = true ∧
    cmd0 2 .tzero .running ∈ (queued [cmd0 2 .tzero .running, cmd0 3 .tzero .queued]).cmds ∧ (5 / 12, 5 % 12) ∈ (cmd0 2 .tzero .running).tiles ∧
    (queued []).teamSaved mLead.id.tmid = false ∧
    after (.matrixCommandBegin 3) (queued [cmd0 2 .tzero .running, cmd0 3 .tzero .queued])
      (fun s => decide (s = queued [cmd0 2 .tzero .running, cmd0 3 .tzero .queued])) = true := by decide +kernel

def runs (k : CmdKind) : State := queued [cmd0 3 k .running]
def epi0 : EpiDesc := {
  oty := 8, osat := false, rm := .rne, act := 0, ben := false, nrow := 0, scale := 0x3F800000, ooff := 0, boff := 0, alpha := 0, hi := 0,
  out := cap0, bias := Cap.zero, seed := 0 }

theorem test_commands_may_complete : ∀ k ∈ [CmdKind.wld .f16 [(0, [0x3C003C00])], .wld .cb2 [(0, [0x00000102])], .wlds 2 [(0, [0x7F7F7F7F])], .cbld [(0, 5), (255, 7)],
    .tzero, .twr [(0, List.replicate 64 9)], .trd .f32 false 70 [(mLead.id, .rne, 1)], .tstat true 23 [mLead.id],
    .tmm .f16 0 true [(0, List.replicate 64 0, [])] none, .tmm .f16 0 true [] (some epi0)], (runs k).mayComplete (cmd0 3 k .running) = true := by
  decide +kernel

theorem test_command_effects : after (.matrixCommandComplete 3) (runs (.wld .e4m3 [(0, [0x04030201])])) (fun s => decide
      ((s.quad (quadOn placeCore 0)).latch.cols = [(0, [1, 2, 3, 4])] ∧ s.cmds = [] ∧ (s.team? mLead.id.tmid).map (fun t => (tget 0 t.w 2, tget 0 t.wstat 2)) = some (1, 1))) = true ∧
    after (.matrixCommandComplete 3) (runs (.cbld [(0, 5), (255, 7)])) (fun s => decide (tget 0 (s.core placeCore).codebook 255 = 7)) = true ∧
    after (.matrixCommandComplete 3) (runs (.twr [(1, 3 :: List.replicate 63 9)])) (fun s => decide (tget 0 (s.accTile placeCore 0 5).els 64 = 3 ∧ tget 0 (s.accTile placeCore 0 5).els 127 = 9)) = true ∧
    after (.matrixCommandComplete 3) (runs (.tstat true 23 [mLead.id])) (fun s => decide (reg s 0 23 = 0x00090000)) = true ∧
    after (.matrixCommandComplete 3) (runs (.tmm .f16 0 true [] (some epi0))) (fun s => decide (s.cmds.map (fun c => (c.st, c.due)) = [(.copyOut, 16)])) = true ∧
    after (.tfuseEffect 3) (runs (.tfuse 7)) (fun s => decide (tget 0 (s.core placeCore).fuse 0 = 7 ∧ s.cmds = [])) = true := by decide +kernel

/-- R248: index 0x0102 reads entry 1: magnitude code 3 of element 0 is 6 quarters with the sign of bit 1; R251: 2 x 3 in one of 32 products. -/
theorem test_formats : cb2Val (fun k => if k = 1 then 0o00000003 else 0) 0x0102 0 = -6 ∧ cb2Val (fun k => if k = 1 then 0o00000003 else 0) 0x0102 7 = 0 ∧
    (tmmElem ((2 :: List.replicate 31 0).map fun v : Int => FV.fin (decide (v < 0)) v.natAbs 0) ((3 :: List.replicate 31 1).map fun v : Int => FV.fin (decide (v < 0)) v.natAbs 0)
      [127] [128] 0x3F800000).bits = 0x41500000 ∧
    (tmmElem ((2 :: List.replicate 31 0).map fun v : Int => FV.fin (decide (v < 0)) v.natAbs 0) ((3 :: List.replicate 31 1).map fun v : Int => FV.fin (decide (v < 0)) v.natAbs 0)
      [255] [127] 0x3F800000).bits = 0x7FC00000 := by decide +kernel

/-- An epilogue entry that drains one row through k1, and through a segment without a translation. -/
def entry0 (st : EpiState) : EpiEntry := { EpiEntry.free with st := st, cmd := 3, tileNo := 5, image := { Tile.zero with els := [(0, 0x40000000)] } }
def draining (o : Cap) (st : EpiState) (c : CmdState) : State := { queued [cmd0 3 (.tepi { epi0 with out := o }) c] with
  quads := [(0, { Quad.reset with tlb := [placeTlb], epi := [(1, entry0 st)] })], clock := { acc.clock with cycle := 4000000 }, threads := [{ mLead with owed := [(3, 0x10, 0)] }, mMate] }
def q0 : QuadId := quadOn placeCore 0

/-- The one row of the entry is stored, and a byte of it was outside. -/
def drained : State := { draining cap0 .draining .draining with
  quads := [(0, { Quad.reset with tlb := [placeTlb], epi := [(1, { entry0 .draining with row := 1, oob := true })] })] }

theorem test_epilogue_copy : ((draining cap0 .draining .copyOut).epiAt q0 0).st = .free ∧ (cmd0 3 (.tepi epi0) .copyOut).epi = some epi0 ∧
    after (.epilogueCopy 3) (draining cap0 .draining .copyOut) (fun s => decide ((s.epiAt q0 0).st = .draining ∧ (s.epiAt q0 0).cmd = 3 ∧ s.cmds.map Cmd.st = [.draining])) = true := by
  decide +kernel

theorem test_epilogue_drain : (drained.epiAt q0 1).st = .draining ∧ epi0.nrow < (drained.epiAt q0 1).row ∧
    after (.epilogueDrainComplete q0 1) drained (fun s => decide (s.cmds = [] ∧ (s.epiAt q0 1).st = .free ∧
      (th s 0).oobflag = true)) = true ∧
    ((draining { cap0 with base := 262144 } .draining .draining).epiFault q0 1).map Prod.snd = some (0, .fault 3 0 262144 none) ∧
    after (.epilogueEntryFault q0 1) (draining { cap0 with base := 262144 } .draining .draining) (fun s => decide (s.cmds.map Cmd.st = [.held 0x10 262144] ∧
      (s.epiAt q0 1).st = .held 3 262144 ∧ (s.die 0).waiting.map (fun r => r.word 0) = [0x10030010])) = true := by decide +kernel

/-- A row of the entry stands in a packet of port 2 that is not acknowledged. -/
def awaiting : State := { drained with
  quads := [(0, { Quad.reset with tlb := [placeTlb], epi := [(1, { entry0 .draining with row := 1, marks := [(0, 2, 7)] })] })],
  ports := [(2, { Port.reset with unacked := [{ somePacket with seq := 7 }] })] }

theorem test_epilogue_awaits : awaiting.unackedAt (2, 7) = true ∧ awaiting.epiFault q0 1 = none ∧
    (awaiting.epiAt q0 1).marks.find? (fun m => awaiting.unackedAt m.2) = some (0, 2, 7) ∧
    after (.epilogueDrainComplete q0 1) awaiting (fun s => decide (s = awaiting)) = true ∧
    after (.epilogueEntryFault q0 1) awaiting (fun s => decide ((s.epiAt q0 1).row = 0 ∧ s.cmds.map (fun c => match c.st with
      | .held k _ => k
      | _ => 0) = [0x10] ∧ (s.die 0).waiting.map (fun r => r.word 0) = [0x100D0010])) = true := by decide +kernel

theorem test_epilogue_held : ((draining cap0 (.held 3 262144) (.held 0x10 0)).epiAt q0 1).st = .held 3 262144 ∧
    (draining cap0 (.held 3 262144) (.held 0x10 0)).cmd? ((draining cap0 (.held 3 262144) (.held 0x10 0)).epiAt q0 1).cmd = some (cmd0 3 (.tepi epi0) (.held 0x10 0)) ∧
    after (.epilogueEntryResolve q0 1) (draining cap0 (.held 3 262144) (.held 0x10 0)) (fun s => decide ((s.epiAt q0 1).st = .draining ∧ (th s 0).owed = [] ∧
      s.cmds.map Cmd.st = [.draining])) = true ∧
    after (.epilogueEntryKill q0 1) (draining cap0 (.held 3 262144) (.held 0x10 0)) (fun s => decide (s.cmds = [] ∧ (s.epiAt q0 1).st = .free ∧
      (s.team? mLead.id.tmid).map (fun t => tget 0 t.wstat 2) = some 0x10003)) = true := by decide +kernel

/-! ## Tiles, slots, copies, collectives, barriers -/

theorem test_tset : (Instr.tsetFill 3 127 true).wf = true ∧ tsetTile (.tsetFill 3 127 true) = some 3 ∧ (acc.team? lane0.id.tmid).map Team.tiles = some [3, 4] ∧
    OneGroup acc lane0 [] ∧ tsetRow (.tsetFill 3 127 true) (acc.tile placeCore 3) 0 = some (3, 1, true, 127, 0) ∧
    after (.tsetFill 3 127 true) acc (fun s => decide (s.tile placeCore 3 = tMake 1 true 0 127 0 4 0 ∧ (th s 0).retired = 1)) = true ∧
    tsetRow (.tsetReady 3) (acc.tile placeCore 3) 0 = none ∧ tsetRow (.tsetEmpty 4) (acc.tile placeCore 4) 1 = none ∧
    after (.tsetReady 3) acc (fun s => decide (causeOf s 0 = 0x0E)) = true ∧ after (.tsetEmpty 5) acc (fun s => decide (causeOf s 0 = 0x0E)) = true := by
  refine ⟨?_, ?_, ?_, oneGroup_of (by decide +kernel), ?_, ?_, ?_, ?_, ?_, ?_⟩ <;> decide +kernel

def owing : State := { acc with threads := [{ lane0 with owed := [(3, 0x14, 99)] }], cmds := [cmd0 3 .tzero (.held 0x14 99)] }

theorem test_twait : (∀ t ∈ acc.threads, t.id ∈ acc.issue.bundle → t.owed = []) ∧ after (.twait 3) acc (fun s => decide ((th s 0).wait = .tile 3)) = true ∧
    after (.twait 5) acc (fun s => decide (causeOf s 0 = 0x0E)) = true ∧
    OneLane owing { lane0 with owed := [(3, 0x14, 99)] } ∧ owing.cmd? 3 = some (cmd0 3 .tzero (.held 0x14 99)) ∧
    after (.twait 3) owing (fun s => decide ((th s 0).park = some { cause := 0x14, addr0 := 65536, addr1 := 99, resume := 65536 } ∧ (th s 0).owed = [] ∧
      (s.die 0).waiting = [])) = true ∧
    after (.tqry .tile 24 4) acc (fun s => decide (reg s 0 25 = 0x60080000 ∧ reg s 0 24 = 0x00080004)) = true ∧
    after (.tqry (.cnt true) 23 2) { acc with teams := [{ newTeam placeGrid 0 placeCore 0 with wstat := [(2, 0x301)] }] }
      (fun s => decide (reg s 0 23 = 0x301 ∧ (s.team? lane0.id.tmid).map Team.wstat = some [])) = true := by
  refine ⟨?_, ?_, ?_, oneLane_of (by decide +kernel), ?_, ?_, ?_, ?_⟩ <;> decide +kernel

def slotted (x : Slot) (cs : List Cmd) (w : Wait) : State := { acc with
  teams := [{ newTeam placeGrid 0 placeCore 0 with y := [(3, x)] }], cmds := cs, threads := [{ lane0 with wait := w }] }
def bound3 : Cmd := { cmd0 3 .tzero .queued with guard := some (3, 5) }

theorem test_slots : OneGroup (slotted { st := .true, gen := 5 } [bound3] .none) lane0 [] ∧
    after (.gslot 3) (slotted { st := .unresolved, gen := 5 } [] .none) (fun s => decide (causeOf s 0 = 0x13)) = true ∧
    (slotted { st := .true, gen := 5 } [] .none).slotWaits lane0.id.tmid 3 5 = false ∧
    after (.gslot 3) (slotted { st := .true, gen := 5 } [] .none) (fun s => decide ((s.team? lane0.id.tmid).map (fun x => x.guardSlot 3) = some { st := .unresolved, gen := 6 })) = true ∧
    (slotted { st := .true, gen := 5 } [bound3] .none).slotWaits lane0.id.tmid 3 5 = true ∧
    after (.gslot 3) (slotted { st := .true, gen := 5 } [bound3] .none) (fun s => decide ((th s 0).wait = .gslot 3 ∧ (th s 0).pc = 65536)) = true ∧
    after (.gres .lead 3 0 true) (slotted { st := .unresolved, gen := 5 } [] .none) (fun s => decide ((s.team? lane0.id.tmid).map (fun x => x.guardSlot 3) = some { st := .false, gen := 5 })) = true ∧
    after (.gres .any 3 0 false) (slotted { st := .free, gen := 5 } [] .none) (fun s => decide (causeOf s 0 = 0x13)) = true ∧
    ((slotted { st := .true, gen := 5 } [] (.gslot 3)).teamThreads lane0.id.tmid).find? (fun t => decide (t.wait = .gslot 3) && t.park.isNone) =
      some { lane0 with wait := .gslot 3 } ∧
    after (.gslotGenerationAdvance lane0.id.tmid 3) (slotted { st := .true, gen := 5 } [] (.gslot 3)) (fun s => decide ((th s 0).wait = .none ∧
      (th s 0).pc = 65544 ∧ (s.team? lane0.id.tmid).map (fun x => x.guardSlot 3) = some { st := .unresolved, gen := 6 })) = true := by
  refine ⟨oneGroup_of (by decide +kernel), ?_, ?_, ?_, ?_, ?_, ?_, ?_, ?_, ?_⟩ <;> decide +kernel

/-- A copy of two words from tile 3 to tile 4, with counter 2 and the descriptor at 65600: CPY g20, g32. -/
def cpyW0 : Nat := 1 * 2 ^ 20 + 3 * 2 ^ 14 + 4 * 2 ^ 8 + 2 ^ 7 + 2 ^ 6
def cLead : Thread := lane 0 [(32, BitVec.ofNat 32 cpyW0), (33, 0x202), (38, 64)]
def dsc0 : List Nat := [2, 1, 0, 4, 0, 0, 0, 4, 0, 0, 0, 0, 0, 0, 0, 0]
def cpyBlk : List Word := [BitVec.ofNat 32 cpyW0, 0x202, 0, 0, 0, 0, 64, 0]
def copying (cs : List Cmd) (w : Wait) : State := { acc with
  threads := [{ cLead with wait := w }], cmds := cs, mem := Memory.writeN [] 65600 (dsc0.flatMap fun v => natLE 4 v),
  teams := [{ newTeam placeGrid 0 placeCore 0 with caps := capsHere ++ [(0, cap0)], tiles := [3, 4], spad := [(0, 0x11), (5, 0x22)] }],
  groups := [{ placeGroup 0 with counts := [{ iss := 3, cls := .nc, left := 1 }] }] }

theorem test_copy_issue : OneGroup (copying [] .none) cLead [] ∧ cLead.regsFrom (regNo 0 32) 8 = cpyBlk ∧
    (copying [] .none).copyCaps cLead false cpyBlk = .ok (Cap.zero, Cap.zero, cap0, Cap.zero) ∧ (copying [] .none).copyTiles cLead.id cLead.core false cpyBlk = .ok () ∧
    (copying [] .none).guardFor cLead cpyBlk = .ok none ∧ copyBlkOk false cpyBlk = true ∧ dscPieces cap0 cpyBlk = .ok [(65600, 16), (65616, 16), (65632, 16), (65648, 16)] ∧
    ((copying [] .none).dscKeys cap0 cLead.qid ((copying [] .none).vfOf cLead.id) [(65600, 16), (65616, 16), (65632, 16), (65648, 16)]).2 =
      .ok [(65600, 16), (65616, 16), (65632, 16), (65648, 16)] ∧
    after (.cpy 20 32) (copying [] .none) (fun s => decide (s.cmds.map (fun c => (c.st, c.cw, c.dreg)) = [(.decide, some 2, 20)] ∧ (th s 0).wait = .status 1 ∧
      (th s 0).pc = 65536)) = true ∧
    (copying [] .none).copyCaps cLead false (0x40000000 :: cpyBlk.tail) = .error { cause := 0x04, info := 20 } ∧
    after (.cpy 20 32) { copying [] .none with threads := [lane 0 [(32, 0x40000000)]] } (fun s => decide (causeOf s 0 = 0x04 ∧ s.cmds = [])) = true := by
  refine ⟨oneGroup_of (by decide +kernel), ?_, ok_of ?_, ok_of ?_, ok_of ?_, ?_, ?_, ok_of ?_, ?_, ?_, ?_⟩
  case refine_9 => exact rfl
  all_goals decide +kernel

def cpyCmd (b : List Word) (st : CmdState) : Cmd := { cmd0 3 (.cpy b Cap.zero Cap.zero cap0) st with regs := dsc0 }

theorem test_copy_decision : (copying [cpyCmd cpyBlk .decide] (.status 3)).cmd? 3 = some (cpyCmd cpyBlk .decide) ∧
    (copying [cpyCmd cpyBlk .decide] (.status 3)).thread? cLead.id = some { cLead with wait := .status 3 } ∧
    (copying [cpyCmd cpyBlk .decide] (.status 3)).admittedLater (cpyCmd cpyBlk .decide) = false ∧
    (copying [cpyCmd cpyBlk .decide] (.status 3)).earlierDone (cpyCmd cpyBlk .decide) = true ∧
    (copying [cpyCmd cpyBlk .decide] (.status 3)).copyTiles cLead.id placeCore false cpyBlk = .ok () ∧
    ((copying [cpyCmd cpyBlk .decide] (.status 3)).readDsc (cpyCmd cpyBlk .decide) cpyBlk cap0).2 = .ok (some dsc0) ∧ dscOk cpyBlk cap0 dsc0 = true ∧
    (copying [cpyCmd cpyBlk .decide] (.status 3)).endsIn (cpyCmd cpyBlk .decide) cpyBlk Cap.zero Cap.zero dsc0 = (true, true) ∧
    after (.commandAdmission 3) (copying [cpyCmd cpyBlk .decide] (.status 3)) (fun s => decide (reg s 0 20 = BitVec.ofNat 32 (21 * 16) ∧
      s.cmds.map (fun c => (c.st, c.bytes, c.counted)) = [(.queued, 8, true)] ∧ (th s 0).pc = 65544)) = true ∧
    copyBlkOk false (1 :: cpyBlk.tail) = false ∧
    after (.commandAdmission 3) (copying [cpyCmd (1 :: cpyBlk.tail) .decide] (.status 3)) (fun s => decide (reg s 0 20 = 2 ∧ s.cmds = [])) = true ∧
    dscOk cpyBlk cap0 (2 :: 1 :: 0 :: 2 :: dsc0.drop 4) = false := by
  refine ⟨?_, ?_, ?_, ?_, ok_of ?_, ok_of ?_, ?_, ?_, ?_, ?_, ?_, ?_⟩ <;> decide +kernel

/-- A deadline of 1 microsecond, against a bound of 2; and a core that has 64 commands. -/
def cpyLate : List Word := cpyBlk.set 1 0x00010202
def full64 : State := copying (cpyCmd cpyBlk .decide :: (List.range 64).map fun i => { cpyCmd cpyBlk .queued with id := 10 + i }) (.status 3)

theorem test_copy_refusals : after (.commandAdmission 3) (copying [cpyCmd cpyLate .decide] (.status 3)) (fun s => decide (reg s 0 20 = BitVec.ofNat 32 (21 * 16 + 1) ∧ s.cmds = [])) = true ∧
    (full64.cmds.filter fun x => !x.isMatrix && decide (x.core = placeCore) && decide (x.st ≠ .decide) && !(full64.teamSaved x.th.tmid)).length ≥ 64 ∧
    after (.commandAdmission 3) full64 (fun s => decide (reg s 0 20 % 16 = 3 ∧ s.cmds.length = 64)) = true := by decide +kernel

theorem test_copy_completes : ((copying [cpyCmd cpyBlk .running] .none).dueCopy 3).map (fun r => (r.1, r.2.whole)) = some (cpyCmd cpyBlk .running, true) ∧
    (copying [cpyCmd cpyBlk .running] .none).noArrival (cpyCmd cpyBlk .running) cpyBlk = false ∧
    (cpyCmd cpyBlk .running).untouched = true ∧ (copying [] .none).teamSaved cLead.id.tmid = false ∧
    tState ((copying [] .none).tile placeCore 4) = 1 ∧ tArrived ((copying [] .none).tile placeCore 4) + 1 < tExpect ((copying [] .none).tile placeCore 4) ∧
    copyOffsets cpyBlk dsc0 = [(0, 0), (4, 4)] ∧ placed 4 4 64 0 = some 4 ∧
    after (.copyComplete 3) (copying [cpyCmd cpyBlk .running] .none) (fun s => decide (s.cmds = [] ∧
      (s.team? cLead.id.tmid).map (fun t => (t.spad, tget 0 t.w 2)) = some ([(0, 0x11), (5, 0x22), (64, 0x11), (69, 0x22)], 1) ∧
      s.tile placeCore 4 = tMake 1 true 0 2 1 4 4)) = true ∧
    after (.copyComplete 3) { copying [cpyCmd cpyBlk .running] .none with cores := [(0, { Machine.Core.reset with tiles := [(3, tMake 2 false 0 0 0 4 0), (4, tMake 1 true 0 2 1 4 4)] })] }
      (fun s => decide (tState (s.tile placeCore 4) = 2)) = true := by decide +kernel

/-- A copy from tile 3, which it drains, into k1 from its 8th byte on; and one into a tile that is not FILLING. -/
def cpyMem : List Word := [BitVec.ofNat 32 (1 * 2 ^ 24 + 3 * 2 ^ 14 + 2 ^ 7 + 2 ^ 5), 0x202, 0, 0, 8, 0, 64, 0]
def memCmd : Cmd := { cmd0 3 (.cpy cpyMem Cap.zero cap0 cap0) .running with regs := dsc0 }
def toMem (e : DWord) (c : Cmd) : State := { copying [c] .none with
  cores := [(0, { Machine.Core.reset with tiles := [(3, tMake e.toNat false 0 0 0 4 0), (4, tMake 2 true 0 2 0 4 4)] })] }

theorem test_copy_to_memory : blkDrain cpyMem = true ∧ blkDT cpyMem = false ∧ ((toMem 3 memCmd).dueCopy 3).map (fun r => (r.2.whole, r.2.puts)) =
      some (true, [.mem [(65544, 0x11), (65545, 0), (65546, 0), (65547, 0)], .mem [(65548, 0), (65549, 0x22), (65550, 0), (65551, 0)]]) ∧
    after (.copyComplete 3) (toMem 3 memCmd) (fun s => decide (tState (s.tile placeCore 3) = 0 ∧ s.teamByte placeCore 65544 = 0x11 ∧
      s.teamByte placeCore 65549 = 0x22 ∧ s.cmds = [])) = true ∧
    (toMem 2 (cpyCmd cpyBlk .running)).noArrival (cpyCmd cpyBlk .running) cpyBlk = true ∧
    after (.copyComplete 3) (toMem 2 (cpyCmd cpyBlk .running)) (fun s => decide ((s.die 0).waiting.map (fun r => r.word 0 / 2 ^ 24) = [0x0E] ∧
      s.cmds.length = 1)) = true := by decide +kernel

/-- A copy from tile 3 to memory that does not translate at its second element's page. -/
def cpyOut : Cmd := { cmd0 3 (.cpy ([0x0000C080] ++ cpyBlk.tail) Cap.zero { cap0 with base := 131068 } cap0) .running with regs := dsc0 }
def cpyrCmd (d : Nat) : Cmd := { cmd0 3 (.cpyr cpyBlk Cap.zero { cap0 with device := d } cap0 Cap.zero) .running with regs := dsc0, contrib := some [] }
def arriving : Transfer :=
  { port := 2, num := 0, tenant := 0, toTile := true, die := 0, core := 0, tile := 4, bytes := [(0, 7), (63, 9)], got := 2, swz := 0, flag := none }

theorem test_copy_faults : ((copying [cpyOut] .none).dueCopy 3).map (fun r => (r.2.stop, r.2.done)) = some (some (1, .fault 3 0 131072 none), [0]) ∧
    after (.copyFaultHold 3) (copying [cpyOut] .none) (fun s => decide (s.cmds.map (fun c => (c.moved, c.counted)) = [(1, true)] ∧
      (s.die 0).waiting.map Record.cmd = [some 3] ∧ (th s 0).owed = [])) = true ∧
    acc.arriveOkAll arriving (portDie 2) = true ∧ acc.root.inbound = [] ∧ (acc.arriveTile arriving none).map Team.id = some { grid := 0, team := 0 } ∧
    after (.cpyrArrival arriving) acc (fun s => decide ((s.team? lane0.id.tmid).map Team.spad = some [(64, 7), (127, 9)] ∧ tArrived (s.tile placeCore 4) = 1)) = true := by
  decide +kernel

/-- One of two devices is another device, and a CPYR to it has left. -/
theorem test_cpyr_away : ∃ d ∈ [9, 10], d ≠ Config.devid.toNat ∧ (copying [cpyrCmd d] .none).cmd? 3 = some (cpyrCmd d) ∧
    (cpyrCmd d).contrib.isSome = true ∧ blkDrain cpyBlk = false ∧ ({ cap0 with device := d } : Cap).device ≠ Config.devid.toNat := by
  by_cases h : Config.devid.toNat = 9
  · exact ⟨10, by decide, by omega, by decide, by decide, by decide, by show 10 ≠ Config.devid.toNat; omega⟩
  · exact ⟨9, by decide, Ne.symm h, by decide, by decide, by decide, by show 9 ≠ Config.devid.toNat; omega⟩

/-- A CRED that adds one n32 word at offset 8 of k1 into offset 16. -/
def credBlk : List Word := [BitVec.ofNat 32 (1 * 2 ^ 28 + 1 * 2 ^ 24 + 1 * 2 ^ 16), 0x03000202, 8, 0, 16, 0, 0, 0]
def credCmd (st : CmdState) : Cmd := cmd0 3 (.cred credBlk cap0 cap0) st
def gathering (m : Nat) : State := { acc with
  cmds := [credCmd .running], parts := [(0, { Part.unset with quads := [{ die := 0, core := 0, quad := 0 }], tags := if m = 0 then [] else [(0, m)] })] }

theorem test_cred_issue : OneGroup { acc with threads := [lane 0 [(32, BitVec.ofNat 32 (1 * 2 ^ 28 + 1 * 2 ^ 24 + 1 * 2 ^ 16))]] }
      (lane 0 [(32, BitVec.ofNat 32 (1 * 2 ^ 28 + 1 * 2 ^ 24 + 1 * 2 ^ 16))]) [] ∧ acc.blockCap lane0 1 0 = .ok cap0 ∧ acc.blockCap lane0 1 1 = .ok cap0 ∧
    ({ acc with cmds := [credCmd .decide] } : State).admittedLater (credCmd .decide) = false ∧
    ({ acc with cmds := [credCmd .decide] } : State).earlierDone (credCmd .decide) = true ∧ ¬ cap0.has 4 ∧ credOk credBlk = true ∧ credSpan credBlk = 0 ∧ credOk (credBlk.set 7 1) = false ∧ blk64 credBlk 4 + credBytes credBlk ≤ cap0.extent ∧
    after (.commandAdmission 3) { acc with cmds := [credCmd .decide], threads := [{ lane0 with wait := .status 3 }] }
      (fun s => decide (reg s 0 20 = BitVec.ofNat 32 (40 * 16) ∧ s.cmds.map Cmd.st = [.queued])) = true := by
  refine ⟨oneGroup_of (by decide +kernel), ok_of ?_, ok_of ?_, ?_, ?_, ?_, ?_, ?_, ?_, ?_, ?_⟩ <;> decide +kernel

theorem test_collectives : (gathering 1).credReady (credCmd .running) credBlk = true ∧ (gathering 1).credMates (credCmd .running) = [credCmd .running] ∧
    (((gathering 1).credRun (credCmd .running) credBlk []).bind fun r => r.2.toOption).map (fun x => (x.1.map Prod.snd, x.2)) =
      some ([[[(65552, 0x80), (65553, 0x01), (65554, 0), (65555, 0)]]], []) ∧
    after (.credInstanceComplete 3 []) (gathering 1) (fun s => decide (s.cmds = [] ∧ s.teamByte placeCore 65552 = 0x80 ∧ (s.team? lane0.id.tmid).map (fun t => tget 0 t.w 2) = some 1)) = true ∧
    credCombine (.int .add .n32) 4 4 [[0xFF, 0xFF, 0xFF, 0xFF], [2, 0, 0, 0]] = [1, 0, 0, 0] ∧
    (gathering 0).credBad (credCmd .running) credBlk = true ∧
    after (.credInstanceFailure 3) (gathering 0) (fun s => decide (s.cmds.map (fun c => match c.st with | .held k _ => k | _ => 0) = [0x14])) = true := by
  decide +kernel

def barred (b : Barrier) (r : List (Nat × Word)) : State := { acc with
  teams := [{ newTeam placeGrid 0 placeCore 0 with bars := [(127, b)] }], threads := [lane 0 r, { lane 1 [] with wait := .bar 127 4 }],
  issue := { acc.issue with bundle := [lane0.id] } }

theorem test_barriers : OneLane (barred { Barrier.reset with gen := 4 } []) (lane 0 []) ∧ (barred { Barrier.reset with gen := 4 } []).accessPending lane0.id = false ∧
    after (.barSync 127 0) (barred { Barrier.reset with gen := 4 } []) (fun s => decide ((th s 0).wait = .bar 127 4 ∧
      (s.team? lane0.id.tmid).map (fun x => ((tget Barrier.reset x.bars 127).c, (tget Barrier.reset x.bars 127).e)) = some (1, 2))) = true ∧
    after (.barSync 127 0) (barred { e := 2, c := 1, live := true, gen := 4, here := [(lane 1 []).id] } []) (fun s => decide ((th s 0).wait = .none ∧ (th s 1).wait = .none ∧
      (s.team? lane0.id.tmid).map (fun x => (tget Barrier.reset x.bars 127).gen) = some 5)) = true ∧
    after (.barArrive 127 20) (barred { Barrier.reset with gen := 4 } [(20, 1025)]) (fun s => decide (causeOf s 0 = 0x14)) = true ∧
    after (.barArrive 127 20) (barred { e := 3, c := 1, live := false, gen := 4, here := [] } [(20, 3)]) (fun s => decide (causeOf s 0 = 0 ∧ (th s 0).retired = 1)) = true ∧
    ({ barred Barrier.reset [] with ops := [opLd] } : State).accessPending lane0.id = true ∧
    after (.barArrive 127 0) { barred Barrier.reset [] with ops := [opLd] } (fun s => decide ((th s 0).wait = .barArrive 127 false 0 false ∧ (th s 0).pc = 65536)) = true ∧
    after (.barWait 127) (barred { Barrier.reset with gen := 4 } []) (fun s => decide ((th s 0).wait = .bar 127 4)) = true ∧
    after (.seqw 15 (.imm 2047)) acc (fun s => decide ((th s 0).wait = .seq 15 2047)) = true := by
  refine ⟨oneLane_of (by decide +kernel), ?_, ?_, ?_, ?_, ?_, ?_, ?_, ?_, ?_⟩ <;> decide +kernel

def tbarred (m : Nat) (at_ : Nat) : State := { acc with
  parts := [(0, { Part.unset with tags := if m = 0 then [] else [(7, m)] })],
  teams := [{ newTeam placeGrid 0 placeCore 0 with tbars := [{ tag := 7, here := [lane0.id], ar := true, arrivedAt := some 10 }] }],
  threads := [{ lane0 with wait := .tbar 7 true }], clock := { acc.clock with cycle := at_ } }

theorem test_tree_barriers : after (.tbar 7 false) acc (fun s => decide (causeOf s 0 = 0x14)) = true ∧ acc.tagMode 0 7 = 0 ∧
    ({ acc with parts := [(0, { Part.unset with tags := [(7, 1)] })] } : State).tagMode 0 7 = 1 ∧
    after (.tbar 7 false) { acc with parts := [(0, { Part.unset with tags := [(7, 2)] })] } (fun s => decide (causeOf s 0 = 0x14)) = true ∧
    ({ acc with parts := [(0, { Part.unset with tags := [(7, 1)] })] } : State).tbarMixed lane0.id 7 false = false ∧
    after (.tbar 7 false) { acc with parts := [(0, { Part.unset with tags := [(7, 1)] })] } (fun s => decide ((th s 0).wait = .tbar 7 false)) = true ∧
    after (.tbar 7 true) { acc with parts := [(0, { Part.unset with tags := [(7, 1)] })] } (fun s => decide ((th s 0).wait = .tbarArrive 7 true ∧ s.ops.map Op.kind = [.rel .cluster])) = true ∧
    (tbarred 1 34).tbarLast ((tbarred 1 34).tbarTeams 0 0 1) 7 = some 10 ∧ (∀ x ∈ (tbarred 1 34).tbarTeams 0 0 1, x.saved = false ∧ ((tbarred 1 34).die x.core.die).st = .noon) ∧
    (∃ x ∈ (tbarred 1 34).tbarTeams 0 0 1, (x.tbar? 7).isSome) ∧
    after (.tbarRelease 0 0 7) (tbarred 1 34) (fun s => decide (s.ops.map Op.kind = [.acq .cluster] ∧ (th s 0).wait = .phase 1 ∧ (s.teams.map Team.tbars) = [[]])) = true ∧
    after (.tbarRelease 0 0 7) (tbarred 1 33) (fun s => decide (s = tbarred 1 33)) = true := by decide +kernel

/-! ## Spawning, the picker, scheduling -/

def spLane (off : Word) : Thread := lane 0 [(26, off)]
def spawning (off : Word) : State := { acc with threads := [spLane off] }

theorem test_spawn_checks : OneLane (spawning 192) (spLane 192) ∧ (spawning 192).capOf t0.tmid 1 = some cap0 ∧ cap0.has 0 ∧ ¬ cap0.has 3 ∧
    (spawning 192).capOf t0.tmid 6 = some { cap0 with perm := 0xFF } ∧ ({ cap0 with perm := 0xFF } : Cap).has 3 ∧
    after (.spawn 28 4 6 26) (spawning 192) (fun s => decide (causeOf s 0 = 0x04)) = true ∧
    after (.spawn 28 1 1 26) (spawning 192) (fun s => decide (causeOf s 0 = 0x04)) = true ∧
    after (.spawn 28 1 6 26) (spawning 32) (fun s => decide (causeOf s 0 = 0x06)) = true ∧
    after (.spawn 28 1 6 26) (spawning 256) (fun s => decide (causeOf s 0 = 0x05)) = true ∧
    after (.spawn 28 1 6 26) (spawning 192) (fun s => decide ((th s 0).wait = .spawn 28 cap0 { cap0 with perm := 0xFF } 192 300)) = true := by
  refine ⟨oneLane_of (by decide +kernel), ?_, ?_, ?_, ?_, ?_, ?_, ?_, ?_, ?_, ?_⟩ <;> decide +kernel

def spWait : Thread := { lane0 with wait := .spawn 28 cap0 { cap0 with perm := 0xFF } 64 300 }
def spawned (raw tail : Nat) : State := { acc with
  threads := [spWait], clock := { acc.clock with cycle := 300 }, mem := Memory.writeN [] 65600 (natLE 8 raw), chains := [(128, { Chain.unset with tail := tail })] }

theorem test_spawn_result : (spawned 1 4095).thread? spWait.id = some spWait ∧ (spawned 1 4095).spawnFirst spWait 300 = true ∧
    (spawned 1 4095).accessesDone spWait.id = true ∧
    ((spawned 1 4095).readSpawn spWait cap0 64).2.toOption = some 1 ∧ enOk ((spawned 1 4095).part 0) 1 = true ∧ enKind 1 = 1 ∧ enOk ((spawned 2 0).part 0) 2 = false ∧
    after (.spawnResult t0) (spawned 1 4095) (fun s => decide (reg s 0 28 = 0 ∧ reg s 0 29 = 4096 ∧ (s.chain 128).tail = 4096 ∧ (th s 0).wait = .none)) = true ∧
    after (.spawnResult t0) (spawned 1 4096) (fun s => decide (reg s 0 28 = 7 ∧ reg s 0 29 = 0 ∧ (s.chain 128).tail = 4096)) = true ∧
    after (.spawnResult t0) (spawned 2 0) (fun s => decide (reg s 0 28 = 3 ∧ (s.chain 128).tail = 0)) = true := by decide +kernel

theorem test_priority : after (.prio 5) { acc with grids := [{ placeGrid with prio := 3 }] } (fun s => decide ((s.group? g0).map Group.prio = some 3)) = true ∧
    after (.qstat 23 0) acc (fun s => decide (reg s 0 23 = 4096)) = true := by decide +kernel

theorem test_picker : State.reset.nextQuad = none ∧ State.reset.root.requests = [] ∧ after .pickBundle State.reset (fun s => decide (s.clock.cycle = 1)) = true ∧
    ((State.reset.placed 32 0).nextQuad).isSome = true ∧ (State.reset.placed 32 0).issue.slot = none ∧
    after .pickBundle ((State.reset.placed 32 0).withFetchWord 32 0x80) (fun s => decide (s.issue.slot = some .exit ∧ s.issue.bundle = [t0])) = true := by
  decide +kernel

def sched (gs : List Group) (cy : Nat) : State := { acc with
  threads := [{ lane0 with lane := 5 }], groups := gs, grids := [{ placeGrid with l1share := 24 }], clock := { acc.clock with cycle := cy } }
def waiting0 : Group := { placeGroup 0 with act := .waiting, eligSince := 0, started := false }

theorem test_activation : (sched [waiting0] 55999).group? g0 = some waiting0 ∧ (sched [waiting0] 55999).nextActive waiting0 = true ∧
    after (.groupActivation g0) (sched [waiting0] 55999) (fun s => decide ((s.group? g0).map (fun g => (g.act, g.reserve)) = some (.active, 8))) = true ∧
    (sched [waiting0] 56000).eligible waiting0 = true ∧ (sched [waiting0] 56000).leaseTest waiting0 = true ∧
    after (.groupUrgent g0) (sched [waiting0] 56000) (fun s => decide (s.groups = [{ waiting0 with urgent := true }])) = true ∧
    after (.groupUrgent g0) (sched [waiting0] 55999) (fun s => decide (s.groups = [waiting0])) = true := by decide +kernel

def small0 : Group := { placeGroup 0 with wideAt := 0, lastIssue := 1 }

theorem test_lane_migration : (sched [small0] 256).group? g0 = some small0 ∧ Group.holdsRows small0 = true ∧ (sched [small0] 256).laneCount lane0.qid 63 < 32 ∧
    ((sched [small0] 256).quad lane0.qid).migrating = none ∧
    after (.laneMigration t0 63) (sched [small0] 256) (fun s => decide ((th s 0).lane = 63 ∧
      (th s 0).moveUntil = 256 + 16 + (sched [small0] 256).regsOf t0)) = true ∧ (sched [small0] 256).fixed { lane0 with lane := 5 } = false ∧
    after (.laneMigration t0 63) (sched [small0] 255) (fun s => decide ((th s 0).lane = 5)) = true := by decide +kernel

theorem test_lease_window : (∀ g ∈ (sched [placeGroup 0] 4096).groups, g.act = .active ∧ g.lostloc ≤ 64) ∧
    after .leaseWindowEnd (sched [{ placeGroup 0 with winWords := 7, lostloc := 9 }] 4096) (fun s => decide (s.clock.windows = 1 ∧
      s.groups.map (fun g => (g.measured, g.winWords, g.lostPrev, g.lostloc)) = [(7, 0, 9, 0)])) = true ∧
    after .leaseWindowEnd (sched [placeGroup 0] 4095) (fun s => decide (s = sched [placeGroup 0] 4095)) = true := by decide +kernel

theorem test_swap : (sched [{ placeGroup 0 with fetchHeld := true }] 9).swapDue { placeGroup 0 with fetchHeld := true } = true ∧
    (sched [{ placeGroup 0 with fetchHeld := true }] 9).loadsOut (fun t => decide (t.gid = g0)) = false ∧
    ({ lane0 with lane := 5 } : Thread).loadRecipes { placeGroup 0 with fetchHeld := true } = [] ∧
    (sched [{ placeGroup 0 with fetchHeld := true }] 9).materialising { lane0 with lane := 5 } = false ∧
    (((sched [{ placeGroup 0 with fetchHeld := true }] 9).team? t0.tmid).map (sched [{ placeGroup 0 with fetchHeld := true }] 9).saveGate).getD .go = .go ∧
    after (.groupSwap g0) (sched [{ placeGroup 0 with fetchHeld := true }] 9) (fun s => decide ((s.group? g0).map (fun g => (g.act, g.eligSince)) = some (.swapped, 9))) = true := by
  decide +kernel

theorem test_watchdog : ((sched [{ placeGroup 0 with hang := 1400000000 }] 9).part 0).hangLimit ≤ 1400000000 ∧ (sched [] 9).ovFull placeCore = false ∧
    after (.hangWatchdogExpiry g0) (sched [{ placeGroup 0 with hang := 1400000000 }] 9) (fun s => decide (causeOf s 0 = 0x11 ∧ s.groups.map Group.hang = [0])) = true ∧
    after (.hangWatchdogExpiry g0) (sched [{ placeGroup 0 with hang := 1399999999 }] 9) (fun s => decide (causeOf s 0 = 0)) = true := by decide +kernel

/-! ## Launch, teams, groups and grids -/

/-- A page table of function 0 that maps the lowest 2 MiB to themselves. -/
def tables : List (Nat × Nat) := [(0x140000, 0x180001), (0x180000, 0x1C0001), (0x1C0000, 0x1F)]
def kernelRaw (teams share : Nat) (coop : Bool) : Nat :=
  (if coop then 2 ^ 5 else 0) + share * 2 ^ 19 + teams * 2 ^ 24 + 0xBEEF * 2 ^ 48 + 65856 * 2 ^ 64
def desc8 : Desc := { width := 8, ngroups := 1, tpc := 1, regs := 8, wb := 0, lease := 0, spad := 0, tiles := [], entry := 65792 }

/-- The machine with chain 1 of function 0, whose entry stands at 65536; its descriptor and the word that it depends on. -/
def chained (raw word : Nat) (es : List Entry) : State := { acc with
  mem := (tables ++ [(65536, raw), (65856, 7 + 8 * 2 ^ 16), (65792, 2 ^ 64 + 64 * 2 ^ 192), (65920, word)]).foldl (fun (m : List Cell) (e : Nat × Nat) => Memory.writeN m e.1 (natLE 64 e.2)) [],
  vfs := [(0, { Vf.unset with enabled := true, root := 0x140000 })], threads := [], groups := [], teams := [], grids := [], cores := [],
  parts := [(0, { Part.unset with quads := [{ die := 0, core := 0, quad := 0 }], codes := [(65856, 65792)] })],
  chains := [(1, { Chain.unset with tail := 1, enable := true, first := 65536, notify := 0x77, entries := es })] }
def entryOf (raw : Nat) (st : EntryStage) : Entry :=
  { num := 1, addr := 65536, raw := raw, stage := st, depOk := false, faulted := none, spawned := none }
def pend (raw : Nat) : State := chained raw 0 [entryOf raw .waiting]

theorem test_doorbell : after (.doorbellWrite 1 9) (chained 0 0 []) (fun s => decide ((s.chain 1).tail = 9)) = true ∧
    after (.doorbellWrite 1 0) (chained 0 0 []) (fun s => decide ((s.chain 1).tail = 1)) = true := by decide +kernel

theorem test_entry_read : (chained (kernelRaw 1 1 false) 0 []).walked 1 = true ∧
    (chained (kernelRaw 1 1 false) 0 []).feNat 4 0 65536 64 = some (kernelRaw 1 1 false) ∧
    after (.launchEntryStart 1) (chained (kernelRaw 1 1 false) 0 []) (fun s => decide ((s.chain 1).entries = [entryOf (kernelRaw 1 1 false) .waiting] ∧
      (s.chain 1).read = 1)) = true ∧
    after (.launchEntryStart 1) (chained 2 0 []) (fun s => decide ((s.chain 1).entries = [entryOf 2 (.completed 3)])) = true := by decide +kernel

theorem test_kernel_starts : ((pend (kernelRaw 1 1 false)).chain 1).entries.find? (fun e => (pend (kernelRaw 1 1 false)).entryFree 1 e && decide (enKind e.raw = 0)) =
      some (entryOf (kernelRaw 1 1 false) .waiting) ∧
    ((pend 0).part 0).codeBase 65856 = some 65792 ∧ (pend 0).readDesc 4 0 65856 65792 = some desc8 ∧ (pend 0).readCapTab 4 0 (kernelRaw 1 1 false) = some [0] ∧
    (pend 0).shapeOk (launched (pend 0) 1 (entryOf (kernelRaw 1 6 false) .waiting) desc8 [0]) = true ∧
    (pend 0).shapeOk (launched (pend 0) 1 (entryOf (kernelRaw 1 7 false) .waiting) desc8 [0]) = false ∧
    after (.launchEntryStart 1) (pend (kernelRaw 1 6 false)) (fun s => decide (s.grids.map (fun g => (g.id, g.reqtag, g.l1share, g.desc)) = [(1, 0xBEEF, 6, desc8)] ∧
      (s.chain 1).entries.map Entry.stage = [.grid 1])) = true ∧
    after (.launchEntryStart 1) (pend (kernelRaw 1 7 false)) (fun s => decide ((s.chain 1).entries.map Entry.stage = [.completed 4])) = true ∧
    after (.launchEntryStart 1) (pend (kernelRaw 1 1 true)) (fun s => decide (s.teams.length = 1 ∧ s.groups.map Group.act = [.active])) = true ∧
    after (.launchEntryStart 1) (pend (kernelRaw 5 1 true)) (fun s => decide (s.teams = [] ∧ (s.chain 1).entries.map Entry.stage = [.completed 2])) = true := by
  decide +kernel

def depRaw : Nat := 1 + 2 ^ 6 + 65920 * 2 ^ 192 + 5 * 2 ^ 256
def dependent (word : Nat) : State := chained depRaw word [entryOf depRaw .waiting]
def behind : State := { dependent 5 with
  chains := (dependent 5).chains ++ [(0, { Chain.unset with entries := List.replicate 4096 (entryOf depRaw .waiting) })] }

theorem test_dependences : DepSatisfied (dependent 5) 1 (entryOf depRaw .waiting) ∧ (dependent 5).watchRank 1 (entryOf depRaw .waiting) = 0 ∧
    after (.dependenceSatisfied 1) (dependent 5) (fun s => decide ((s.chain 1).entries.map Entry.depOk = [true])) = true ∧
    after (.dependenceSatisfied 1) (dependent (5 + 2 ^ 31 - 1)) (fun s => decide ((s.chain 1).entries.map Entry.depOk = [true])) = true ∧
    after (.dependenceSatisfied 1) (dependent 4) (fun s => decide ((s.chain 1).entries.map Entry.depOk = [false])) = true ∧
    after (.dependencePoll 1) (dependent 5) (fun s => decide ((s.chain 1).entries.map Entry.depOk = [false])) = true := by
  refine ⟨⟨?_, ?_, ?_, 5, ?_, ?_⟩, ?_⟩ <;> decide +kernel

theorem test_dependence_polled : behind.watchRank 1 (entryOf depRaw .waiting) = 4096 ∧
    after (.dependencePoll 1) behind (fun s => decide ((s.chain 1).entries.map Entry.depOk = [true])) = true := by decide +kernel

theorem test_marker_and_done : after (.markerCompletion 1) (pend 1) (fun s => decide ((s.chain 1).entries = [entryOf 1 (.completed 1)])) = true ∧
    (chained 1 0 [entryOf 1 (.completed 5)]).hostWalk 0 .wr (65536 + 48) = some 65584 ∧
    after (.chainDoneAdvance 1) (chained 1 0 [entryOf 1 (.completed 5)]) (fun s => decide (s.dev32 65584 = 5 ∧ (s.chain 1).done = 1 ∧ (s.chain 1).entries = [] ∧
      s.root.hostOut = [(0x77, [1, 0, 0, 0, 0, 0, 0, 0])])) = true := by decide +kernel

def comp1 : State := { chained 1 0 [entryOf 1 (.completed 5)] with
  chains := [(1, { (chained 1 0 []).chain 1 with compaddr := 65700, entries := [entryOf 1 (.completed 5)] })] }
def untr : Entry := entryOf (kernelRaw 1 1 false + 0x200000 * 2 ^ 128) .waiting

theorem test_completion_word : comp1.hostWalk 0 .wr 65700 = some 65700 ∧
    after (.chainDoneAdvance 1) comp1 (fun s => decide (s.dev32 65700 = 1 ∧ s.dev32 65584 = 5)) = true ∧
    (comp1.feWaits 4 0 65584 = false ∧ comp1.feWaits 4 0 65700 = false) ∧
    ((pend untr.raw).feFault 1 untr).map (fun i => (i.cause, i.addr1)) = some (0x03, 0x200000) ∧ untr.faulted ≠ some 0x200000 ∧
    after (.frontEndReadFault 1) (pend untr.raw) (fun s => decide ((s.die 4).waiting.map (fun r => (r.q, r.word 0, r.word 1, r.word 8)) =
      [(.part 0, 0x03000000, 0xBEEF0000, 0x200000)] ∧ (s.chain 1).entries.map Entry.faulted = [some 0x200000])) = true := by decide +kernel

def gridA : Grid := { placeGrid with id := 1, nteams := 2, placed := 1, chain := 1, entry := 1, desc := { desc8 with tiles := [{ m := 5, off := 4, size := 8 }], wb := 16 } }
def placing : State := { pend 0 with grids := [gridA] }

theorem test_placement : placing.grid? 1 = some gridA ∧ placing.vfOn 0 = true ∧ placing.awaitsRestore 0 = false ∧
    placing.coreFor gridA (fun _ => true) = some placeCore ∧
    after (.teamPlacement 1) placing (fun s => decide (s.teams.map (fun t => (t.id, t.tiles)) = [({ grid := 1, team := 1 }, [5])] ∧
      s.groups.map (fun g => (g.act, g.mask 0)) = [(.waiting, 255)] ∧ s.threads.map (fun t => (t.id.tid, t.pc, t.wb)) = (List.range 8).map (fun u => (u, 65792, 16)) ∧
      s.tile placeCore 5 = tMake 2 false 0 0 0 8 4 ∧ s.grids.map Grid.placed = [2])) = true := by decide +kernel

def ending (gs : List Group) (cs : List Cmd) : State := { acc with threads := [], groups := gs, cmds := cs }

theorem test_ends : after (.groupEnd g0) (ending [placeGroup 0] []) (fun s => decide (s.groups = [])) = true ∧
    after (.groupEnd g0) (ending [{ placeGroup 0 with counts := [{ iss := 1, cls := .nc, left := 1 }] }] []) (fun s => decide (s.groups.length = 1)) = true ∧
    after (.teamEnd t0.tmid) (ending [] []) (fun s => decide (s.teams = [] ∧ s.tile placeCore 3 = 0 ∧ s.grids.map Grid.ended = [1])) = true ∧
    (cmd0 3 .tzero .queued).namesTeam = true ∧
    after (.teamEnd t0.tmid) (ending [] [cmd0 3 .tzero .queued]) (fun s => decide (s.teams.length = 1)) = true := by decide +kernel

def over1 (placed ended : Nat) (k : Bool) : State := { chained 0 0 [entryOf (kernelRaw 2 1 false) (.grid 1)] with
  grids := [{ gridA with placed := placed, ended := ended, killed := k }],
  cores := [(0, { Machine.Core.reset with writes := [{ addr := 70000, val := 0x5A, perf := 0, pub := none, under := 0, underDev := 0, engine := none }] })] }

/-- The frame of the byte at 70000 is locked for agent d. -/
def overLocked (d : Nat) : State := { over1 2 2 false with
  root := { acc.root with frameTable := 2097152 }, mem := Memory.writeN (over1 2 2 false).mem 2097160 (natLE 8 (2 ^ 63 + d * 2 ^ 42)) }

theorem test_publish_waits : ∃ d ∈ [9, 10], (overLocked d).frameLocked 70000 = true := by
  have f : ∀ d ∈ [9, 10], ((overLocked d).frameWord 70000).testBit 63 = true ∧ (overLocked d).frameWord 70000 / 2 ^ 42 % 2 ^ 21 = d := by decide +kernel
  have k : ∀ d, ((overLocked d).frameWord 70000).testBit 63 = true → (overLocked d).frameWord 70000 / 2 ^ 42 % 2 ^ 21 = d → d ≠ Config.devid.toNat →
      (overLocked d).frameLocked 70000 = true := fun d a b c => by
    have z : (overLocked d).frameWord 70000 / 2 ^ 42 % 2 ^ 21 ≠ Config.devid.toNat := fun h => c (b ▸ h)
    show (((overLocked d).frameWord 70000).testBit 63 && decide ((overLocked d).frameWord 70000 / 2 ^ 42 % 2 ^ 21 ≠ Config.devid.toNat)) = true
    rw [a, decide_eq_true z]; rfl
  by_cases h : Config.devid.toNat = 9
  · exact ⟨10, by decide, k 10 (f 10 (by decide)).1 (f 10 (by decide)).2 (by omega)⟩
  · exact ⟨9, by decide, k 9 (f 9 (by decide)).1 (f 9 (by decide)).2 (Ne.symm h)⟩

theorem test_grid_completion : (over1 2 2 false).publishWaits = false ∧ after (.gridCompletion 1) (over1 2 2 false) (fun s => decide (s.grids = [] ∧ (s.chain 1).entries.map Entry.stage = [.completed 1] ∧
      s.dev32 70000 = 0x5A)) = true ∧
    after (.gridCompletion 1) (over1 2 2 true) (fun s => decide ((s.chain 1).entries.map Entry.stage = [.completed 5])) = true ∧
    after (.gridCompletion 1) (over1 2 1 false) (fun s => decide (s.grids.length = 1)) = true := by decide +kernel

/-! ## Pre-emption, virtual functions, replay, supervisors -/

theorem test_preempt : (∀ t ∈ acc.teams, acc.teamOut t = false) ∧
    after (.preemptCommand (.vf 0) false) acc (fun s => decide (s.teams.map (fun t => (t.stopping, t.replace)) = [(true, false)] ∧ s.grids.map Grid.paused = [true])) = true ∧
    after (.preemptCommand (.grid 1) true) acc (fun s => decide (s.teams.map Team.stopping = [false] ∧ s.grids.map Grid.paused = [false])) = true := by
  decide +kernel

def savedTeam : Team := { newTeam placeGrid 0 placeCore 0 with saved := true, w := [(2, 7)], caps := capsHere }
def away : State := { acc with
  teams := [savedTeam], groups := [{ placeGroup 0 with act := .saved }], threads := [{ lane0 with wait := .sleep 9 }],
  grids := [{ placeGrid with paused := true }], clock := { acc.clock with cycle := 100 } }

def awayGrid : Grid := { placeGrid with paused := true, half := away.halfBack { placeGrid with paused := true } }
def awayHalf : State := away.modGrid 0 fun x => { x with half := awayGrid.half }

theorem test_restore : away.team? savedTeam.id = some savedTeam ∧ away.restorable savedTeam { placeGrid with paused := true } = true ∧
    away.clustersOf { placeGrid with paused := true } savedTeam = [[savedTeam]] ∧ awayHalf.roomOn awayGrid placeCore = true ∧
    awayHalf.gate (route savedTeam.core.die (homeDie (awayHalf.part awayGrid.part).saveBase)) = .go ∧
    awayHalf.placeFixed awayGrid placeCore (awayHalf.teamGroups savedTeam.id) [] = some [(0, 0)] ∧
    after (.preemptRestore savedTeam.id) away (fun s => decide (s.teams.map (fun t => (t.saved, t.w)) = [(false, [(2, 7)])] ∧ (th s 0).wait = .sleep 109 ∧
      reg s 0 21 = 0x11223344 ∧ s.groups.map Group.act = [.waiting] ∧ s.grids.map Grid.paused = [false])) = true := by decide +kernel

/-- A cooperative grid on the one quadrant of partition 0. -/
def cooping : State := { acc with grids := [{ placeGrid with coop := true }], teams := [newTeam placeGrid 0 placeCore 0] }

theorem test_shrink : acc.coopLost 0 [] = [] ∧ cooping.coopLost 0 ((cooping.part 0).quads.filter fun q => decide (q ∉ [q0])) = [0] ∧
    after (.partitionShrink 0 [q0]) acc (fun s => decide ((s.part 0).quads = [] ∧ s.teams.map (fun t => (t.stopping, t.replace)) = [(true, true)])) = true ∧
    after (.partitionShrink 0 [q0]) cooping (fun s => decide (s = { cooping with root := s.root } ∧ s.root.reports ≠ [])) = true ∧
    after (.partitionShrinkForce 0 [q0]) cooping (fun s => decide ((s.part 0).quads = [] ∧ s.teams.map Team.stopping = [true])) = true := by decide +kernel

def copyQ : Cmd := cpyCmd cpyBlk .queued

theorem test_virtual_functions : copyQ.unmoved = true ∧ (copying [copyQ] .none).vfOf copyQ.th = 0 ∧
    after (.vfDisable [0]) (copying [copyQ] .none) (fun s => decide ((s.vf 0).disabling = true ∧ s.cmds = [] ∧ s.teams.map Team.stopping = [true])) = true ∧
    after (.vfEnable 0) { chained 0 0 [] with vfs := [], chains := [(1, { Chain.unset with off := true }), (3, Chain.unset), (2, { Chain.unset with vf := 1, off := true })] }
      (fun s => decide ((s.vf 0).enabled = true ∧ s.chains.map (fun c => (c.2.enable, c.2.off)) = [(true, false), (false, false), (false, true)])) = true := by decide +kernel

def rep0 : Replay := { base := 0, size := 2097152, interval := 1400000, nextAt := 50, asked := false, ckpt := none, log := [] }

/-- A checkpoint at count 2 and a step to count 3, which wrote a byte. -/
def rep1 : Replay := { rep0 with
  ckpt := some (acc.snapshot 0 |> fun x => { x with threads := [{ lane0 with retired := 2 }] }),
  log := [(acc.snapshot 0 |> fun x => { x with threads := [{ lane0 with retired := 3 }] }, [(65544, 0x99)])] }
def replaying (r : Replay) (c : Nat) : State := { acc with
  parts := [(0, { Part.unset with quads := [q0], replay := some r })], threads := [{ lane0 with retired := 5 }], clock := { acc.clock with cycle := c },
  groups := [{ placeGroup 0 with stopAt := some 5 }] }

theorem test_checkpoint : after (.replayCheckpoint 0) (replaying rep0 50) (fun s => decide ((s.part 0).replay = some { rep0 with asked := true } ∧
      s.teams.map (fun t => (t.stopping, t.replace)) = [(true, true)])) = true ∧
    after (.replayCheckpoint 0) (replaying rep0 49) (fun s => decide (s = replaying rep0 49)) = true := by decide +kernel

theorem test_count_stop : (replaying rep0 0).retiredOf g0 = 5 ∧
    after (.countStop g0) (replaying rep0 0) (fun s => decide (causeOf s 0 = 0x09 ∧ s.groups.map Group.stopAt = [none])) = true ∧
    after (.countStop g0) { replaying rep0 0 with threads := [{ lane0 with retired := 4 }] } (fun s => decide (causeOf s 0 = 0)) = true := by decide +kernel

theorem test_replay_stop : (rep1.ckpt.map fun c => (c.retiredOf g0, rep1.log.map fun e => e.1.retiredOf g0)) = some (2, [3]) ∧
    after (.replayStop 0 g0 2) (replaying rep1 0) (fun s => decide (s.dev32 65544 = 0x0199 ∧ (th s 0).retired = 2 ∧ causeOf s 0 = 0x09)) = true ∧
    after (.replayStop 0 g0 3) (replaying rep1 0) (fun s => decide (s.dev32 65544 = 0x0180 ∧ (th s 0).retired = 3 ∧ causeOf s 0 = 0x09)) = true ∧
    after (.replayStop 0 g0 4) (replaying rep1 0) (fun s => decide (s.groups.map Group.stopAt = [some 4] ∧ causeOf s 0 = 0)) = true := by decide +kernel

def parked0 : Thread := { lane0 with park := some { cause := 0x03, addr0 := 65536, addr1 := 70000, resume := 65540 }, zeroes := [(7, 21, 1)], wait := .none }

theorem test_resume : ({ acc with threads := [parked0] } : State).threads.map Thread.id = [t0] ∧
    after (.faultResume g0 1 none) { acc with threads := [parked0] } (fun s => decide ((th s 0).park = none ∧ (th s 0).pc = 65540 ∧ (th s 0).faultCause = 3 ∧
      (th s 0).faultAddr1 = 70000 ∧ reg s 0 21 = 0)) = true ∧
    after (.faultResume g0 1 (some 65600)) { acc with threads := [parked0] } (fun s => decide ((th s 0).pc = 65600)) = true ∧
    after (.faultResume g0 2 none) { acc with threads := [parked0] } (fun s => decide (s.threads = [parked0])) = true := by decide +kernel

def heldCopy : Cmd := cpyCmd cpyBlk (.held 3 131072)
def withHeld : State := { copying [heldCopy] .none with threads := [{ cLead with owed := [(3, 3, 131072)] }] }

theorem test_resume_copy : withHeld.cmds.filter (fun x => decide (x.th.gid = g0)) = [heldCopy] ∧ heldCopy.isMatrix = false ∧ withHeld.teamSaved heldCopy.th.tmid = false ∧
    after (.faultResume g0 1 none) withHeld (fun s => decide (s.cmds.map (fun c => (c.st, c.due)) = [(.running, 1)] ∧ (th s 0).owed = [])) = true := by decide +kernel

theorem test_kill : (∀ c ∈ trio.cmds, c.th ≠ t0) ∧ (lane 0 [(20, 5)]).holdsCounts = [] ∧ (lane 0 [(20, 5)]).zeroes = [] ∧
    after (.threadKill t0) trio (fun s => decide (s.thread? t0 = none ∧ s.grids.map Grid.killed = [true] ∧ ((s.group? g0).map fun g => (g.mask 0).testBit 0) = some false)) = true ∧
    after (.stepBitWrite g0 true) trio (fun s => decide (s.groups.map Group.step = [true])) = true := by decide +kernel

theorem test_invalidate : (acc.quads.map Prod.fst).Nodup ∧ (acc.cores.map Prod.fst).Nodup ∧
    after (.translationInvalidate 0 131071 1) acc (fun s => decide ((s.quad q0).tlb = [])) = true ∧
    after (.translationInvalidate 0 131072 65536) acc (fun s => decide ((s.quad q0).tlb = [placeTlb])) = true := by decide +kernel

/-- Frame 1 of I/O die 5, aged 3, with a queue at 1 MiB. -/
def sweeping (e : Nat) : State := { acc with
  root := { acc.root with frameTable := 2097152 }, mem := Memory.writeN [] 2097160 (natLE 8 e),
  dies := [(5, { noon with coldBase := 1048576 })] }

theorem test_sweeper : ((sweeping 0).die 5).sweepAt ≤ (sweeping 0).clock.cycle ∧ 0 < ((sweeping 0).die 5).watermark ∧
    after (.sweeperFrameVisit 1) (sweeping (3 * 2 ^ 31)) (fun s => decide (s.dev64 2097160 = 4 * 2 ^ 31 + 2 ^ 40 ∧ s.dev64 1048576 = 2 ^ 63 + 1 ∧
      (s.die 5).produced = 1 ∧ (s.die 5).sweepPos = 1)) = true ∧
    after (.sweeperFrameVisit 1) (sweeping (2 ^ 39 + 9 * 2 ^ 31)) (fun s => decide (s.dev64 2097160 = 0 ∧ (s.die 5).produced = 0)) = true ∧
    after (.coldQueueConsumedWrite 1 1) { sweeping 0 with dies := [(5, { noon with produced := 1 })] } (fun s => decide ((s.die 5).consumed = 1)) = true ∧
    after (.coldQueueConsumedWrite 1 2) { sweeping 0 with dies := [(5, { noon with produced := 1 })] } (fun s => decide ((s.die 5).consumed = 0)) = true ∧
    after (.coldQueueBaseWrite 1 4096 4096) { sweeping 0 with dies := [(5, { noon with produced := 1 })] }
      (fun s => decide ((s.die 5).produced = 0 ∧ (s.die 5).watermark = 4096)) = true := by decide +kernel

/-! ## Ports, keys, routes -/

/-- A port whose two directions have their first key; a direction that has the next one installed too. -/
def keyed1 : Port := { Port.reset with tx := KeyDir.at_ 1, rx := KeyDir.at_ 1 }
def nextKey : KeyDir := { KeyDir.at_ 1 with installed := true }
def onPort (p : Port) : State := { acc with ports := [(2, p)] }
def pktW (q : Nat) : Packet := { somePacket with seq := q, vaddr := 2 ^ 58 + 65544, ackv := true, ack := 4 }
def wait2 : List Packet := [{ somePacket with seq := 4 }, { somePacket with seq := 5 }]
def pktR : Packet := { pktW 0 with type := .readReq, payload := (natLE 8 (2 ^ 58 + 65536)).map BitVec.toNat }

theorem test_packet_accepted : Accepted (onPort { keyed1 with unacked := wait2 }) 2 (pktW 0) ∧ (acc.pktKeys (pktW 0)).2 = some [65544, 65545] ∧ acc.frameMoved 65544 = false ∧ acc.frameMoved 65545 = false ∧
    after (.packetReceive 2 (pktW 0)) (onPort { keyed1 with unacked := wait2 }) (fun s => decide (s.dev32 65544 = 0x0907 ∧ (s.port 2).recvSeq = 1 ∧
      (s.port 2).ackDue = some 350 ∧ (s.port 2).unacked.map Packet.seq = [5])) = true ∧
    (acc.pktKeys pktR).2 = some ((List.range 16).map fun i => 65536 + i) ∧ (∀ a ∈ (List.range 16).map (fun i => 65536 + i), acc.frameMoved a = false) ∧
    after (.packetReceive 2 pktR) (onPort keyed1) (fun s => decide ((s.port 2).unacked.map (fun k => (k.dest, k.type, k.payload.getD 8 0, k.ack)) = [(5, .readResp, 0x80, 0)])) = true ∧
    after (.packetReceive 2 { pktW 0 with type := .keyMarker }) (onPort { keyed1 with rx := nextKey })
      (fun s => decide ((s.port 2).rx = { KeyDir.at_ 2 with installed := true, marker := some 0 })) = true := by
  refine ⟨⟨Or.inl ?_, ?_, ?_, ?_⟩, ?_⟩ <;> decide +kernel

/-- An address that function 0 does not map; a packet that a port cannot serve now, since its die is in Dusk. -/
def pktBad : Packet := { pktW 0 with vaddr := 0 }

theorem test_packet_refused : Accepted (onPort keyed1) 2 pktBad ∧ ((onPort keyed1).pktKeys pktBad).2 = none ∧
    after (.packetReceive 2 pktBad) (onPort keyed1) (fun s => decide ((s.port 2).recvSeq = 1 ∧ s.mem = acc.mem ∧ (s.port 2).unacked = [])) = true ∧
    ({ onPort keyed1 with dies := [(0, noon), (4, noon), (5, { noon with st := .dusk })] } : State).pktServed 2 (pktW 0) = false ∧
    after (.packetReceive 2 (pktW 0)) { onPort keyed1 with dies := [(0, noon), (4, noon), (5, { noon with st := .dusk })] }
      (fun s => decide ((s.port 2).recvSeq = 0 ∧ s.mem = acc.mem)) = true := by
  refine ⟨⟨Or.inl ?_, ?_, ?_, ?_⟩, ?_⟩ <;> decide +kernel

theorem test_packet_marker : Accepted (onPort { keyed1 with rx := nextKey }) 2 { pktW 0 with type := .keyMarker } ∧
    Accepted (onPort keyed1) 2 pktR := by
  refine ⟨⟨Or.inl ?_, ?_, ?_, ?_⟩, ⟨Or.inl ?_, ?_, ?_, ?_⟩⟩ <;> decide +kernel

theorem test_packet_checks : after (.packetReceive 2 (pktW 0)) (onPort Port.reset) (fun s => decide ((s.port 2).bad = 1 ∧ s.mem = acc.mem)) = true ∧
    after (.packetReceive 2 { pktW 0 with type := .reserved }) (onPort keyed1) (fun s => decide ((s.port 2).bad = 1 ∧ (s.port 2).recvSeq = 0)) = true ∧
    after (.packetReceive 2 (pktW 0)) (onPort { keyed1 with st := .down }) (fun s => decide (s = onPort { keyed1 with st := .down })) = true ∧
    after (.packetReceive 2 { pktW 0 with authOk := false }) (onPort keyed1) (fun s => decide ((s.port 2).bad = 1 ∧ s.mem = acc.mem)) = true ∧
    keyed1.holdsKey 0 = false ∧ after (.packetReceive 2 { pktW 0 with kph := 0 }) (onPort keyed1) (fun s => decide ((s.port 2).bad = 1)) = true ∧
    after (.packetReceive 2 (pktW 1)) (onPort { keyed1 with unacked := wait2 }) (fun s => decide (s.mem = acc.mem ∧ (s.port 2).unacked.map Packet.seq = [5] ∧
      (s.port 2).recvSeq = 0)) = true ∧
    after (.packetReceive 2 { pktW 0 with type := .ackOnly }) (onPort { keyed1 with unacked := wait2 }) (fun s => decide ((s.port 2).unacked.map Packet.seq = [5] ∧
      (s.port 2).recvSeq = 0)) = true := by decide +kernel

theorem test_port_timers : after (.ackOnlySend 2) (onPort { keyed1 with ackDue := some 0, recvSeq := 5 }) (fun s => decide ((s.port 2).ackDue = none ∧ (s.port 2).tx.count = 1 ∧
      (s.port 2).ackOut.map (fun k => (k.type, k.ack, k.kph)) = some (.ackOnly, 4, 1) ∧ (s.port 2).unacked = [])) = true ∧
    after (.replayTimeout 2) { onPort { keyed1 with unacked := wait2 } with clock := { acc.clock with cycle := 1400 } }
      (fun s => decide ((s.port 2).replays = 1 ∧ (s.port 2).sentAt = 1400 ∧ (s.port 2).unacked.map (fun k => (k.seq, k.ack, k.ackv)) = [(4, 65535, true), (5, 65535, true)] ∧
        (s.port 2).tx.count = 2)) = true ∧
    after (.replayTimeout 2) { onPort { Port.reset with unacked := wait2 } with clock := { acc.clock with cycle := 1400 } } (fun s => decide ((s.port 2).replays = 0)) = true ∧
    after (.replayTimeout 2) { onPort { keyed1 with unacked := wait2 } with clock := { acc.clock with cycle := 1399 } } (fun s => decide ((s.port 2).replays = 0)) = true ∧
    after (.portRetrainTimeout 2) { onPort { keyed1 with st := .retrain 16 0 } with clock := { acc.clock with cycle := 140000000 } }
      (fun s => decide ((s.port 2).st = .down)) = true ∧
    after (.portRetrainCommand 2) (onPort { keyed1 with st := .down }) (fun s => decide ((s.port 2).st = .retrain 16 0)) = true := by decide +kernel

theorem test_port_widths : after (.portLaneFailure 2 0x0001) (onPort keyed1) (fun s => decide ((s.port 2).st = .degrading 1 0 ∧ (s.port 2).failed = 1)) = true ∧
    after (.portLaneFailure 2 0x0100) (onPort keyed1) (fun s => decide ((s.port 2).st = .degrading 0 0)) = true ∧
    after (.portLaneFailure 2 0x0180) (onPort keyed1) (fun s => decide ((s.port 2).st = .retrain 16 0)) = true ∧
    after (.portLaneFailure 2 0x0001) (onPort { keyed1 with st := .up8 0 }) (fun s => decide ((s.port 2).st = .retrain 8 0)) = true ∧
    after (.portDegradeComplete 2) (onPort { keyed1 with st := .degrading 1 0, unacked := wait2 }) (fun s => decide ((s.port 2).st = .up8 1 ∧ (s.port 2).replays = 1)) = true ∧
    trainedTo 0xFFFF 8 = some (.up8 0) ∧ trainedTo 0xFF7F 16 = some (.up8 1) ∧ trainedTo 0xFE7F 16 = none ∧
    after (.portRetrainComplete 2 0xFFFF) (onPort { keyed1 with st := .retrain 16 0 }) (fun s => decide ((s.port 2).st = .up16 ∧ (s.port 2).failed = 0)) = true ∧
    after (.portRetrainComplete 2 0xFE7F) (onPort { keyed1 with st := .retrain 16 0 }) (fun s => decide ((s.port 2).st = .retrain 16 0 ∧ (s.port 2).failed = 0x0180)) = true ∧
    after (.portWidenCommand 2) (onPort { keyed1 with st := .up8 0 }) (fun s => decide ((s.port 2).st = .up16)) = true := by decide +kernel

def keyIn (m : Option Nat) : KeyDir := { KeyDir.at_ 2 with installed := true, marker := m }
/-- Link 2, between dies 0 and 1; die 0 takes its turn of a ROLL. -/
def rolling2 (k : KeyDir) (c : Nat) : State := { acc with
  dies := [(0, { noon with st := .dusk, cause := .rolling }), (1, noon)], clock := { acc.clock with cycle := c },
  links := [(2, { Link.reset with keyed := true, epoch := 2, dirA := k, dirB := k })],
  root := { acc.root with rolling := true, rollOrder := [0, 1, 2, 3, 5, 4], busy := some rootRoll } }

theorem test_keys : keyed1.rx.rolling = false ∧
    after (.keyInstall (.port 2)) (onPort { Port.reset with unacked := [somePacket] }) (fun s => decide ((s.port 2).rx = KeyDir.at_ 1 ∧ (s.port 2).tx = KeyDir.at_ 1 ∧
      (s.port 2).unacked.map Packet.kph = [1])) = true ∧
    after (.keyInstall (.port 2)) (onPort keyed1) (fun s => decide ((s.port 2).rx = nextKey ∧ (s.port 2).tx = nextKey ∧ (s.port 2).unacked = [])) = true ∧
    after (.keyInstall (.port 2)) (onPort { keyed1 with tx := nextKey, unacked := wait2 }) (fun s => decide ((s.port 2).rx = KeyDir.at_ 1 ∧ (s.port 2).tx = { KeyDir.at_ 2 with count := 1 } ∧
      (s.port 2).unacked.map (fun k => (k.type, k.kph)) = [(.write, 0), (.write, 0), (.keyMarker, 0)])) = true ∧
    after (.keyMarkerReceive (.port 2)) (onPort { keyed1 with rx := keyIn none }) (fun s => decide ((s.port 2).rx = { KeyDir.at_ 3 with installed := true, marker := some 0 })) = true ∧
    after (.keyRetire (.port 2)) { onPort { keyed1 with rx := keyIn (some 0) } with clock := { acc.clock with cycle := 1680 } }
      (fun s => decide ((s.port 2).rx = KeyDir.at_ 2)) = true ∧
    after (.keyRetire (.port 2)) { onPort { keyed1 with rx := keyIn (some 0) } with clock := { acc.clock with cycle := 1679 } }
      (fun s => decide ((s.port 2).rx = keyIn (some 0))) = true ∧
    (rolling2 { keyIn none with installed := false } 0).rollsNow 2 = true ∧
    after (.keyInstall (.die 2)) (rolling2 { keyIn none with installed := false } 0) (fun s => decide ((s.link 2).dirA = keyIn none ∧ (s.link 2).dirB = keyIn none)) = true ∧
    after (.keyMarkerReceive (.die 2)) (rolling2 (keyIn none) 9) (fun s => decide ((s.link 2).dirB = { KeyDir.at_ 3 with installed := true, marker := some 9 })) = true ∧
    after (.keyRetire (.die 2)) (rolling2 { keyIn (some 0) with send := 3 } 350) (fun s => decide ((s.link 2).epoch = 3 ∧ (s.link 2).dirA.installed = false ∧ s.root.rolled = [2])) = true := by
  decide +kernel

theorem domain_facts : ∀ d ∈ [9, 10], (acc.domain.length < 1023 ∧ ({ dev := d, port := 17, latency := 0 } : DomainEntry).port < 18) ∧
    (accFar d).remoteOpen d = false ∧ (∃ x ∈ (accFar d).domain, x.1 = d) ∧
    after (.domainTableWrite d none) (accFar d) (fun s => decide (s.domain = [])) = true ∧
    ({ accFar d with ops := [{ opFar with space := .mem [(remoteKey d 65544, 4)] }] } : State).remoteOpen d = true ∧
    after (.domainTableWrite d none) { accFar d with ops := [{ opFar with space := .mem [(remoteKey d 65544, 4)] }] } (fun s => decide (s.domain.length = 1)) = true := by
  decide +kernel

/-- One of two devices is another device. -/
theorem test_domain_write : ∃ d ∈ [9, 10], d ≠ Config.devid.toNat ∧ ¬ (∃ x ∈ acc.domain, x.1 = d) := by
  by_cases h : 9 = Config.devid.toNat
  · exact ⟨10, by simp, by omega, by decide⟩
  · exact ⟨9, by simp, h, by decide⟩

theorem test_route_tags : acc.tagBusy 0 7 = false ∧ after (.routeTagModeWrite 0 7 2) acc (fun s => decide (s.tagMode 0 7 = 2 ∧ s.tagMode 0 6 = 0)) = true ∧
    (tbarred 1 0).tagBusy 0 7 = true ∧ after (.routeTagModeWrite 0 7 2) (tbarred 1 0) (fun s => decide (s.tagMode 0 7 = 1 ∧ tget 0 (s.part 0).tags 15 = 3)) = true := by
  decide +kernel

/-! ## Power, attestation, die states, ROLL -/

def hot (t : Nat) : State := { acc with dies := [(0, { noon with temp := some t })] }

theorem test_power : after .powerOn { acc with root := { acc.root with power := false } } (fun s => decide (s = { State.reset with clock := acc.clock })) = true ∧
    after .powerOn acc (fun s => decide (s = acc)) = true ∧
    after .packagePowerOff acc (fun s => decide (s = { State.reset with clock := acc.clock, root := { Root.reset with power := false } })) = true ∧
    after .thermalPowerRemoval (hot 110000) (fun s => decide (s.root.power = false ∧ s.threads = [])) = true ∧
    after .thermalPowerRemoval (hot 109999) (fun s => decide (s = hot 109999)) = true := by decide +kernel

/-- IO0 in Noon, die 1 in Dawn, the others away or in Noon. -/
def dawning : State := { acc with dies := [(0, noon), (2, noon), (3, noon), (4, noon), (5, noon)] }

theorem test_attestation : (∀ e, e < 6 → e ≠ 1 → (dawning.die e).st = .dawn → (dawning.die e).attested = false) ∧ (dawning.die 1).lastAttest = none ∧
    after (.attestationResult 1 0) dawning (fun s => decide ((s.die 1).st = .noon ∧ (s.link 2).keyed = true ∧ (s.link 4).epoch = 1 ∧ (s.link 0).keyed = false ∧
      (s.die 1).waiting.map (fun r => (r.word 0, r.word 11)) = [(0x130, 1)])) = true ∧
    after (.attestationResult 1 7) dawning (fun s => decide ((s.die 1).st = .dawn ∧ (s.die 1).lastAttest = some 7 ∧
      (s.die 1).waiting.map (fun r => (r.word 0, r.word 12)) = [(0x30, 7)])) = true := by decide +kernel

def ruled (st : DieState) (c : DuskCause) (n : Nat) : State := { acc with
  teams := [], dies := [(4, noon), (5, noon), (1, { noon with st := st, cause := c })], clock := { acc.clock with cycle := n },
  links := [(2, { Link.reset with keyed := true })] }

theorem test_root_commands : acc.root.busy = none ∧ after .roll acc (fun s => decide (s.root.rolling = true ∧ s.root.busy = some rootRoll)) = true ∧
    after (.reset 1) { acc with root := { acc.root with busy := some rootRoll } } (fun s => decide (s.root.deferred = [.reset 1])) = true ∧
    (∃ t ∈ acc.teams, t.core.die = 0 ∧ t.saved = false) ∧
    after (.reset 0) acc (fun s => decide ((s.die 0).st = .noon ∧ s.root.reports.length = 1)) = true ∧
    after (.quarantine 4) acc (fun s => decide ((s.die 4).st = .noon ∧ s.root.reports.length = 1)) = true ∧
    after (.reset 5) { acc with chains := [(64, { Chain.unset with enable := true })] } (fun s => decide ((s.die 5).st = .noon ∧ s.root.reports.length = 1)) = true ∧
    after (.reset 1) (ruled .noon .none 9) (fun s => decide ((s.die 1).st = .dusk ∧ (s.die 1).cause = .draining ∧ s.root.busy = some (rootReset 1))) = true ∧
    after (.reset 1) (ruled .midnight .none 9) (fun s => decide ((s.die 1).st = .dawn ∧ (s.die 1).resets = 1)) = true ∧
    after (.quarantine 1) (ruled .noon .none 9) (fun s => decide ((s.die 1).st = .midnight ∧ (s.link 2).keyed = false)) = true ∧
    (ruled .dusk .draining 28000).root.deferred = [] ∧ (ruled .dusk .draining 28000).dieBusy 1 = false ∧
    after (.drainComplete 1) (ruled .dusk .draining 28000) (fun s => decide ((s.die 1).st = .dawn ∧ (s.link 2).keyed = false)) = true := by decide +kernel

theorem test_roll_turns : (∃ l ∈ dieLinks 0, (rolling2 { keyIn none with installed := false } 0).unrolled l = true) ∧
    after (.rollTurn 0) { rolling2 { keyIn none with installed := false } 0 with dies := [(0, noon), (1, noon)] }
      (fun s => decide ((s.die 0).st = .dusk ∧ (s.die 0).cause = .rolling)) = true ∧
    (∀ l ∈ dieLinks 0, (rolling2 { keyIn (some 0) with send := 3 } 0).unrolled l = false ∧
      (((rolling2 { keyIn (some 0) with send := 3 } 0).link l).dirA.installed = true → (((rolling2 { keyIn (some 0) with send := 3 } 0).link l).dirA.marker.isSome)) ∧
      (((rolling2 { keyIn (some 0) with send := 3 } 0).link l).dirB.installed = true → (((rolling2 { keyIn (some 0) with send := 3 } 0).link l).dirB.marker.isSome))) ∧
    after (.rollTurn 0) { rolling2 { keyIn none with installed := false } 0 with dies := [(0, { noon with st := .dusk, cause := .link }), (1, noon)] }
      (fun s => decide (s.root.rollOrder = [1, 2, 3, 5, 4, 0])) = true ∧
    after (.rollTurnComplete 0) (rolling2 { keyIn (some 0) with send := 3 } 0) (fun s => decide ((s.die 0).st = .noon ∧ s.root.rollOrder = [1, 2, 3, 5, 4])) = true ∧
    acc.root.rollInterval = 5040000000000 ∧
    after .periodicRoll { acc with clock := { acc.clock with cycle := 5040000000000 } } (fun s => decide (s.root.rolling = true)) = true ∧
    after .periodicRoll { acc with clock := { acc.clock with cycle := 5039999999999 } } (fun s => decide (s.root.rolling = false)) = true := by decide +kernel

def linked (b : Bool) (st : DieState) (c : DuskCause) : State := { acc with
  dies := [(4, { noon with st := st, cause := c }), (5, noon)], links := [(12, { Link.reset with keyed := true, down := b })] }

theorem test_link_faults : linkEnds.getD 12 (0, 0) = (4, 5) ∧
    after (.dieLinkFault 12) (linked false .noon .none) (fun s => decide ((s.die 4).st = .dusk ∧ (s.die 5).cause = .link ∧ (s.link 12).down = true ∧
      (s.die 4).waiting.map (fun r => r.word 11) = [2])) = true ∧
    after (.dieLinkRecovered 12) (linked true .dusk .link) (fun s => decide ((s.die 4).st = .noon ∧ (s.link 12).down = false ∧
      (s.die 4).waiting.map (fun r => r.word 11) = [3])) = true ∧
    after (.dieLinkRecovered 12) (linked true .dusk .draining) (fun s => decide ((s.die 4).st = .dusk)) = true := by decide +kernel

/-! ## Reliability, records, the host -/

def loc7 : Location := { storage := 7, row := 2 ^ 40 + 3 }
def errs (l : List ClsEntry) (c : Nat) : State := { acc with dies := [(4, { noon with cls := l })], clock := { acc.clock with cycle := c } }
def seen (ts : List Nat) : ClsEntry := { loc := loc7, times := ts, lasting := false }

theorem test_corrected_errors : acc.root.clsN = 3 ∧ acc.root.clsT = 120960000000000 ∧
    after (.eccCorrectedEvent 4 loc7 0) (errs [] 5) (fun s => decide ((s.die 4).cls = [seen [5]] ∧ tget 0 s.events (evKey 0x30 1023) = 1 ∧
      (s.die 4).waiting.map (fun r => (r.q, r.word 0, r.word 11)) = [(.device, 0x20, 0x00010007)])) = true ∧
    ((errs [seen [1, 2]] 5).die 4).cls.find? (fun e => decide (e.loc = loc7)) = some (seen [1, 2]) := by decide +kernel

theorem test_lasting_errors : after (.eccCorrectedEvent 4 loc7 0) (errs [seen [1, 2]] 5) (fun s => decide ((s.die 4).cls = [{ seen [1, 2, 5] with lasting := true }] ∧
      (s.die 4).waiting.length = 1)) = true ∧
    after (.eccCorrectedEvent 4 loc7 0) (errs [seen [1, 2]] (1 + 120960000000000)) (fun s => decide ((s.die 4).cls = [seen [2, 1 + 120960000000000]] ∧
      (s.die 4).waiting = [])) = true ∧
    after (.eccCorrectedEvent 4 loc7 0) (errs [{ seen [1, 2] with lasting := true }] (2 + 120960000000000)) (fun s => decide (
      (s.die 4).cls = [seen [2 + 120960000000000]])) = true := by decide +kernel

theorem test_uncorrectable_errors : after (.eccUncorrectableEvent 4 loc7 (.line 65600) 0) (errs [] 5) (fun s => decide (s.poison = [512] ∧ s.mem = acc.mem ∧
      (s.die 4).cls = [{ seen [] with lasting := true, hard := true }] ∧ (s.die 4).waiting.map (fun r => r.word 11 / 256 % 256) = [1])) = true ∧
    after (.eccUncorrectableEvent 0 { storage := 1, row := 0 } (.reg t0 20) 0) acc (fun s => decide ((th s 0).poisoned = [20])) = true ∧
    after (.clearpoison 65536 1) { acc with poison := [512, 513] } (fun s => decide (s.poison = [513] ∧ s.root.reports = [(0x3E, 3)])) = true ∧
    after (.classclear 4 loc7) (errs [seen []] 5) (fun s => decide ((s.die 4).cls = [] ∧ s.root.reports = [(0x3E, 4)])) = true := by decide +kernel

/-- A TMM that runs in quadrant 0 of core 0 of die 0, and the location of row 3 of its array. -/
def comparing : State := { acc with cmds := [{ cmd0 3 (.tmm .f16 0 true [] none) .running with reqtag := 0xBEEF }] }
def loc8 : Location := { storage := 8, row := 3 }

theorem test_mismatch : (∃ c ∈ comparing.cmds, c.isTmm = true ∧ c.st = .running ∧ c.core = QuadId.cid (Location.quad 0 loc8) ∧ (Location.quad 0 loc8).quad ∈ c.arrays) ∧
    after (.eccCorrectedEvent 0 loc8 0) comparing (fun s => decide ((s.quad q0).mism = 1 ∧ tget 0 s.events (evKey 0x32 (QuadId.idx q0)) = 1 ∧
      (s.die 0).waiting.map (fun r => (r.word 0, r.word 1 / 2 ^ 16)) = [(0x20, 0xBEEF)] ∧ s.mem = comparing.mem)) = true ∧
    after (.eccCorrectedEvent 0 loc8 0) acc (fun s => decide (s = acc)) = true := by decide +kernel

theorem test_poison_levels :
    after (.eccUncorrectableEvent 0 { storage := 4, row := 0 } (.l2line 0 65544) 0) cached (fun s => decide (s.l2Poisoned 0 512 = true ∧ s.poison = [])) = true ∧
    after (.eccUncorrectableEvent 0 { storage := 3, row := 0 } (.l1line 0 0 65544) 0) (written1 none) (fun s => decide ((s.core placeCore).poison = [512] ∧ s.poison = [])) = true ∧
    after (.eccUncorrectableEvent 0 { storage := 2, row := 0 } (.tile 0 0 5) 0) acc (fun s => decide ((s.accTile placeCore 0 5).poison = true)) = true ∧
    after (.clearpoison 65536 128) { written1 none with poison := [512, 513], cores := [(0, { (written1 none).core placeCore with poison := [512, 513] })] }
      (fun s => decide (s.poison = [513] ∧ (s.core placeCore).poison = [513])) = true := by decide +kernel

/-- How many spare rows a bank has is not stated: a row is retired where one is left, and refused where none is. -/
theorem test_spare_rows : Config.spareRows 4 7 1 ≤ (List.replicate (Config.spareRows 4 7 1) (loc7, 0)).countP
      (fun e => decide (e.1.storage = loc7.storage ∧ Location.group e.1 = Location.group loc7)) ∧
    (0 < Config.spareRows 4 7 1 → after (.retire 4 loc7) (errs [] 5) (fun s => decide ((s.die 4).spares = [(loc7, 0)] ∧ s.root.reports = [(0x3E, 2)])) = true) := by
  refine ⟨by simp [List.countP_replicate], fun h => ?_⟩
  have e : (.next (if 0 < Config.spareRows 4 7 1 then ((errs [] 5).modDie 4 fun x => { x with spares := x.spares ++ [(loc7, 0)] }).acknowledge 2
      else (errs [] 5).refuseCmd 8) : Out) = exec (.retire 4 loc7) (errs [] 5) := rfl
  simp only [after, ← e, if_pos h]
  decide +kernel

theorem test_scrub : 1 < scrubTotal 4 ∧ after (.scrubWord 4 0 .clean false) (errs [] 5) (fun s => decide ((s.die 4).scrubPos = 1 ∧ s.mem = acc.mem)) = true ∧
    (errs [] 5).scrubBehind 4 = true ∧ ((errs [] 5).die 4).scrubAt ≠ (errs [] 5).clock.cycle + 1 ∧
    after (.scrubWord 4 0 .corrected false) (errs [] 5) (fun s => decide ((s.die 4).cls.map ClsEntry.times = [[5]] ∧ tget 0 s.events (evKey 0x30 1023) = 1 ∧
      tget 0 s.events (evKey 0x40 1023) = 1 ∧ (s.die 4).waiting.length = 1 ∧ s.mem = acc.mem)) = true ∧
    after (.scrubWord 4 0 (.uncorrectable (.line 65600)) false) (errs [] 5) (fun s => decide (s.poison = [512] ∧ tget 0 s.events (evKey 0x31 1023) = 1 ∧
      (s.die 4).cls.map ClsEntry.hard = [true])) = true ∧
    after (.purge 0) { acc with ops := [opLd] } (fun s => decide (s.threads = [] ∧ s.ops = [] ∧ s.grids.map Grid.killed = [true] ∧ s.root.reports.head? = some (0x3E, 1))) = true ∧
    after (.purge 1) { acc with ops := [opLd] } (fun s => decide (s.threads.length = 1 ∧ s.ops.length = 1)) = true := by decide +kernel

def rec1 : Record := { q := .part 0, words := (List.range 16).map fun i => 0x80000000 + i }
def posting (posted taken : Nat) : State := { acc with
  dies := [(0, { noon with waiting := [rec1] })],
  parts := [(0, { Part.unset with queue := { base := 0x10000, len := 64, posted := posted, taken := taken, notify := 0x99 } })] }

theorem test_records : rec1.words.length = 16 ∧
    after (.faultRecordPost 0) (posting 127 64) (fun s => decide (s.dev32 (0x10000 + 64 * 63) = 0x80000000 ∧ s.dev32 (0x10000 + 64 * 63 + 60) = 0x8000000F ∧
      (s.part 0).queue.posted = 128 ∧ (s.die 0).waiting = [] ∧ s.root.hostOut = [(0x99, [128, 0, 0, 0])])) = true ∧
    after (.faultRecordPost 0) (posting 128 65) (fun s => decide (s.dev32 (0x10000 + 60) = 15)) = true ∧
    after (.faultRecordPost 0) (posting 128 64) (fun s => decide (s = posting 128 64)) = true ∧
    after (.takenWrite (.part 0) 127) (posting 127 64) (fun s => decide ((s.part 0).queue.taken = 127)) = true ∧
    after (.takenWrite (.part 0) 128) (posting 127 64) (fun s => decide ((s.part 0).queue.taken = 64)) = true ∧
    after (.recordQueueSet .device 4096 1048576) acc (fun s => decide (s.root.queue.len = 1048576 ∧ s.root.queue.base = 4096)) = true ∧
    after (.recordQueueSet .device 4096 65) acc (fun s => decide (s.root.queue.len = 0 ∧ s.root.reports.length = 1)) = true ∧
    after (.recordQueueSet .device 2048 64) acc (fun s => decide (s.root.queue.len = 0)) = true := by decide +kernel

def hosted : State := { chained 0 0x0180 [] with vfs := [(0, { Vf.unset with enabled := true, root := 0x140000, agents := [77] })] }

theorem test_host : hosted.agentVf 77 = some 0 ∧ hosted.agentVf 78 = none ∧ (hosted.hostKeys 0 .rd 65920 2).2 = some [65920, 65921] ∧
    after (.hostAccess 77 (.read 65920 2)) hosted (fun s => decide (s.root.hostOut = [(77, [0x80, 1])])) = true ∧
    after (.hostAccess 77 (.write 65920 [9])) hosted (fun s => decide (s.dev32 65920 = 0x0109)) = true ∧
    after (.hostAccess 77 (.atomic 65920 false .add 0 2)) hosted (fun s => decide (s.dev32 65920 = 0x0182 ∧ s.root.hostOut = [(77, [0x80, 1, 0, 0])])) = true ∧
    (hosted.hostKeys 0 .rd 0x200000 1).2 = none ∧ after (.hostAccess 77 (.read 0x200000 1)) hosted (fun s => decide (s.root.reports.length = 1 ∧ s.root.hostOut = [])) = true ∧
    after (.hostAccess 78 (.read 65920 2)) hosted (fun s => decide (s.root.reports.length = 1)) = true := by decide +kernel

/-- The home die of the host's bytes in Dusk, and gone. -/
def hostedIn (st : DieState) : State := { hosted with dies := [(0, noon), (4, noon), (5, { noon with st := st })] }

theorem test_host_waits : (hosted.hostKeys 0 .wr 65920 1).2 = some [65920] ∧ hosted.gate ([65920, 65921].map homeDie).eraseDups = .go ∧
    hosted.lockedFor 77 65920 = false ∧ ((hostedIn .dusk).hostKeys 0 .rd 65920 2).2 = some [65920, 65921] ∧
    ((hostedIn .dusk).hostKeys 0 .rd 65920 2).1.gate ([65920, 65921].map homeDie).eraseDups = .stall ∧
    after (.hostAccess 77 (.read 65920 2)) (hostedIn .dusk) (fun s => decide (s.root.hostWait = [(77, .read 65920 2, 0)] ∧ s.root.reports = [])) = true ∧
    ((hostedIn .dawn).hostKeys 0 .rd 65920 2).1.gate ([65920, 65921].map homeDie).eraseDups = .dead 5 ∧
    after (.hostAccess 77 (.read 65920 2)) (hostedIn .dawn) (fun s => decide (s.root.hostWait = [] ∧ s.root.reports.length = 1)) = true ∧
    after (.hostAccess 77 (.atomic 65920 true .xchg 0 5)) hosted
      (fun s => decide (s.dev64 65920 = 5 ∧ s.root.hostOut = [(77, [0x80, 1, 0, 0, 0, 0, 0, 0])])) = true := by decide +kernel

/-- A record of the held command 3, whose queue has room. -/
def postingHeld : State := { posting 0 0 with
  dies := [(0, { noon with waiting := [{ rec1 with cmd := some 3 }] })], cmds := [cmd0 3 .tzero (.held 0x14 99)] }

theorem test_record_of_command : postingHeld.cmd? 3 = some (cmd0 3 .tzero (.held 0x14 99)) ∧ (postingHeld.thread? mLead.id).isSome = true ∧
    after (.faultRecordPost 0) postingHeld (fun s => decide ((th s 0).owed = [(3, 0x14, 99)])) = true := by decide +kernel

def der (n : Nat) : Derived := { a := .derived 3, b := .raw 1, fn := .thresh n }

theorem test_settings : after (.derivedEventConfig 0 4 (der 64)) acc (fun s => decide ((s.part 0).derived = [(4, der 64)])) = true ∧
    after (.derivedEventConfig 0 4 (der 65)) acc (fun s => decide ((s.part 0).derived = [])) = true ∧
    after (.derivedEventConfig 0 3 (der 64)) acc (fun s => decide ((s.part 0).derived = [])) = true ∧
    after (.junctionReport 0 100000) acc (fun s => decide ((s.die 0).temp = some 100000 ∧ (s.die 0).waiting = [])) = true ∧
    after (.junctionReport 0 100001) acc (fun s => decide ((s.die 0).waiting.length = 1)) = true ∧
    after (.supervisorRegisterWrite (.lostlocThreshold 63 4095)) acc (fun s => decide ((s.part 63).threshold = 4095)) = true ∧
    after (.supervisorRegisterWrite (.lostlocThreshold 63 4096)) acc (fun s => decide ((s.part 63).threshold = 64)) = true ∧
    after (.supervisorRegisterWrite (.hangLimit 0 1048576)) acc (fun s => decide ((s.part 0).hangLimit = 1048576)) = true ∧
    after (.supervisorRegisterWrite (.hangLimit 0 1048575)) acc (fun s => decide ((s.part 0).hangLimit = 1400000000)) = true ∧
    after (.supervisorRegisterWrite (.rollInterval 1399999999)) acc (fun s => decide (s.root.rollInterval = 5040000000000)) = true ∧
    after (.supervisorRegisterWrite (.classWindow 255 84000000000)) acc (fun s => decide (s.root.clsN = 255)) = true ∧
    after (.supervisorRegisterWrite (.vfCreate 63 65535 63 262144)) acc (fun s => decide ((s.vf 63).root = 262144 ∧ (s.vf 63).enabled = false)) = true ∧
    after (.supervisorRegisterWrite (.chainSet 127 63 64 9 9 4 0 true)) acc (fun s => decide ((s.chain 127).read = 9 ∧ (s.chain 127).next = 64)) = true ∧
    after (.supervisorRegisterWrite (.tileEntry 3 47 63 (5 + 1023 * 2 ^ 34))) acc (fun s => decide (s.tile { die := 3, core := 47 } 63 = 5 + 2 ^ 43)) = true := by decide +kernel

/-! ## Decoding, steps, memory -/

theorem test_round_trip : (Instr.lut3 1 2 3 4 0xA5).wf = true ∧ encode (.lut3 1 2 3 4 0xA5) ≠ [] ∧
    ((decode ((encode (.lut3 1 2 3 4 0xA5)).flatMap (natLE 4) ++ [0x7F])).toOption) = some (.lut3 1 2 3 4 0xA5, [0x7F]) ∧
    (0xC0000000 / 2 ^ 30 % 4 = 3 ∧ 0x1F000000 / 2 ^ 30 % 4 ≠ 3 ∧ 0x1F000000 / 2 ^ 24 % 64 ∈ [0x1F]) := by decide +kernel

/-- ADD g20, g21, g22 stands where the reset machine with a placed instruction fetches next. -/
def placedAdd : State := State.reset.withFetchWord 32 (0x0A * 2 ^ 24 + 20 * 2 ^ 17 + 21 * 2 ^ 10 + 22 * 2 ^ 3)

theorem test_step_hypotheses : placedAdd.agenda = [] ∧ placedAdd.auto = none ∧ placedAdd.nextQuad = some q0 ∧
    ((placedAdd.seed q0 (placedAdd.cands q0)).map fun c => (c.th.id, c.th.pc)) = some (t0, 65536) ∧
    ((placedAdd.fetchFor (placeThread 0 0)).2.toOption.map fun w => (decodeWords w.1 w.2.1 w.2.2).toOption) = some (some (.add 20 21 22)) ∧
    (∀ u ∈ placedAdd.threads, u.forms = [] ∧ u.poisoned = []) ∧ (∀ g ∈ placedAdd.groups, g.recipes = []) ∧
    (∀ t ∈ placedAdd.threads, placedAdd.regsOk t (.add 20 21 22) = true) ∧ xlaneMask (.add 20 21 22) = none := by decide +kernel

/-- A step of it retires the one thread; a step with an event on the agenda runs that event; what is no event is refused. -/
theorem test_steps : (match step placedAdd with | .next s => decide ((th s 0).pc = 65540 ∧ (th s 0).retired = 1 ∧ s.clock.tick = 1) | _ => false) = true ∧
    (match step { placedAdd with agenda := [.roll] } with | .next s => decide (s.root.rolling = true ∧ s.agenda = [] ∧ (th s 0).pc = 65536) | _ => false) = true ∧
    (match step { placedAdd with agenda := [.exit] } with | .refused .illFormed => true | _ => false) = true ∧
    ({ State.reset with clock := { State.reset.clock with cycle := 4096 } } : State).auto.isSome = true ∧
    Memory.wf acc.mem = true ∧ acc.mem ≠ [] := by decide +kernel

/-! ## Witnesses of the remaining clauses -/

def opStFar : Op := op0 3 .store (.mem [(remoteKey 9 65544, 2)]) 2 none [0xAA, 0xBB]

theorem test_remote_store : Effective (flying [opStFar]) opStFar ∧ Space.remote opStFar.space = true ∧ (pieceBytes [(remoteKey 9 65544, 2)]).Nodup ∧
    opStFar.data.length = (pieceBytes [(remoteKey 9 65544, 2)]).length ∧
    after (.storePerform 3) (flying [opStFar]) (fun s => decide (s.ops.map Op.answer = [some []] ∧ s.teamByte placeCore (remoteKey 9 65545) = 0xBB)) = true := by
  refine ⟨effective_of (by decide +kernel), ?_, ?_, ?_, ?_⟩ <;> decide +kernel

/-- The line's one byte cannot leave: its home die is in Dusk. -/
def cachedDusk : State := { cached with dies := [(0, { noon with l2 := [line1] }), (4, noon), (5, { noon with st := .dusk })] }

theorem test_cache_ways : cachedDusk.gate (route 0 (homeDie 65544)) ≠ .go ∧ after (.l2Eviction 0 65544) cachedDusk (fun s => decide (s = cachedDusk)) = true ∧
    acc.capOf lane0.id.tmid 1 = some cap0 ∧ after (.pref 1 1 20) acc (fun s => decide ((th s 0).retired = 1 ∧ s.mem = (acc.translate lane0.qid (acc.vfOf lane0.id) .rd 65544).1.mem)) = true := by decide +kernel

/-- A CPYR that waits for its decision; the port to device 9 has nothing to carry. -/
def cpyrMem : List Word := cpyMem ++ [0, 0]
def toMemory (d : Nat) : Cmd := { cmd0 3 (.cpyr cpyrMem Cap.zero { cap0 with device := d } cap0 Cap.zero) .running with regs := dsc0, contrib := some [] }
def deciding : State := { toMem 2 { toMemory 9 with st := .decide, contrib := none, counted := false } with
  threads := [{ cLead with wait := .status 3 }], domain := [(9, { dev := 9, port := 2, latency := 7 })] }

theorem test_cpyr_decision : ((deciding.domain.find? fun e => decide (e.1 = 9)).map fun e => e.2.latency) = some 7 ∧ copyBlkOk true cpyrMem = true ∧
    dscOk cpyrMem cap0 dsc0 = true ∧ deciding.portLoad 2 = 0 ∧
    after (.commandAdmission 3) deciding (fun s => decide (s.cmds.map (fun c => (c.st, c.bytes, c.counted)) = [(.queued, 8, true)] ∧
      reg s 0 20 = BitVec.ofNat 32 (16 * boundUnits (5207 * 224 + 11 + 8 + 64)))) = true := by decide +kernel

/-- A CPYR that drains tile 3 has left. -/
theorem test_cpyr_drains : ∃ d ∈ [9, 10], d ≠ Config.devid.toNat ∧ (toMem 3 (toMemory d)).cmd? 3 = some (toMemory d) ∧ blkDrain cpyrMem = true ∧
    tState ((toMem 3 (toMemory d)).tile placeCore (blkSM cpyrMem)) = 3 ∧ (toMem 3 (toMemory d)).teamSaved (toMemory d).th.tmid = false := by
  by_cases h : Config.devid.toNat = 9
  · exact ⟨10, by decide, by omega, by decide +kernel, by decide, by decide +kernel, by decide +kernel⟩
  · exact ⟨9, by decide, Ne.symm h, by decide +kernel, by decide, by decide +kernel, by decide +kernel⟩

/-- A tree barrier of device span in a cooperative grid; one whose other thread has arrived in the other form; a swapped team. -/
def coopTag : State := { acc with grids := [{ placeGrid with coop := true }], parts := [(0, { Part.unset with tags := [(7, 2)] })] }
def mixedTag : State := { acc with
  parts := [(0, { Part.unset with tags := [(7, 1)] })],
  teams := [{ newTeam placeGrid 0 placeCore 0 with tbars := [{ tag := 7, here := [(lane 1 []).id], ar := true, arrivedAt := none }] }] }

theorem test_tree_barrier_forms : coopTag.tagMode (coopTag.partOf t0) 7 = 2 ∧ ((coopTag.gridOf t0).map Grid.coop) = some true ∧
    after (.tbar 7 false) coopTag (fun s => decide ((th s 0).wait = .tbar 7 false)) = true ∧
    after (.tbar 7 true) coopTag (fun s => decide ((th s 0).wait = .tbarArrive 7 true ∧ s.ops.map Op.kind = [.rel .device])) = true ∧
    ((mixedTag.team? t0.tmid).bind fun x => x.tbar? 7) = some { tag := 7, here := [(lane 1 []).id], ar := true, arrivedAt := none } ∧
    after (.tbar 7 false) mixedTag (fun s => decide (causeOf s 0 = 0x14)) = true ∧
    after (.tbarRelease 0 0 7) { tbarred 1 34 with teams := (tbarred 1 34).teams.map fun x => { x with saved := true } }
      (fun s => decide (s.teams.map Team.tbars = [[]])) = true := by decide +kernel

theorem test_cycle_ends : ({ acc with threads := [], cmds := [cpyCmd cpyBlk .running] } : State).nextQuad = none ∧
    after .pickBundle { acc with threads := [], cmds := [cpyCmd cpyBlk .running] } (fun s => decide (s.cmds.map Cmd.id = [3] ∧ s.clock.cycle = 1)) = true := by
  decide +kernel

theorem test_kernel_named : (pend 0).feNat 4 0 (65792 + 8) 4 = some 1 ∧ (pend 0).feNat 4 0 (65792 + 24) 4 = some 64 ∧
    (pend 0).isKernel 4 0 65856 65792 = some true ∧ (pend 0).isKernel 4 0 65792 65792 = some false ∧ (pend 0).isKernel 4 0 65920 65792 = some false ∧
    ((pend 0).part 0).codeBase 65920 = none ∧
    after (.launchEntryStart 1) (pend (kernelRaw 1 1 false + 64 * 2 ^ 64)) (fun s => decide ((s.chain 1).entries.map Entry.stage = [.completed 3])) = true ∧
    after (.doorbellWrite 128 9) (pend 0) (fun s => decide (s = pend 0)) = true := by decide +kernel

/-- A parked thread that waits, with the point it kept; and where a supervisor directs it. -/
def parkedWaiting : Thread := { parked0 with
  wait := .tile 3, redo := [{ op := 4, pc := 8, wb := 16, wait := .none, counted := none, stepOwed := none }], counted := some 7 }

theorem test_redirect : after (.faultResume g0 1 (some 65600)) { acc with threads := [parkedWaiting] } (fun s => decide ((th s 0).pc = 65600 ∧ (th s 0).wait = .none ∧
      (th s 0).redo = [] ∧ (th s 0).counted = none ∧ (th s 0).park = none)) = true ∧
    after (.faultResume g0 1 none) { acc with threads := [parkedWaiting] } (fun s => decide ((th s 0).wait = .tile 3 ∧ (th s 0).redo.length = 1)) = true := by decide +kernel

/-- IO0 in Dawn, with die 1 attested; ATTEST's challenge of it is under way. -/
def dawn4 : State := { acc with
  dies := [(0, noon), (1, { noon with st := .dawn }), (5, noon)], root := { acc.root with busy := some 36 } }

theorem test_attestation_of_io0 : (dawn4.die 4).st = .dawn ∧ (dawn4.die 4).lastAttest = none ∧ dawn4.root.deferred = [] ∧
    after (.attestationResult 4 0) dawn4 (fun s => decide ((s.die 4).st = .noon ∧ (s.die 1).st = .noon ∧ s.root.busy = none ∧
      s.root.reports = [(516, 0)])) = true ∧
    (dawning.die 0).st ≠ .dawn ∧ after (.attestationResult 0 5) dawning (fun s => decide ((s.die 0).st = .noon ∧ (s.die 0).lastAttest = some 5 ∧
      (s.die 0).waiting = [])) = true := by decide +kernel

/-- The last turn of a ROLL, and a ROLL whose turns are over. -/
def lastTurn (r : List Nat) (m : Option Nat) : State := { rolling2 { keyIn m with installed := m.isSome, send := 3 } 0 with
  root := { acc.root with rolling := true, rollOrder := r, rolled := [2], busy := some rootRoll } }

theorem test_roll_ends : (∀ l ∈ dieLinks 0, (lastTurn [0] none).unrolled l = false) ∧
    (∀ l ∈ (lastTurn [0] none).links, l.2.dirA.rolling = false ∧ l.2.dirB.rolling = false) ∧
    after (.rollTurnComplete 0) (lastTurn [0] none) (fun s => decide ((s.die 0).st = .noon ∧ s.root.rolling = false ∧ s.root.busy = none)) = true ∧
    after (.rollTurnComplete 0) (lastTurn [0] (some 0)) (fun s => decide ((s.die 0).st = .noon ∧ s.root.rolling = true ∧ s.root.rollOrder = [])) = true ∧
    after (.rollTurn 0) (lastTurn [] none) (fun s => decide (s.root.rolling = false ∧ s.root.busy = none)) = true := by decide +kernel

/-- A die whose store of records is full. -/
def fullStore : State := { acc with dies := [(4, { noon with waiting := List.replicate 256 rec1 }), (5, noon)] }

theorem test_full_store : fullStore.storeFull 4 = true ∧
    after (.eccCorrectedEvent 4 loc7 0) fullStore (fun s => decide ((s.die 4).waiting.length = 256 ∧ (s.die 4).relHeld.length = 1)) = true ∧
    after (.faultRecordPost 0) { posting 0 0 with dies := [(0, { noon with waiting := [rec1], relHeld := [rec1] })] }
      (fun s => decide ((s.die 0).waiting.length = 1 ∧ (s.die 0).relHeld = [])) = true ∧
    after (.eccUncorrectableEvent 0 { storage := 1, row := 0 } (.spad t0.tmid 130) 0) acc (fun s => decide (s.teams.map Team.spadPoison = [[1]])) = true ∧
    after (.eccUncorrectableEvent 0 { storage := 2, row := 0 } (.epi q0 1) 0) drained (fun s => decide ((s.epiAt q0 1).image.poison = true)) = true := by
  decide +kernel

theorem test_host_poison : (65920 : Nat) / 128 = 515 ∧ after (.hostAccess 77 (.read 65920 2)) { hosted with poison := [515] }
      (fun s => decide (s.root.reports.length = 1 ∧ s.root.hostOut = [])) = true ∧
    after (.hostAccess 77 (.write 65920 [9])) hosted (fun s => decide (s.root.hostOut = [(77, [])])) = true := by decide +kernel

/-- The agenda's event would post a record on a full die; the lease window's end is due. -/
def stuck : State := { pend untr.raw with
  agenda := [.frontEndReadFault 1], clock := { acc.clock with cycle := 4096 },
  dies := [(0, noon), (4, { noon with waiting := List.replicate 256 rec1 }), (5, noon)] }

theorem test_full_agenda : (Instr.frontEndReadFault 1).wf = true ∧ encode (.frontEndReadFault 1) = [] ∧ stuck.auto.isSome = true ∧
    after (.frontEndReadFault 1) { stuck with agenda := [] } (fun t => State.overfull stuck t) = true ∧
    (match step stuck with | .next s => decide (s.agenda = [.frontEndReadFault 1] ∧ (s.die 4).waiting.length = 256) | _ => false) = true := by decide +kernel

end Sys2Proof.Tests
end

section
/-! PROOFS. The integer instructions (R92 to R113): what a lane loop that writes one destination does, then the value of
each lane operation in the terms of the statements, then the five statements. -/

namespace Sys2Proof.Machine

/-! ## Instructions that write one destination field -/

/-- Every instruction that may be a member of a slice is the lane loop of its lane function. -/
theorem exec_of_memberOp {i : Instr} {f : Thread → Thread} (h : memberOp i = some f) (s : State) :
    exec i s = .next (s.lanesOk f) := by
  unfold memberOp at h
  split at h <;> cases h <;> rfl

/-- The lane reads its thread with the pc already at the next instruction; `hw` says that the value does not see this. -/
theorem WritesRegs.of_member_dst {i : Instr} {s : State} {ws : Thread → List (Nat × Word)} {f : Thread → Thread} {d : Nat}
    {v : Thread → Word} (hi : memberOp i = some f) (hf : f = fun t => t.dst d (v t))
    (hw : ∀ t : Thread, ws t = one t d (v { t with pc := s.nextPc })) : WritesRegs i s ws :=
  .of_lanesOk f (exec_of_memberOp hi s) (fun _ => by rw [hf]; exact Thread.dst_id _ _ _) fun t => by
    rw [hf, hw]; exact Wrote.one _ _ _

theorem WritesRegs.of_member_dstPair {i : Instr} {s : State} {ws : Thread → List (Nat × Word)} {f : Thread → Thread}
    {d : Nat} {v : Thread → DWord} (hi : memberOp i = some f) (hf : f = fun t => t.dstPair d (v t))
    (hw : ∀ t : Thread, ws t = two t d (v { t with pc := s.nextPc })) : WritesRegs i s ws :=
  .of_lanesOk f (exec_of_memberOp hi s) (fun _ => by rw [hf]; exact Thread.dstPair_id _ _ _) fun t => by
    rw [hf, hw]; exact Wrote.pair _ _ _

/-! ## Wrapping a number into a pattern (R37) -/

section
variable {w : Nat} (a b : BitVec w) (n : Nat) (x y : Int)

theorem W_natCast : W w (n : Int) = BitVec.ofNat w n := BitVec.ofInt_natCast w n

theorem W_N : W w (N a) = a := by rw [W_natCast, BitVec.ofNat_toNat, BitVec.setWidth_eq]

theorem W_add : W w (x + y) = W w x + W w y := BitVec.ofInt_add x y

theorem W_mul : W w (x * y) = W w x * W w y := BitVec.ofInt_mul x y

theorem W_neg : W w (-x) = -W w x := BitVec.ofInt_neg

theorem W_sub : W w (x - y) = W w x - W w y := by
  rw [Int.sub_eq_add_neg, W_add, W_neg, BitVec.sub_eq_add_neg]

theorem W_neg_one : W w (-1) = BitVec.allOnes w := by
  rw [W_neg, ← BitVec.neg_one_eq_allOnes]; rfl

theorem W_shiftLeft : W w (N a * 2 ^ n) = a <<< n := by
  have hcast : (2 ^ n : Int) = ((2 ^ n : Nat) : Int) := (Int.natCast_pow 2 n).symm
  have hpow : BitVec.ofNat w (2 ^ n) = BitVec.twoPow w n :=
    BitVec.eq_of_toNat_eq (by rw [BitVec.toNat_ofNat, BitVec.toNat_twoPow])
  rw [hcast, W_mul, W_N, W_natCast, hpow, BitVec.shiftLeft_eq_mul_twoPow]

theorem W_ushiftRight : W w (N a / 2 ^ n) = a >>> n := by
  have hcast : (N a / 2 ^ n : Int) = ((a.toNat / 2 ^ n : Nat) : Int) := by push_cast; rfl
  rw [hcast, W_natCast, ← Nat.shiftRight_eq_div_pow, ← BitVec.toNat_ushiftRight, BitVec.ofNat_toNat, BitVec.setWidth_eq]

theorem W_sshiftRight : W w (S a / 2 ^ n) = a.sshiftRight n := by
  have hcast : (2 ^ n : Int) = ((2 ^ n : Nat) : Int) := (Int.natCast_pow 2 n).symm
  rw [hcast, ← Int.shiftRight_eq_div_pow]; rfl

/-! ## INT0, INT1, INT2 (R96 to R98) -/

/-- The model's operation on words for each two-source operation. -/
def Int2.op {w : Nat} : Int2 → BitVec w → BitVec w → BitVec w
  | .add => aAdd
  | .sub => aSub
  | .and => aAnd
  | .or => aOr
  | .xor => aXor
  | .andn => aAndn
  | .orn => aOrn
  | .xnor => aXnor
  | .shl => aShl
  | .shr => aShr
  | .sra => aSra
  | .rol => aRol
  | .ror => aRor
  | .min => aMin
  | .max => aMax
  | .minn => aMinn
  | .mul => aMul
  | .mulh => aMulh
  | .mulhn => aMulhn
  | .div => aDiv
  | .divn => aDivn
  | .rem => aRem
  | .remn => aRemn
  | .maxn => aMaxn

/-- Row by row: arithmetic wraps its exact result, a shift is a product or a quotient by a power of two, and the unsigned
comparisons and divisions are those of natural numbers. -/
theorem Int2.op_eq_int2 (o : Int2) : o.op a b = int2 w o a b := by
  cases o
  all_goals dsimp only [int2, Int2.op]
  case add => rw [W_add, W_N, W_N]; rfl
  case sub => rw [W_sub, W_N, W_N]; rfl
  case mul => rw [W_mul, W_N, W_N]; rfl
  case shl => rw [W_shiftLeft]; rfl
  case shr => rw [W_ushiftRight]; rfl
  case sra => rw [W_sshiftRight, W_neg_one]; rfl
  case rol | ror => rw [W_shiftLeft, W_ushiftRight]; rfl
  case minn => simp only [aMinn, N, Int.ofNat_le]
  case maxn => simp only [aMaxn, N, Int.ofNat_le, ge_iff_le]
  case mulhn => rw [aMulhn, ← W_natCast]; push_cast; rfl
  case div => simp only [aDiv, W_neg_one, N, Int.natCast_eq_zero]
  case divn => simp only [aDivn, W_neg_one, N, Int.natCast_eq_zero, ← W_natCast, Int.natCast_ediv]
  case rem => simp only [aRem, N, Int.natCast_eq_zero]
  case remn => simp only [aRemn, N, Int.natCast_eq_zero, ← W_natCast, Int.natCast_emod]
  case and | or | xor | andn | orn | xnor | min | max | mulh => rfl

end

theorem memberOp_of_int32 {i : Instr} {o : Int2} {d a b : Nat} (h : int32 i = some (o, d, a, b)) :
    memberOp i = some (bin32 o.op d a b) := by
  unfold int32 at h
  split at h <;> cases h <;> rfl

theorem memberOp_of_int64 {i : Instr} {o : Int2} {d a b : Nat} (h : int64 i = some (o, d, a, b)) :
    memberOp i = some (bin64 o.op d a b) := by
  unfold int64 at h
  split at h <;> cases h <;> rfl

theorem bin32_eq (o : Int2) (d a b : Nat) : bin32 o.op d a b = fun t => t.dst d (int2 32 o (t.src a) (t.src b)) := by
  funext t; rw [bin32, Int2.op_eq_int2]

theorem bin64_eq (o : Int2) (d a b : Nat) :
    bin64 o.op d a b = fun t => t.dstPair d (int2 64 o (t.srcPair a) (t.srcPair b)) := by
  funext t; rw [bin64, Int2.op_eq_int2]

/-- Settles O1: each of the 48 forms is a lane loop whose operation is that of its row. -/
theorem integerTwoSource : Obligations.IntegerTwoSource := by
  refine ⟨fun i o d a b hi s => ?_, fun i o d a b hi s => ?_⟩
  · exact .of_member_dst (memberOp_of_int32 hi) (bin32_eq o d a b) fun _ => rfl
  · exact .of_member_dstPair (memberOp_of_int64 hi) (bin64_eq o d a b) fun _ => rfl

/-! ## Elements (R51): the model's reading, storing and joining of elements in the terms of the statements -/

theorem elem_eq_elemAt (e v i : Nat) : elem e v i = elemAt e v i := rfl

theorem elemAt_lt (e v i : Nat) : elemAt e v i < 2 ^ e := Nat.mod_lt _ (Nat.two_pow_pos e)

theorem sum_map_mul_left (k : Nat) (f : Nat → Nat) (l : List Nat) : (l.map fun i => k * f i).sum = k * (l.map f).sum := by
  induction l with
  | nil => rfl
  | cons i l ih => rw [List.map_cons, List.map_cons, List.sum_cons, List.sum_cons, ih, Nat.mul_add]

theorem ofElems_succ (e n : Nat) (f : Nat → Nat) :
    ofElems e (n + 1) f = f 0 + 2 ^ e * ofElems e n fun i => f (i + 1) := by
  have hshift (i : Nat) : f (i + 1) * 2 ^ (e * (i + 1)) = 2 ^ e * (f (i + 1) * 2 ^ (e * i)) := by
    rw [Nat.mul_add_one, Nat.pow_add, ← Nat.mul_assoc, Nat.mul_comm]
  simp only [ofElems, List.range_succ_eq_map, List.map_cons, List.map_map, List.sum_cons, Function.comp_def,
    Nat.succ_eq_add_one, hshift, sum_map_mul_left, Nat.mul_zero, Nat.pow_zero, Nat.mul_one]

theorem fromElems_map_range (e n : Nat) (f : Nat → Nat) : fromElems e ((List.range n).map f) = ofElems e n f := by
  induction n generalizing f with
  | zero => rfl
  | succ n ih => rw [ofElems_succ, ← ih, List.range_succ_eq_map, List.map_cons, List.map_map, fromElems]; rfl

theorem sInt_eq_toInt {e x : Nat} (hx : x < 2 ^ e) : sInt e x = (BitVec.ofNat e x).toInt := by
  have hsign : x < 2 ^ (e - 1) ↔ 2 * x < 2 ^ e := by
    cases e with
    | zero => simp_all
    | succ e => rw [Nat.add_sub_cancel, Nat.pow_succ']; omega
  have hcast : ((2 ^ e : Nat) : Int) = 2 ^ e := Int.natCast_pow 2 e
  simp only [sInt, BitVec.toInt_eq_toNat_cond, BitVec.toNat_ofNat, Nat.mod_eq_of_lt hx, hsign, hcast]

theorem rdEl_eq_readEl (sg : Bool) {e x : Nat} (hx : x < 2 ^ e) : rdEl sg e x = readEl sg e x := by
  cases sg
  case false => rfl
  case true => exact sInt_eq_toInt hx

theorem wrap_eq_W (e : Nat) (v : Int) : wrap e v = (W e v).toNat := by
  rw [wrap, BitVec.toNat_ofInt]; push_cast; rfl

theorem clampI_eq_max_min {lo hi : Int} (h : lo ≤ hi) (v : Int) : clampI lo hi v = max lo (min v hi) := by
  unfold clampI; omega

theorem clampTo_eq_clampEl (sg : Bool) (e : Nat) (v : Int) : clampTo sg e v = clampEl sg e v := by
  have hpos (n : Nat) : (0 : Int) < 2 ^ n := Int.pow_pos (by decide)
  cases sg
  case false => exact clampI_eq_max_min (by have := hpos e; omega) v
  case true => exact clampI_eq_max_min (by have := hpos (e - 1); omega) v

/-! ## INT3 (R100) -/

theorem nClz_eq {e x : Nat} (hx : x < 2 ^ e) : nClz e x = int3Val .clz e x := by
  induction e with
  | zero => simp_all [nClz, int3Val]
  | succ e ih =>
    simp only [int3Val, List.range_succ, List.reverse_append, List.reverse_singleton, List.singleton_append,
      List.takeWhile_cons] at ih ⊢
    by_cases htop : x < 2 ^ e
    · have hlog : x ≠ 0 → x.log2 < e := fun h => (Nat.log2_lt h).2 htop
      rw [Nat.testBit_lt_two_pow htop, Bool.not_false, if_pos rfl, List.length_cons, ← ih htop]
      unfold nClz
      split <;> omega
    · have hne : x ≠ 0 := by have := Nat.two_pow_pos e; omega
      have hlog : x.log2 = e := (Nat.log2_eq_iff hne).2 ⟨Nat.le_of_not_lt htop, hx⟩
      rw [Nat.testBit_of_two_pow_le_and_two_pow_add_one_gt (Nat.le_of_not_lt htop) hx]
      simp [nClz, hlog, hne]

theorem testBit_comp_succ (x : Nat) : (fun j => x.testBit j) ∘ Nat.succ = fun j => (x / 2).testBit j := by
  funext j; exact Nat.testBit_add_one x j

theorem not_testBit_comp_succ (x : Nat) : (fun j => !x.testBit j) ∘ Nat.succ = fun j => !(x / 2).testBit j := by
  funext j; exact congrArg (!·) (Nat.testBit_add_one x j)

theorem nCtz_eq (e x : Nat) : nCtz e x = lowZeros e x := by
  induction e generalizing x with
  | zero => rfl
  | succ e ih =>
    rw [nCtz, ih, lowZeros, lowZeros, List.range_succ_eq_map, List.takeWhile_cons, List.takeWhile_map,
      not_testBit_comp_succ]
    by_cases h : x % 2 = 1 <;> simp [Nat.testBit_zero, h, Nat.add_comm]

theorem nPopc_eq (e x : Nat) : nPopc e x = int3Val .popc e x := by
  induction e generalizing x with
  | zero => rfl
  | succ e ih =>
    rw [nPopc, ih, int3Val, int3Val, List.range_succ_eq_map, List.filter_cons, List.filter_map, testBit_comp_succ]
    rcases Nat.mod_two_eq_zero_or_one x with h | h <;> simp [Nat.testBit_zero, h, Nat.add_comm]

theorem nBrev_eq (e x : Nat) : nBrev e x = int3Val .brev e x := by
  induction e generalizing x with
  | zero => rfl
  | succ e ih =>
    rw [nBrev, ih, int3Val, int3Val, List.range_succ_eq_map, List.map_cons, List.map_map, List.sum_cons]
    congr 1
    · rcases Nat.mod_two_eq_zero_or_one x with h | h <;> simp [Nat.testBit_zero, h]
    · congr 2
      funext j
      simp [Nat.testBit_add_one, Nat.sub_sub, Nat.add_comm]

/-- The model's operation on one element for each operation of INT3. -/
def Int3.op : Int3 → Nat → Nat → Nat
  | .clz => nClz
  | .ctz => nCtz
  | .ffs => nFfs
  | .popc => nPopc
  | .brev => nBrev
  | .abs => nAbs

theorem Int3.op_eq_int3Val (o : Int3) {e x : Nat} (hx : x < 2 ^ e) : o.op e x = int3Val o e x := by
  cases o
  case clz => exact nClz_eq hx
  case ctz => exact nCtz_eq e x
  case ffs => rw [Int3.op, nFfs, nCtz_eq]; rfl
  case popc => exact nPopc_eq e x
  case brev => exact nBrev_eq e x
  case abs => simp only [Int3.op, nAbs, wrap_eq_W, int3Val, sInt_eq_toInt hx, readEl, if_true]

theorem memberOp_of_int3Row {i : Instr} {o : Int3} {e : EWidth} {d a : Nat} (h : int3Row i = some (o, e, d, a)) :
    memberOp i = some (int3 o.op e d a) := by
  unfold int3Row at h
  split at h <;> cases h <;> rfl

theorem EWidth.bits_eq_n (e : EWidth) : EWidth.bits e = EWidth.n e := by cases e <;> rfl

theorem int3_w64_eq (o : Int3) (d a : Nat) :
    int3 o.op .w64 d a = fun t => t.dstPair d (BitVec.ofNat 64 (int3Val o 64 (t.srcPair a).toNat)) := by
  funext t; rw [int3, o.op_eq_int3Val (t.srcPair a).isLt]

theorem int3_eq_of_ne {e : EWidth} (he : e ≠ .w64) (o : Int3) (d a : Nat) :
    int3 o.op e d a = fun t => t.dst d (BitVec.ofNat 32 (ofElems (EWidth.n e) (32 / EWidth.n e) fun i =>
      int3Val o (EWidth.n e) (elemAt (EWidth.n e) (t.src a).toNat i))) := by
  funext t
  have hrow : int3 o.op e d a t = t.dst d (BitVec.ofNat 32 (fromElems (EWidth.bits e)
      ((elems (EWidth.bits e) (32 / EWidth.bits e) (t.src a).toNat).map (o.op (EWidth.bits e))))) := by
    cases e with
    | w64 => exact absurd rfl he
    | _ => rfl
  simp only [hrow, elems, List.map_map, Function.comp_def, fromElems_map_range, EWidth.bits_eq_n, elem_eq_elemAt,
    o.op_eq_int3Val (elemAt_lt _ _ _)]

theorem W_readEl_signed (w e : Nat) (x : Word) :
    W w (readEl true e (x.toNat % 2 ^ e)) = (x.setWidth e).signExtend w := by
  rw [readEl, if_pos rfl, ← BitVec.toNat_setWidth, BitVec.ofNat_toNat, BitVec.setWidth_eq]; rfl

theorem W_readEl_unsigned (w e : Nat) (x : Word) :
    W w (readEl false e (x.toNat % 2 ^ e)) = (x.setWidth e).setWidth w := by
  rw [readEl, if_neg Bool.false_ne_true, ← BitVec.toNat_setWidth, W_natCast, BitVec.ofNat_toNat]

theorem laneSext_eq_of_ne {e : EWidth} (he : e ≠ .w64) (d a : Nat) :
    laneSext e d a = fun t => t.dst d (W 32 (readEl true (EWidth.n e) ((t.src a).toNat % 2 ^ EWidth.n e))) := by
  funext t
  rw [W_readEl_signed]
  cases e with
  | w64 => exact absurd rfl he
  | w32 => rw [laneSext, EWidth.n, BitVec.setWidth_eq, BitVec.signExtend_eq]
  | _ => rfl

theorem laneZext_eq_of_ne {e : EWidth} (he : e ≠ .w64) (d a : Nat) :
    laneZext e d a = fun t => t.dst d (W 32 (readEl false (EWidth.n e) ((t.src a).toNat % 2 ^ EWidth.n e))) := by
  funext t
  rw [W_readEl_unsigned]
  cases e with
  | w64 => exact absurd rfl he
  | w32 => rw [laneZext, EWidth.n, BitVec.setWidth_eq, BitVec.setWidth_eq]
  | _ => rfl

theorem laneZext_w64_eq (d a : Nat) : laneZext .w64 d a = fun t => t.dstPair d (W 64 (N (t.src a))) := by
  funext t; rw [W_natCast, BitVec.ofNat_toNat]; rfl

/-- Settles O2: at width 64 the destination is a pair, at the other widths a register. -/
theorem bitCountsAndWidening : Obligations.BitCountsAndWidening := by
  refine ⟨fun i o e d a hi s => ?_, fun e d a s => ?_, fun e d a s => ?_⟩
  · have hm := memberOp_of_int3Row hi
    cases e
    case w64 => exact .of_member_dstPair hm (int3_w64_eq o d a) fun _ => rfl
    case w32 | w16 | w8 => exact .of_member_dst hm (int3_eq_of_ne (by decide) o d a) fun _ => rfl
  · cases e
    case w64 => exact .of_member_dstPair rfl rfl fun _ => rfl
    case w32 | w16 | w8 => exact .of_member_dst rfl (laneSext_eq_of_ne (by decide) d a) fun _ => rfl
  · cases e
    case w64 => exact .of_member_dstPair rfl (laneZext_w64_eq d a) fun _ => rfl
    case w32 | w16 | w8 => exact .of_member_dst rfl (laneZext_eq_of_ne (by decide) d a) fun _ => rfl

/-! ## PACK (R106) -/

theorem PackTy.bits_eq_e (ty : PackTy) : PackTy.bits ty = PackTy.e ty := by cases ty <;> rfl

theorem PackTy.signed_eq_sg (ty : PackTy) : PackTy.signed ty = PackTy.sg ty := by cases ty <;> rfl

theorem packEl_eq_storeEl (ty : PackTy) (sat : Bool) (v : Int) :
    packEl ty sat v = storeEl (PackTy.sg ty) sat (PackTy.e ty) v := by
  rw [packEl, wrap_eq_W, clampTo_eq_clampEl, PackTy.bits_eq_e, PackTy.signed_eq_sg, storeEl]

theorem pack_eq (o : Pack2) (ty : PackTy) (sat : Bool) (d a b : Nat) :
    pack (packVal o) ty sat d a b = fun t => t.dst d (packResult o ty sat (t.src a) (t.src b)) := by
  funext t
  simp only [pack, packResult, fromElems_map_range, packEl_eq_storeEl, elem_eq_elemAt,
    rdEl_eq_readEl _ (elemAt_lt _ _ _), PackTy.bits_eq_e, PackTy.signed_eq_sg]

theorem memberOp_of_packRow {i : Instr} {o : Pack2} {ty : PackTy} {sat : Bool} {d a b : Nat}
    (h : packRow i = some (o, ty, sat, d, a, b)) : memberOp i = some (pack (packVal o) ty sat d a b) := by
  unfold packRow at h
  split at h <;> cases h <;> rfl

/-- Settles O3: the lane function of each row packs the exact values of its operation. -/
theorem packedArithmetic : Obligations.PackedArithmetic := by
  intro i o ty sat d a b hi s
  exact .of_member_dst (memberOp_of_packRow hi) (pack_eq o ty sat d a b) fun _ => rfl

/-! ## MAD (R108) -/

theorem laneMad_eq (d a b c : Nat) : laneMad d a b c =
    fun t => t.dst d (W 32 (N (t.src a) * N (t.src b) + N (t.src c))) := by
  funext t; rw [W_add, W_mul, W_N, W_N, W_N, laneMad]

theorem laneMadh_eq (d a b c : Nat) : laneMadh d a b c =
    fun t => t.dst d (W 32 (S (t.src a) * S (t.src b) / 2 ^ 32 + N (t.src c))) := by
  funext t; rw [W_add, W_N, laneMadh]; rfl

theorem laneMadhn_eq (d a b c : Nat) : laneMadhn d a b c =
    fun t => t.dst d (W 32 (N (t.src a) * N (t.src b) / 2 ^ 32 + N (t.src c))) := by
  have hhigh (x y : Word) : aMulhn x y = W 32 (N x * N y / 2 ^ 32) := Int2.op_eq_int2 x y .mulhn
  funext t; rw [W_add, W_N, laneMadhn, hhigh]

theorem madOut_eq (sg sat : Bool) (v : Int) : madOut sg sat v = madOut32 sg sat v := by
  rw [madOut, clampTo_eq_clampEl, madOut32]

theorem foldl_add_eq_sumElems (e : Nat) (f : Nat → Int) (c : Int) :
    (List.range (32 / e)).foldl (fun acc i => acc + f i) c = sumElems e f c := by
  rw [sumElems, List.sum_eq_foldl, ← List.foldl_assoc (op := fun x y : Int => x + y), List.foldl_map, Int.add_zero]

theorem laneDot_eq (e : Nat) (sa sb sat : Bool) (d a b c : Nat) : laneDot e sa sb sat d a b c =
    fun t => t.dst d (dotResult e sa sb sat (t.src a) (t.src b) (t.src c)) := by
  funext t
  simp only [laneDot, dotResult, foldl_add_eq_sumElems, madOut_eq, elem_eq_elemAt, rdEl_eq_readEl _ (elemAt_lt _ _ _)]

theorem laneSad_eq (ty : PackTy) (sat : Bool) (d a b c : Nat) : laneSad ty sat d a b c =
    fun t => t.dst d (sadResult ty sat (t.src a) (t.src b) (t.src c)) := by
  funext t
  simp only [laneSad, sadResult, foldl_add_eq_sumElems, madOut_eq, elem_eq_elemAt, rdEl_eq_readEl _ (elemAt_lt _ _ _),
    PackTy.bits_eq_e, PackTy.signed_eq_sg]

/-- Settles O4: by the rows of the multiply-add instructions. -/
theorem multiplyAdd : Obligations.MultiplyAdd := by
  intro i hi s
  unfold madWrites at hi
  split at hi
  next d a b c => exact .of_member_dst rfl (laneMad_eq d a b c) fun _ => rfl
  next d a b c => exact .of_member_dst rfl (laneMadh_eq d a b c) fun _ => rfl
  next d a b c => exact .of_member_dst rfl (laneMadhn_eq d a b c) fun _ => rfl
  next => exact .of_member_dstPair rfl rfl fun _ => rfl
  next => exact .of_member_dstPair rfl rfl fun _ => rfl
  next sa sb sat d a b c => exact .of_member_dst rfl (laneDot_eq 8 sa sb sat d a b c) fun _ => rfl
  next sa sb sat d a b c => exact .of_member_dst rfl (laneDot_eq 16 sa sb sat d a b c) fun _ => rfl
  next ty sat d a b c => exact .of_member_dst rfl (laneSad_eq ty sat d a b c) fun _ => rfl
  next => cases hi

/-! ## Words given by their bits -/

theorem ite_one_zero_eq_toNat (b : Bool) : (if b then 1 else 0) = b.toNat := by cases b <;> rfl

theorem testBit_ofElems_one (n : Nat) (f : Nat → Bool) (j : Nat) :
    (ofElems 1 n fun j => if f j then 1 else 0).testBit j = (decide (j < n) && f j) := by
  induction n generalizing f j with
  | zero => exact Nat.zero_testBit j
  | succ n ih =>
    rw [ofElems_succ, ite_one_zero_eq_toNat, Nat.pow_one]
    have hbit : (f 0).toNat < 2 := Bool.toNat_lt (f 0)
    cases j with
    | zero =>
      have hmod (r : Nat) : ((f 0).toNat + 2 * r) % 2 = (f 0).toNat := by omega
      rw [Nat.testBit_zero, hmod]
      cases f 0 <;> simp
    | succ j =>
      have hdiv (r : Nat) : ((f 0).toNat + 2 * r) / 2 = r := by omega
      rw [Nat.testBit_add_one, hdiv, ih fun j => f (j + 1)]
      simp only [Nat.add_lt_add_iff_right]

theorem getLsbD_ofBits (f : Nat → Bool) {j : Nat} (hj : j < 32) : (ofBits f).getLsbD j = f j := by
  rw [ofBits, BitVec.getLsbD_ofNat, testBit_ofElems_one, decide_eq_true hj, Bool.true_and, Bool.true_and]

theorem eq_ofBits {v : Word} {f : Nat → Bool} (h : ∀ j < 32, v.getLsbD j = f j) : v = ofBits f :=
  BitVec.eq_of_getLsbD_eq fun j hj => (h j hj).trans (getLsbD_ofBits f hj).symm

theorem ofNat_eq_ofBits {x : Nat} {f : Nat → Bool} (h : ∀ j < 32, x.testBit j = f j) : BitVec.ofNat 32 x = ofBits f :=
  eq_ofBits fun j hj => by rw [BitVec.getLsbD_ofNat, decide_eq_true hj, Bool.true_and, h j hj]

/-! ## BITF (R110 to R113). A field that begins at `pos` has `l` bits; what lies above bit 31 is absent (R110) -/

theorem testBit_field (x pos l j : Nat) : (x / 2 ^ pos % 2 ^ l).testBit j = (decide (j < l) && x.testBit (pos + j)) := by
  rw [Nat.testBit_mod_two_pow, Nat.testBit_div_two_pow, Nat.add_comm]

/-- Sign extension repeats the last bit. -/
theorem getLsbD_signExtend_min {w l j : Nat} (hj : j < w) (x : BitVec l) :
    (x.signExtend w).getLsbD j = x.getLsbD (min j (l - 1)) := by
  rw [BitVec.getLsbD_signExtend, decide_eq_true hj, Bool.true_and, BitVec.msb_eq_getLsbD_last]
  split
  · rw [Nat.min_eq_left (by omega)]
  · rw [Nat.min_eq_right (by omega)]

theorem signedField_eq_ofBits (x : Word) (pos l : Nat) :
    (if l = 0 then 0 else BitVec.ofInt 32 (sInt l (x.toNat / 2 ^ pos % 2 ^ l))) =
      ofBits fun j => decide (l ≠ 0) && x.getLsbD (pos + min j (l - 1)) := by
  refine eq_ofBits fun j hj => ?_
  by_cases hl : l = 0
  · simp [hl]
  · have hlast : min j (l - 1) < l := by omega
    rw [if_neg hl, sInt_eq_toInt (Nat.mod_lt _ (Nat.two_pow_pos l)), ← BitVec.signExtend, getLsbD_signExtend_min hj,
      BitVec.getLsbD_ofNat, testBit_field, decide_eq_true hlast, decide_eq_true hl]
    rfl

theorem unsignedField_eq_ofBits (x : Word) (pos l : Nat) :
    (if l = 0 then 0 else BitVec.ofNat 32 (x.toNat / 2 ^ pos % 2 ^ l)) =
      ofBits fun j => decide (j < l) && x.getLsbD (pos + j) := by
  split
  next hl => exact eq_ofBits fun j _ => by simp [hl]
  next => exact ofNat_eq_ofBits fun j _ => testBit_field _ _ _ _

theorem getLsbD_fieldMask (pos l : Nat) {j : Nat} (hj : j < 32) :
    (BitVec.ofNat 32 (ones l * 2 ^ pos)).getLsbD j = decide (pos ≤ j ∧ j < pos + l) := by
  rw [BitVec.getLsbD_ofNat, Nat.testBit_mul_two_pow, ones, Nat.testBit_two_pow_sub_one, decide_eq_true hj,
    Bool.true_and, ← Bool.decide_and, decide_eq_decide]
  omega

theorem insertField_eq_ofBits (x y : Word) (pos l : Nat) :
    (y &&& ~~~(BitVec.ofNat 32 (ones l * 2 ^ pos))) ||| (x <<< pos &&& BitVec.ofNat 32 (ones l * 2 ^ pos)) =
      ofBits fun j => if pos ≤ j ∧ j < pos + l then x.getLsbD (j - pos) else y.getLsbD j := by
  refine eq_ofBits fun j hj => ?_
  rw [BitVec.getLsbD_or, BitVec.getLsbD_and, BitVec.getLsbD_and, BitVec.getLsbD_not, getLsbD_fieldMask pos l hj,
    BitVec.getLsbD_shiftLeft]
  split
  next h => simp [h, hj]
  next h => simp [h, hj]

theorem testBit_pair (x y : Word) (j : Nat) :
    (x.toNat + 2 ^ 32 * y.toNat).testBit j = if j < 32 then x.getLsbD j else y.getLsbD (j - 32) := by
  rw [Nat.add_comm, Nat.testBit_two_pow_mul_add _ x.isLt]; rfl

/-- A funnel shift reads on past bit 63 in a second copy of the pair where it rotates, and in zeros where it does not. -/
theorem testBit_funnel (rot : Bool) {v : Nat} (hv : v < 2 ^ 64) (k j : Nat) :
    ((if rot then v + 2 ^ 64 * v else v) / 2 ^ k).testBit j =
      if k + j < 64 then v.testBit (k + j) else rot && v.testBit (k + j - 64) := by
  rw [Nat.testBit_div_two_pow, Nat.add_comm j]
  cases rot
  case true => rw [if_pos rfl, Nat.add_comm v, Nat.testBit_two_pow_mul_add _ hv, Bool.true_and]
  case false =>
    rw [if_neg Bool.false_ne_true]
    split
    next => rfl
    next h => exact Nat.testBit_lt_two_pow (Nat.lt_of_lt_of_le hv (Nat.pow_le_pow_right (by decide) (Nat.le_of_not_lt h)))

theorem laneBfx_eq (d a pos len : Nat) : laneBfx d a pos len = fun t => t.dst d (ofBits fun j =>
    decide (min len (32 - pos) ≠ 0) && (t.src a).getLsbD (pos + min j (min len (32 - pos) - 1))) := by
  funext t; exact congrArg (t.dst d) (signedField_eq_ofBits _ _ _)

theorem laneBfxn_eq (d a pos len : Nat) : laneBfxn d a pos len = fun t => t.dst d (ofBits fun j =>
    decide (j < min len (32 - pos)) && (t.src a).getLsbD (pos + j)) := by
  funext t; exact congrArg (t.dst d) (unsignedField_eq_ofBits _ _ _)

theorem laneBfi_eq (d a b pos len : Nat) : laneBfi d a b pos len = fun t => t.dst d (ofBits fun j =>
    if pos ≤ j ∧ j < pos + min len (32 - pos) then (t.src a).getLsbD (j - pos) else (t.src b).getLsbD j) := by
  funext t; exact congrArg (t.dst d) (insertField_eq_ofBits _ _ _ _)

theorem laneBgath_eq (d a b sel : Nat) : laneBgath d a b sel = fun t => t.dst d (BitVec.ofNat 32 (ofElems 8 4 fun i =>
    if elemAt 4 sel i < 8 then elemAt 8 ((t.src a).toNat + (t.src b).toNat * 2 ^ 32) (elemAt 4 sel i) else 0)) := by
  funext t; simp only [laneBgath, fromElems_map_range, elem_eq_elemAt, Nat.mul_comm (2 ^ 32)]

theorem laneSpan_eq (rot : Bool) (d a b : Nat) (n : SpanCount) : laneSpan rot d a b n = fun t => t.dst d (ofBits fun j =>
    let v := fun j => if j < 32 then (t.src a).getLsbD j else (t.src b).getLsbD (j - 32)
    if spanCount n t + j < 64 then v (spanCount n t + j) else rot && v (spanCount n t + j - 64)) := by
  funext t
  have hlt : (t.src a).toNat + 2 ^ 32 * (t.src b).toNat < 2 ^ 64 := by omega
  refine congrArg (t.dst d) (ofNat_eq_ofBits fun j _ => ?_)
  simp only [testBit_funnel rot hlt, testBit_pair]

theorem laneLut3_eq (d a b c tt : Nat) : laneLut3 d a b c tt = fun t => t.dst d (ofBits fun j =>
    tt.testBit (bit ((t.src a).getLsbD j) + 2 * bit ((t.src b).getLsbD j) + 4 * bit ((t.src c).getLsbD j))) := by
  funext t
  simp only [laneLut3, lut3, fromElems_map_range, ← Nat.toNat_testBit, ← ite_one_zero_eq_toNat, ofBits]

/-- Settles O5: by the rows of BITF. None of them needs the field ranges of a well-formed instruction. -/
theorem bitFieldsAndTables : Obligations.BitFieldsAndTables := by
  intro i hi _hwf s
  unfold bitFieldWrites at hi
  split at hi
  next d a pos len => exact .of_member_dst rfl (laneBfx_eq d a pos len) fun _ => rfl
  next d a pos len => exact .of_member_dst rfl (laneBfxn_eq d a pos len) fun _ => rfl
  next d a b pos len => exact .of_member_dst rfl (laneBfi_eq d a b pos len) fun _ => rfl
  next d a b sel => exact .of_member_dst rfl (laneBgath_eq d a b sel) fun _ => rfl
  next rot d a b n => exact .of_member_dst rfl (laneSpan_eq rot d a b n) fun _ => by cases n <;> rfl
  next d a b c tt => exact .of_member_dst rfl (laneLut3_eq d a b c tt) fun _ => rfl
  next => cases hi

end Sys2Proof.Machine
end
